-- ==== Sys2Proof/Word.lean ====
section
/-! DEFINITION. The word types of the Salivimer S4 (spec/00_scope.md R6, spec/02_thread_state.md R17). -/

namespace Sys2Proof

/-- A 32-bit register word (R17). -/
abbrev Word := BitVec 32
/-- A 64-bit instruction word, clause header or register pair (R6, R33). -/
abbrev DWord := BitVec 64
/-- One byte of memory. -/
abbrev Byte := BitVec 8
/-- A word address of instruction memory: 48 bits, wrapping (R33). -/
abbrev WAddr := BitVec 48
/-- A buffer record (R155). -/
abbrev BufRec := BitVec 128
/-- A trap record (R30) or a team descriptor (R140). -/
abbrev Rec256 := BitVec 256
/-- A kernel object record (R299). -/
abbrev ObjRec := BitVec 512
/-- A shape record (R209). -/
abbrev ShapeRec := BitVec 1536

end Sys2Proof
end

