-- ==== Sys2Proof/Config.lean ====
section
/-! DEFINITION. What an implementation fixes, and the free values: constants with no body, so that nothing
proved of the model rests on a number the spec does not give. -/

namespace Sys2Proof.Config

/-- The unwritten contents of an accumulator tile (R17, R146): word `i` of tile `k` of the team admitted when
the free counter read `seed` (log 8). -/
opaque freeTile : (seed k i : Nat) → Word

/-- FRSQ, FEXP2, FLOG2, FSIN, FCOS and FTANH of a binary32 source that R111 and R112 give no exact result for: a
fixed function of the source bits (R111); the bits are used where they keep R111's bound (log 10). -/
opaque frsq32 : Word → Word
opaque fexp2f32 : Word → Word
opaque flog2f32 : Word → Word
opaque fsin32 : Word → Word
opaque fcos32 : Word → Word
opaque ftanh32 : Word → Word
/-- The same six functions of a binary16 source. -/
opaque frsq16 : BitVec 16 → BitVec 16
opaque fexp2f16 : BitVec 16 → BitVec 16
opaque flog2f16 : BitVec 16 → BitVec 16
opaque fsin16 : BitVec 16 → BitVec 16
opaque fcos16 : BitVec 16 → BitVec 16
opaque ftanh16 : BitVec 16 → BitVec 16

/-- Whether two different sets of register writes give one spin-detector signature (R199 leaves it open). -/
opaque falseMatch : Nat → Bool

/-- The fused-off cluster of each compute die (R3), written into HARVEST at bring-up (R424, R432; log 7). -/
opaque fusedCluster : Nat → Fin 24
/-- Whether a die's HBM stack trains at bring-up (R420, R424). -/
opaque stackTrains : Nat → Bool
/-- The fused minimum patch version PVMIN (R426). -/
opaque patchVersionMin : Nat
/-- The root key for firmware patches, the one whose SHA-256 is fused (R426, R440), as RFC 8554 writes an HSS public key. -/
opaque patchRootKey : List Byte
/-- The words of the pattern store, a ROM of 4,096 words (R425). -/
opaque patternStore : (address : Nat) → BitVec 96
/-- Whether a core's strike sensors fail their test, as a function of the free counter and of the core's place (R434). -/
opaque sensorFails : (test place : Nat) → Bool
/-- What PWRST shows in a cycle: the throttled fraction, the input power and the input voltage (R436). -/
opaque powerStatus : (cycle : Nat) → DWord
/-- How many domain ports train when DPUP is set (R410), as a function of the free counter; cut to 96 where used. -/
opaque portsTrained : Nat → Nat
/-- The trained link width, one of the three that R401 offers (16, 8 and 4 lanes), and whether CXL trained (R402). -/
opaque linkWidth : Fin 3
opaque cxlTrained : Bool
/-- The AES-256-XTS key pair that a mailbox import decapsulates (R438). -/
opaque decapsulate : List Byte → BitVec 512
/-- Whether the MAC of a key-destroy command verifies (R438). -/
opaque destroyMacOk : (key : BitVec 512) → List Byte → Bool
/-- The hash of the Cupola image that system software has loaded (R424, R440), as a function of the reports' index. -/
opaque cupolaHash : (index : Nat) → BitVec 256
/-- The configuration hash of a partition (R440), of the registers of its block that do not stand at their reset values. -/
opaque configHash : (part : Nat) → (registers : List (Nat × DWord)) → BitVec 256
/-- The device's ML-KEM-1024 public key (R438, R440). -/
opaque mlkemKey : List Byte
/-- An attestation report (R440): what it signs, with the signature at this index of the one-time keys, as bytes (log 24). -/
opaque attestReport : (index : Nat) → (signed : List Byte) → List Byte
/-- How much later than the next cycle an operation completes whose time the spec leaves open (R5, R79), as a function
of the free counter. -/
opaque freeDelay : Nat → Nat
/-- How much later than the next cycle the contents of a core's caches change by themselves again, and which of some things
listed in order, by bits, are chosen (R5, R216, R219, R346), as functions of the free counter. -/
opaque freeAge : Nat → Nat
opaque freeSubset : Nat → Nat
/-- One less than the requests that a bank's queue takes (R170 gives no depth; log 51). -/
opaque bankQueueDepth : Nat
/-- The element of a BX block at a position that contributes nothing, where `.pk` delivers it (R117): a fixed function of
what the threads contribute, so that a re-execution delivers the same bits (R120; log 14). -/
opaque absentElem : (contributed : List (Nat × Nat)) → (position : Nat) → Byte

end Sys2Proof.Config
end

