-- ==== Sys2Proof/Syntax.lean ====
section
/-! DEFINITION. The instructions and events of the Salivimer S4: one constructor per row of
spec/opcode_table.json.  An instruction word carries the fields of its format (spec/03_instruction_words.md R39 to
R48) by the manual's own names; which of them an opcode uses, and how, is said once, in WellFormed.lean.  An event
(spec/95_what_each_step_holds.md) carries the names of the units it concerns. -/

namespace Sys2Proof

/-- The guard of a wave instruction (R39): GP, and GN for "act where the predicate is 0". -/
structure Guard where
  gp : BitVec 5
  gn : Bool
  deriving DecidableEq, Repr

/-- "No guard": GP 31, GN 0 (R10, R39). -/
def Guard.always : Guard := ⟨31, false⟩

/-- Format R (R39, R40). -/
structure RForm where
  g : Guard
  d : BitVec 6
  a : BitVec 6
  b : BitVec 6
  c : BitVec 6
  dk : Bool
  ak : Bool
  bk : Bool
  ck : Bool
  ty : BitVec 4
  rm : BitVec 2
  sat : Bool
  ps : BitVec 5
  cc : BitVec 4
  sub : BitVec 6
  deriving DecidableEq, Repr

/-- Format I (R39, R43). -/
structure IForm where
  g : Guard
  d : BitVec 6
  a : BitVec 6
  dk : Bool
  ak : Bool
  mod4 : BitVec 4
  imm : Word
  deriving DecidableEq, Repr

/-- Format M (R39, R44). -/
structure MForm where
  g : Guard
  d : BitVec 6
  a : BitVec 6
  buf : BitVec 4
  ak : Bool
  dk : Bool
  off : BitVec 20
  scope : BitVec 3
  order : BitVec 2
  width : BitVec 3
  sub : BitVec 4
  deriving DecidableEq, Repr

/-- Format X (R39, R45). -/
structure XForm where
  g : Guard
  d : BitVec 6
  a : BitVec 6
  b : BitVec 6
  c : BitVec 6
  tag : BitVec 6
  bar : BitVec 4
  tv : Bool
  bv : Bool
  mod : BitVec 14
  deriving DecidableEq, Repr

/-- Format B (R39, R46). -/
structure BForm where
  g : Guard
  d : BitVec 6
  target : Word
  mod : BitVec 12
  deriving DecidableEq, Repr

/-- Format K (R39, R47); `rsv` is bits 25:22. -/
structure KForm where
  g : Guard
  d : BitVec 6
  a : BitVec 6
  b : BitVec 6
  c : BitVec 6
  rsv : BitVec 4
  mod : BitVec 22
  deriving DecidableEq, Repr

/-- Format MS, a stream word (R48); `rsv` is bit 43. -/
structure MSForm where
  m1 : BitVec 4
  m2 : BitVec 4
  m3 : BitVec 4
  rsv : Bool
  acc : BitVec 3
  fmta : BitVec 4
  fmtb : BitVec 4
  imm : Word
  deriving DecidableEq, Repr

/-- A core's place (R18): die, cluster of the die, core of the cluster. -/
structure CoreId where
  die : Nat
  cluster : Nat
  core : Nat
  deriving DecidableEq, Repr

/-- A wave's place: its core, the TEAM object id of its team, and its `%wid`. -/
structure WaveId where
  core : CoreId
  team : Nat
  wid : Nat
  deriving DecidableEq, Repr

/-- The key of a fault-table entry beside its TEAM id (R349): va bits 56:12, and whether the access is a fetch. -/
structure FaultKey where
  vpn : BitVec 45
  fetch : Bool
  deriving DecidableEq, Repr

/-- The units outside the cores that a strike report may name (R294), and those of a machine-check (R431). -/
inductive DieUnit where
  | l2 | crossbar | homeAgent | memoryController | crucible | runner | copyEngine | serviceCores | station
  deriving DecidableEq, Repr

/-- How the package that holds a far port's other end answers a forwarded KSEND (R326): what another package of the
domain does is an input of this one. -/
inductive RemoteAnswer where
  | ok | full | clash | absent | unavailable
  deriving DecidableEq, Repr

/-- A page that another package's sender grants: its domain physical address, size code and rights (R308, R328). -/
structure FarPage where
  pa : Nat
  sz : Nat
  rights : BitVec 3
  deriving DecidableEq, Repr

/-- A far port's traffic (R326, R328): the answer to a send of this package; a send of another package, that arrives at its
port's home here, under the number `ref` of that package; and the end of that package's shootdown for a grant, which commits
the reserved message or releases it. -/
inductive FarSend where
  | answered (id : Nat) (answer : RemoteAnswer)
  | arrives (pkg ref sender nameId : Nat) (name : BitVec 256) (port : Nat) (msg : BitVec 512) (grant : Option FarPage)
  | settled (pkg ref port : Nat) (ok : Bool)
  deriving DecidableEq, Repr

/-- What reaches the name directory (R321): the insertion a KNAME of this package asks for, an entry that another package
publishes, or the removal of one. -/
inductive DirInput where
  | own (id : Nat)
  | other (nsid : Nat) (name : BitVec 256) (pkg nameId port : Nat)
  | gone (nsid : Nat) (name : BitVec 256) (pkg : Nat)
  deriving DecidableEq, Repr

/-- A completion ring: a port slot's (R405), a partition's management ring, or the package's (R407). -/
inductive RingId where
  | slot (part slot : Nat) | part (p : Nat) | package
  deriving DecidableEq, Repr

/-- A 32-byte management request (R418). -/
abbrev MgmtReq := BitVec 256

/-- A host access that reaches package memory (R353, R439): an aligned piece of `bytes` bytes at a package physical
address, a read or a write of the data.  With `own` set it is the host processor's access to host memory, at a host physical
address (R353, R403, R405; log 85). -/
structure HostAccess where
  addr : Nat
  bytes : Nat
  write : Option (List Byte)
  own : Bool := false
  deriving DecidableEq, Repr

/-- The instructions and events: one constructor per row of spec/opcode_table.json. -/
inductive Instr where
  /-- IADD (R83): Integer add of two register sources, wrapped or saturated in the type. -/
  | iadd (f : RForm)
  /-- IADD_IMM (R83): I form of IADD with a 32-bit immediate as the last source. -/
  | iaddImm (f : IForm)
  /-- ISUB (R83): Integer subtract. -/
  | isub (f : RForm)
  /-- ISUB_IMM (R83): I form of ISUB. -/
  | isubImm (f : IForm)
  /-- IADD3 (R83): Three-operand integer add. -/
  | iadd3 (f : RForm)
  /-- IADDC (R84): Unsigned 32-bit add with carry-in predicate and carry-out predicate. -/
  | iaddc (f : RForm)
  /-- IMUL (R83): Integer multiply, low bits or saturated. -/
  | imul (f : RForm)
  /-- IMUL_IMM (R83): I form of IMUL. -/
  | imulImm (f : IForm)
  /-- IMULH (R83): High half of an integer product. -/
  | imulh (f : RForm)
  /-- IMULH_IMM (R83): I form of IMULH. -/
  | imulhImm (f : IForm)
  /-- IMAD (R83): Integer multiply-add as one exact sum. -/
  | imad (f : RForm)
  /-- IMADW (R83): Widening 32x32 multiply-add into a 64-bit pair. -/
  | imadw (f : RForm)
  /-- IMIN (R83): Integer minimum. -/
  | imin (f : RForm)
  /-- IMIN_IMM (R83): I form of IMIN. -/
  | iminImm (f : IForm)
  /-- IMAX (R83): Integer maximum. -/
  | imax (f : RForm)
  /-- IMAX_IMM (R83): I form of IMAX. -/
  | imaxImm (f : IForm)
  /-- IABS (R83): Integer absolute value. -/
  | iabs (f : RForm)
  /-- INEG (R83): Integer negation. -/
  | ineg (f : RForm)
  /-- ICMP (R85): Integer compare writing a predicate. -/
  | icmp (f : RForm)
  /-- ICMP_IMM (R85): Integer compare against an immediate, one opcode per condition. -/
  | icmpImm (cc : Fin 6) (f : IForm)
  /-- ISEL (R85): Select one of two sources by a predicate. -/
  | isel (f : RForm)
  /-- LEA (R86): 64-bit address computation with a shifted index. -/
  | lea (f : RForm)
  /-- LEA_IMM (R86): I form of LEA adding an extended immediate. -/
  | leaImm (f : IForm)
  /-- CLAMP (R83): Clamp a value between two bounds. -/
  | clamp (f : RForm)
  /-- AND (R87): Bitwise and. -/
  | and (f : RForm)
  /-- AND_IMM (R87): I form of AND. -/
  | andImm (f : IForm)
  /-- OR (R87): Bitwise or. -/
  | or (f : RForm)
  /-- OR_IMM (R87): I form of OR. -/
  | orImm (f : IForm)
  /-- XOR (R87): Bitwise exclusive or. -/
  | xor (f : RForm)
  /-- XOR_IMM (R87): I form of XOR. -/
  | xorImm (f : IForm)
  /-- ANDN (R87): Bitwise and with complement. -/
  | andn (f : RForm)
  /-- ANDN_IMM (R87): I form of ANDN. -/
  | andnImm (f : IForm)
  /-- ORN (R87): Bitwise or with complement. -/
  | orn (f : RForm)
  /-- ORN_IMM (R87): I form of ORN. -/
  | ornImm (f : IForm)
  /-- SHL (R88): Logical shift left. -/
  | shl (f : RForm)
  /-- SHL_IMM (R88): Shift left by an immediate amount. -/
  | shlImm (f : IForm)
  /-- SHR (R88): Logical shift right. -/
  | shr (f : RForm)
  /-- SHR_IMM (R88): Logical shift right by an immediate amount. -/
  | shrImm (f : IForm)
  /-- SAR (R88): Arithmetic shift right. -/
  | sar (f : RForm)
  /-- SAR_IMM (R88): Arithmetic shift right by an immediate amount. -/
  | sarImm (f : IForm)
  /-- ROL (R88): Rotate left. -/
  | rol (f : RForm)
  /-- ROL_IMM (R88): Rotate left by an immediate amount. -/
  | rolImm (f : IForm)
  /-- FSH (R89): Funnel shift over a 64-bit concatenation. -/
  | fsh (f : RForm)
  /-- BFX (R90): Bit-field extract. -/
  | bfx (f : RForm)
  /-- BFX_IMM (R90): Bit-field extract with an immediate specifier. -/
  | bfxImm (f : IForm)
  /-- BFI (R90): Bit-field insert. -/
  | bfi (f : RForm)
  /-- POPC (R91): Population count. -/
  | popc (f : RForm)
  /-- CLZ (R91): Count leading zeros. -/
  | clz (f : RForm)
  /-- CTZ (R91): Count trailing zeros. -/
  | ctz (f : RForm)
  /-- BREV (R91): Bit reverse. -/
  | brev (f : RForm)
  /-- PERM (R92): Byte permute of two registers by selectors. -/
  | perm (f : RForm)
  /-- MOV (R93): Register move. -/
  | mov (f : RForm)
  /-- MOVI (R93): Move of an extended immediate. -/
  | movi (f : IForm)
  /-- PAND (R94): Predicate and with optional negations. -/
  | pand (f : RForm)
  /-- POR (R94): Predicate or. -/
  | por (f : RForm)
  /-- PXOR (R94): Predicate exclusive or. -/
  | pxor (f : RForm)
  /-- PNOT (R94): Predicate inverse. -/
  | pnot (f : RForm)
  /-- PSET (R94): Set a predicate when a register is nonzero. -/
  | pset (f : RForm)
  /-- FADD (R106): Floating add rounded once. -/
  | fadd (f : RForm)
  /-- FADD_IMM (R106): I form of FADD with a binary32 immediate. -/
  | faddImm (f : IForm)
  /-- FSUB (R106): Floating subtract. -/
  | fsub (f : RForm)
  /-- FSUB_IMM (R106): I form of FSUB. -/
  | fsubImm (f : IForm)
  /-- FMUL (R106): Floating multiply. -/
  | fmul (f : RForm)
  /-- FMUL_IMM (R106): I form of FMUL. -/
  | fmulImm (f : IForm)
  /-- FFMA (R106): Fused multiply-add rounded once. -/
  | ffma (f : RForm)
  /-- FMIN (R107): Floating minimum, numbers preferred over NaN. -/
  | fmin (f : RForm)
  /-- FMIN_IMM (R107): I form of FMIN. -/
  | fminImm (f : IForm)
  /-- FMAX (R107): Floating maximum. -/
  | fmax (f : RForm)
  /-- FMAX_IMM (R107): I form of FMAX. -/
  | fmaxImm (f : IForm)
  /-- FMINN (R107): Floating minimum propagating NaN. -/
  | fminn (f : RForm)
  /-- FMINN_IMM (R107): I form of FMINN. -/
  | fminnImm (f : IForm)
  /-- FMAXN (R107): Floating maximum propagating NaN. -/
  | fmaxn (f : RForm)
  /-- FMAXN_IMM (R107): I form of FMAXN. -/
  | fmaxnImm (f : IForm)
  /-- FCMP (R108): Floating compare writing a predicate. -/
  | fcmp (f : RForm)
  /-- FCMP_IMM (R108): Floating compare against a binary32 immediate. -/
  | fcmpImm (cc : Fin 6) (f : IForm)
  /-- FCLASS (R109): Classify a floating value into a one-hot mask. -/
  | fclass (f : RForm)
  /-- FRCP (R111): Correctly rounded reciprocal. -/
  | frcp (f : RForm)
  /-- FRSQ (R111): Reciprocal square root within a bound. -/
  | frsq (f : RForm)
  /-- FSQRT (R111): Correctly rounded square root. -/
  | fsqrt (f : RForm)
  /-- FEXP2 (R111): Base-2 exponential. -/
  | fexp2 (f : RForm)
  /-- FLOG2 (R111): Base-2 logarithm. -/
  | flog2 (f : RForm)
  /-- FSIN (R111): Sine. -/
  | fsin (f : RForm)
  /-- FCOS (R111): Cosine. -/
  | fcos (f : RForm)
  /-- FTANH (R111): Hyperbolic tangent. -/
  | ftanh (f : RForm)
  /-- FRND (R110): Round to an integral value. -/
  | frnd (f : RForm)
  /-- FFRC (R110): Fractional part. -/
  | ffrc (f : RForm)
  /-- FLDEXP (R110): Scale by a power of two. -/
  | fldexp (f : RForm)
  /-- FLDEXP_IMM (R110): FLDEXP with an integer immediate exponent. -/
  | fldexpImm (f : IForm)
  /-- FGETEXP (R110): Extract the unbiased exponent. -/
  | fgetexp (f : RForm)
  /-- HADD2 (R113): Packed half add. -/
  | hadd2 (f : RForm)
  /-- HMUL2 (R113): Packed half multiply. -/
  | hmul2 (f : RForm)
  /-- HFMA2 (R113): Packed half fused multiply-add. -/
  | hfma2 (f : RForm)
  /-- HMIN2 (R113): Packed half minimum. -/
  | hmin2 (f : RForm)
  /-- HMAX2 (R113): Packed half maximum. -/
  | hmax2 (f : RForm)
  /-- FDOT2 (R114): Two-element dot product with addend, rounded once. -/
  | fdot2 (f : RForm)
  /-- FDOT4 (R114): Four-element FP8 dot product with FP32 addend. -/
  | fdot4 (f : RForm)
  /-- IDOT4 (R114): Four-byte integer dot product with addend. -/
  | idot4 (f : RForm)
  /-- CVT (R115): Convert one value between types. -/
  | cvt (f : RForm)
  /-- CVTPK (R116): Convert two values and pack them. -/
  | cvtpk (f : RForm)
  /-- BXPACK (R117): Encode one BX block from the wave's values. -/
  | bxpack (f : RForm)
  /-- BXUNPK (R118): Decode one BX element per thread. -/
  | bxunpk (f : RForm)
  /-- SHFL (R133): Read another thread's register by index, offset or xor. -/
  | shfl (f : RForm)
  /-- VOTE (R134): Any, all, uniform or ballot over contributors' predicates. -/
  | vote (f : RForm)
  /-- REDW (R135): Wave reduction in a fixed tree. -/
  | redw (f : RForm)
  /-- SCANW (R135): Wave inclusive or exclusive scan. -/
  | scanw (f : RForm)
  /-- MATCHW (R136): Mask of threads holding the same bit pattern. -/
  | matchw (f : RForm)
  /-- SADD (R96): Scalar add. -/
  | sadd (f : RForm)
  /-- SADD_IMM (R96): Scalar add of an immediate. -/
  | saddImm (f : IForm)
  /-- SSUB (R96): Scalar subtract. -/
  | ssub (f : RForm)
  /-- SSUB_IMM (R96): Scalar subtract of an immediate. -/
  | ssubImm (f : IForm)
  /-- SMUL (R96): Scalar multiply. -/
  | smul (f : RForm)
  /-- SMUL_IMM (R96): Scalar multiply by an immediate. -/
  | smulImm (f : IForm)
  /-- SMAD (R96): Scalar multiply-add. -/
  | smad (f : RForm)
  /-- SAND (R96): Scalar and. -/
  | sand (f : RForm)
  /-- SAND_IMM (R96): Scalar and with an immediate. -/
  | sandImm (f : IForm)
  /-- SOR (R96): Scalar or. -/
  | sor (f : RForm)
  /-- SOR_IMM (R96): Scalar or with an immediate. -/
  | sorImm (f : IForm)
  /-- SXOR (R96): Scalar exclusive or. -/
  | sxor (f : RForm)
  /-- SXOR_IMM (R96): Scalar exclusive or with an immediate. -/
  | sxorImm (f : IForm)
  /-- SSHL (R96): Scalar shift left. -/
  | sshl (f : RForm)
  /-- SSHL_IMM (R96): Scalar shift left by an immediate. -/
  | sshlImm (f : IForm)
  /-- SSHR (R96): Scalar logical shift right. -/
  | sshr (f : RForm)
  /-- SSHR_IMM (R96): Scalar logical shift right by an immediate. -/
  | sshrImm (f : IForm)
  /-- SSAR (R96): Scalar arithmetic shift right. -/
  | ssar (f : RForm)
  /-- SSAR_IMM (R96): Scalar arithmetic shift right by an immediate. -/
  | ssarImm (f : IForm)
  /-- SMIN (R96): Scalar minimum. -/
  | smin (f : RForm)
  /-- SMIN_IMM (R96): Scalar minimum with an immediate. -/
  | sminImm (f : IForm)
  /-- SMAX (R96): Scalar maximum. -/
  | smax (f : RForm)
  /-- SMAX_IMM (R96): Scalar maximum with an immediate. -/
  | smaxImm (f : IForm)
  /-- SCMP (R96): Scalar compare writing one value into a predicate of every thread of the run. -/
  | scmp (f : RForm)
  /-- SCMP_IMM (R96): Scalar compare against an immediate. -/
  | scmpImm (cc : Fin 6) (f : IForm)
  /-- SSEL (R97): Scalar select by the first active thread's predicate. -/
  | ssel (f : RForm)
  /-- SMOV (R96): Scalar register move. -/
  | smov (f : RForm)
  /-- SMOVI (R96): Scalar immediate move. -/
  | smovi (f : IForm)
  /-- SBFX (R96): Scalar bit-field extract. -/
  | sbfx (f : RForm)
  /-- SBFX_IMM (R96): Scalar bit-field extract with an immediate specifier. -/
  | sbfxImm (f : IForm)
  /-- SPOPC (R96): Scalar population count. -/
  | spopc (f : RForm)
  /-- SFIRST (R98): Copy the first active thread's v register into an s register. -/
  | sfirst (f : RForm)
  /-- SRD (R99): Read a special register. -/
  | srd (f : RForm)
  /-- SWR (R100): Write the resume PC or clause base of the trap record. -/
  | swr (f : RForm)
  /-- LDB (R162): Load through a buffer record. -/
  | ldb (f : MForm)
  /-- STB (R162): Store through a buffer record, held until its heat is set. -/
  | stb (f : MForm)
  /-- ATB (R165): Global atomic read-modify-write returning the old value. -/
  | atb (f : MForm)
  /-- REDB (R165): Global atomic reduction with no return. -/
  | redb (f : MForm)
  /-- LDS (R170): Scratchpad load. -/
  | lds (f : MForm)
  /-- STS (R170): Scratchpad store. -/
  | sts (f : MForm)
  /-- ATS (R165): Scratchpad atomic read-modify-write. -/
  | ats (f : MForm)
  /-- LDC (R167): Load a buffer record into a b register. -/
  | ldc (f : MForm)
  /-- PREF (R168): Prefetch a line, dropped on any fault. -/
  | pref (f : MForm)
  /-- CINV (R168): Write back and invalidate a line in scoped caches. -/
  | cinv (f : MForm)
  /-- CWB (R168): Write back a line from scoped caches. -/
  | cwb (f : MForm)
  /-- TCOPY (R218): Copy a tensor window from memory into scratchpad. -/
  | tcopy (f : XForm)
  /-- TSTORE (R219): Copy a scratchpad window out to a tensor in memory. -/
  | tstore (f : XForm)
  /-- TRED (R220): Reduce a scratchpad window into a tensor in memory. -/
  | tred (f : XForm)
  /-- BCOPY (R222): Bulk byte copy between a buffer record and scratchpad. -/
  | bcopy (f : XForm)
  /-- GATHR (R221): Copy rows chosen by an index list into scratchpad. -/
  | gathr (f : XForm)
  /-- DCOPY (R270): Push scratchpad bytes to memory on another die with an optional flag add. -/
  | dcopy (f : XForm)
  /-- ACOPY (R223): Move an accumulator tile to or from scratchpad. -/
  | acopy (f : XForm)
  /-- RFENCE (R216): Invalidate record-cache entries. -/
  | rfence (f : XForm)
  /-- WAIT (R174): Hold the run until counters fall to thresholds. -/
  | wait (f : IForm)
  /-- TWAIT (R180): Hold the run until masked copy tags are ready. -/
  | twait (f : XForm)
  /-- TFIND (R180): Return the lowest ready tag under a mask. -/
  | tfind (f : XForm)
  /-- FENCE (R176): Scoped acquire, release or full fence. -/
  | fence (f : XForm)
  /-- BARINIT (R177): Set a barrier's expected count and clear its phase state. -/
  | barinit (f : XForm)
  /-- BARA (R177): Arrive on a barrier. -/
  | bara (f : XForm)
  /-- BARX (R177): Arrive on a barrier and add pending bytes. -/
  | barx (f : XForm)
  /-- BARW (R178): Hold the run until a barrier phase completes. -/
  | barw (f : XForm)
  /-- BART (R179): Test a barrier phase without waiting. -/
  | bart (f : XForm)
  /-- MMA (R241): Matrix multiply-accumulate into an accumulator tile. -/
  | mma (f : MSForm)
  /-- MZERO (R242): Zero an accumulator tile. -/
  | mzero (f : MSForm)
  /-- MLOAD (R242): Fill an accumulator tile from scratchpad. -/
  | mload (f : MSForm)
  /-- MDRAIN (R243): Drain a tile to scratchpad, optionally also transposed. -/
  | mdrain (f : MSForm)
  /-- MBARW (R245): Hold the stream until a barrier phase completes. -/
  | mbarw (f : MSForm)
  /-- MBARA (R245): Stream arrives on a barrier after earlier words complete. -/
  | mbara (f : MSForm)
  /-- MLOOP (R244): Decrement a stream counter and branch while nonzero. -/
  | mloop (f : MSForm)
  /-- MJMP (R244): Stream jump. -/
  | mjmp (f : MSForm)
  /-- MADDI (R244): Add an immediate to a stream register. -/
  | maddi (f : MSForm)
  /-- MEND (R244): End the stream and free the sequencer. -/
  | mend (f : MSForm)
  /-- MNOP (R244): Stream no-op. -/
  | mnop (f : MSForm)
  /-- NOP (R127): No operation. -/
  | nop (f : RForm)
  /-- BRA (R122): Relative branch. -/
  | bra (f : BForm)
  /-- BRX (R122): Indirect branch through a pair, optionally indexed. -/
  | brx (f : RForm)
  /-- CALL (R122): Relative call writing a link pair. -/
  | call (f : BForm)
  /-- RET (R122): Return through a link pair. -/
  | ret (f : RForm)
  /-- RCV (R125): Reconverge threads at one word. -/
  | rcv (f : RForm)
  /-- EXIT (R126): Thread exit; the wave ends with its last thread. -/
  | exit (f : RForm)
  /-- YIELD (R127): Mark the run for rotation at its next clause boundary. -/
  | yield (f : RForm)
  /-- TRAP (R128): Raise the SOFT trap. -/
  | trap (f : IForm)
  /-- BKPT (R128): Raise the BKPT trap. -/
  | bkpt (f : IForm)
  /-- MSTART (R130): Start the team's matrix sequencer. -/
  | mstart (f : BForm)
  /-- MIGR (R265): Move a one-wave team to the die that homes an address. -/
  | migr (f : RForm)
  /-- TRET (R129): Resume from the trap record. -/
  | tret (f : RForm)
  /-- HEATC (R287): Close the core's heat, optionally waiting for it to be set. -/
  | heatc (f : RForm)
  /-- PERFR (R288): Read a core performance counter. -/
  | perfr (f : RForm)
  /-- KWAVE (R310): Request creation of a one-team launch. -/
  | kwave (f : KForm)
  /-- KSEND (R308): Send a message, optionally with a page grant, to a port. -/
  | ksend (f : KForm)
  /-- KRECV (R309): Receive the head message of a port. -/
  | krecv (f : KForm)
  /-- KWAIT (R311): Wait for a member of a wait set to become ready. -/
  | kwait (f : KForm)
  /-- KARM (R312): Arm a timer. -/
  | karm (f : KForm)
  /-- KCANCEL (R307): Cancel a timer. -/
  | kcancel (f : KForm)
  /-- KBIND (R307): Bind an object into a wait set. -/
  | kbind (f : KForm)
  /-- KUNBIND (R307): Unbind an index of a wait set. -/
  | kunbind (f : KForm)
  /-- KLOOK (R324): Resolve a published name to a send handle. -/
  | klook (f : KForm)
  /-- KNAME (R322): Publish a port under a name. -/
  | kname (f : KForm)
  /-- KDUP (R307): Duplicate a handle with reduced rights. -/
  | kdup (f : KForm)
  /-- KDROP (R307): Drop a handle. -/
  | kdrop (f : KForm)
  /-- KINFO (R313): Read a field of an object. -/
  | kinfo (f : KForm)
  /-- KNEXT (R253): Claim the next chunk of a WORK object. -/
  | knext (f : KForm)
  /-- BOARD (R389): Board a tile onto the carousel. -/
  | board (f : KForm)
  /-- ALIGHT (R389): Remove a tile from the carousel. -/
  | alight (f : KForm)
  /-- CATCH (R391): Register a catch of a named tile into scratchpad. -/
  | catchTile (f : KForm)
  /-- CWRITE (R389): Replace a tile in passage. -/
  | cwrite (f : KForm)
  /-- CLAUSE_ENTRY (R37): A run enters a clause at its header, checked and passed once counters meet thresholds. -/
  | clauseEntry (w : WaveId)
  /-- SPIN_DEMOTION_EXPIRY (R201): A spin demotion ends 256 cycles after it began. -/
  | spinDemotionExpiry (w : WaveId) (tid : Nat)
  /-- FAIRNESS_TIMEOUT (R202): The fairness timer reaches F and the selected run is rotated. -/
  | fairnessTimeout (w : WaveId)
  /-- SCRATCHPAD_BANK_SERVE (R170): A bank serves one queued word request per cycle. -/
  | scratchpadBankServe (c : CoreId) (bank : Nat)
  /-- LOAD_RESULT (R162): A load or atomic result is written to its destination and the counter may retire. -/
  | loadResult (w : WaveId) (op : Nat)
  /-- TRANSLATION_WALK_DONE (R345): A page walk finishes for a coalesced line. -/
  | translationWalkDone (c : CoreId) (proc : Nat) (va : BitVec 57)
  /-- FAULT_REPLY (R350): A RETRY or DENY reply unparks threads on its key. -/
  | faultReply (team : Nat) (key : FaultKey) (deny : Bool) (mask : BitVec 3)
  /-- COPY_LAND (R225): A copy's last byte lands: barrier, tag, then completion. -/
  | copyLand (c : CoreId) (team copy : Nat)
  /-- DCOPY_FLAG_ADD (R271): After all pieces are performed, the flag word is incremented as a package release. -/
  | dcopyFlagAdd (c : CoreId) (team copy : Nat)
  /-- ENGINE_WORD_COMPLETE (R236): An engine word finishes in the matrix engine. -/
  | engineWordComplete (c : CoreId) (team : Nat)
  /-- STREAM_FETCH (R235): The sequencer fetches its next stream word through translation. -/
  | streamFetch (c : CoreId) (team : Nat)
  /-- MSTREAM_TRAP_TAKE (R246): The recorder thread takes the MSTREAM trap at its next boundary. -/
  | mstreamTrapTake (c : CoreId) (team : Nat)
  /-- HEAT_CLOSE_TIMEOUT (R276): The open heat closes after K cycles and the next opens. -/
  | heatCloseTimeout (c : CoreId)
  /-- HEAT_CLOSE_LOG (R282): The undo log reaches 2,304 entries and a close is requested. -/
  | heatCloseLog (c : CoreId)
  /-- HEAT_SET (R278): A closed heat with no report by c+D is set: effects released, log freed. -/
  | heatSet (c : CoreId)
  /-- HOLDBACK_DEPART (R283): Released hold-back entries leave the core, two per cycle. -/
  | holdbackDepart (c : CoreId)
  /-- STRIKE_REPORT (R290): A strike report naming cores makes each roll back or restart its rollback. -/
  | strikeReport (cores : List CoreId)
  /-- ROLLBACK_COMPLETE (R291): A rollback finishes restoring the oldest unset heat and issue resumes. -/
  | rollbackComplete (c : CoreId)
  /-- STRIKE_REPORT_UNIT (R294): A strike report naming a unit outside the cores makes it retry in-flight work. -/
  | strikeReportUnit (die : Nat) (u : DieUnit) (retries : Nat) (beyond : Bool)
  /-- TEAM_ADMIT (R144): A core admits a queued team when all its resources are free. -/
  | teamAdmit (c : CoreId) (team : Nat)
  /-- TEAM_RETIRE (R152): A team whose last wave ended completes its work and releases its resources. -/
  | teamRetire (c : CoreId) (team : Nat)
  /-- SWAP_OUT (R153): A team's state is saved into its TEAM image and leaves the core. -/
  | swapOut (c : CoreId) (team : Nat)
  /-- BLOCKED_SWAP (R374): A team blocked in KWAIT for SWT µs is swapped out. -/
  | blockedSwap (c : CoreId) (team : Nat)
  /-- MIGR_SHIP (R265): After LD, ST and CP drain, the wave's state is shipped as a held effect. -/
  | migrShip (c : CoreId) (team : Nat)
  /-- MIGR_ARRIVAL (R265): A shipped wave resumes in its landing slot. -/
  | migrArrival (team : Nat)
  /-- CRUCIBLE_SERVE (R314): The home Crucible serves one object request in one step. -/
  | crucibleServe (die : Nat)
  /-- REQUEST_RESEND (R317): A refused request is resent after its back-off. -/
  | requestResend (c : CoreId)
  /-- CRUCIBLE_FRAME (R319): A 512-cycle serving frame starts and share settings take effect. -/
  | crucibleFrame (die : Nat)
  /-- KERNEL_RESULT_DELIVERY (R315): A request's status and results reach the core or the saved image. -/
  | kernelResultDelivery (id : Nat)
  /-- KNEXT_SERVE (R251): The Runner hands out the next chunk or the end token. -/
  | knextServe (id : Nat)
  /-- KWAIT_DEADLINE (R311): An outstanding KWAIT reaches its deadline and completes with TIMEOUT. -/
  | kwaitDeadline (wset : Nat)
  /-- TIMER_FIRE (R312): An armed timer's deadline passes and it becomes FIRED. -/
  | timerFire (timer : Nat)
  /-- DIRECTORY_INSERT (R322): The directory node inserts a published name or answers CLASH or FULL. -/
  | directoryInsert (x : DirInput)
  /-- NAME_LOOKUP (R324): The fabric interface resolves a name from cache or directory. -/
  | nameLookup (id : Nat)
  /-- FAR_PORT_SEND (R326): A forwarded send is served at the remote package's Crucible. -/
  | farPortSend (x : FarSend)
  /-- GRANT_PTE_UPDATE (R328): The sender's page-table entry becomes GRANTED atomically. -/
  | grantPteUpdate (id : Nat)
  /-- SHOOTDOWN_ACK (R329): A core acknowledges a shootdown once its accesses to the page are performed. -/
  | shootdownAck (c : CoreId) (id : Nat)
  /-- GRANT_COMMIT (R328): After the shootdown, the message becomes visible and the sender completes OK. -/
  | grantCommit (id : Nat)
  /-- REGION_TRANSFER_DONE (R354): Writebacks or back-invalidates finish and ownership passes. -/
  | regionTransferDone (host : Bool) (region : Nat)
  /-- LAUNCH (R363): Inbox LAUNCH message taken, checked and split across dies. -/
  | launch (part slot : Nat)
  /-- RUNGRAPH (R372): Inbox message starting a run of a task graph. -/
  | rungraph (part slot : Nat)
  /-- FENCE_MESSAGE (R381): Inbox FENCE writes the fence record once earlier messages complete. -/
  | fenceMessage (part slot : Nat)
  /-- ORD_START (R362): An ORD message starts once earlier messages of its port complete. -/
  | ordStart (part slot : Nat)
  /-- RUNNER_RANGE_REPORT (R367): A Runner reports its whole range retired to the Sprue. -/
  | runnerRangeReport (launch die : Nat)
  /-- COMPLETION_POST (R405): A completion record is posted once the ring has room, then POSTED and the interrupt. -/
  | completionPost (ring : RingId)
  /-- GRAPH_TIME_NODE (R373): A TIME node's PTP deadline passes and the run continues. -/
  | graphTimeNode (graph : Nat)
  /-- BUCKET_TICK (R366): Each µs a tenant bucket's level is refilled and drained, setting or clearing DRY. -/
  | bucketTick (part bucket : Nat)
  /-- DOORBELL (R360): A doorbell write tells the Sprue messages up to a SEQ are written. -/
  | doorbell (part slot : Nat) (value : Word)
  /-- PRESET (R382): Management request resetting one partition and replaying from its fences. -/
  | preset (req : MgmtReq)
  /-- DCRESET (R421): Management request putting a die's cores in reset, leaving it memory-only. -/
  | dcreset (req : MgmtReq)
  /-- DRESTART (R422): Management request making a memory-only or down die live. -/
  | drestart (req : MgmtReq)
  /-- DDOWN (R423): Management request taking a memory-only die down. -/
  | ddown (req : MgmtReq)
  /-- DDOWN_PROCEED (R423): Once no copy pin names the die's memory, its home agent and controller stop. -/
  | ddownProceed (die : Nat)
  /-- PKRESET (R419): Management request resetting the whole package. -/
  | pkreset (req : MgmtReq)
  /-- PATCH (R426): Management request verifying and arming a firmware patch set. -/
  | patch (req : MgmtReq)
  /-- PREEMPT (R377): Management request starting the drain of a context. -/
  | preempt (req : MgmtReq)
  /-- PREEMPT_DRAIN_DEADLINE (R377): At t0+DDL every resident team of the context is force-swapped. -/
  | preemptDrainDeadline (part proc : Nat)
  /-- PREEMPT_RESET_DEADLINE (R377): At t0+RDL an unfinished context is reset. -/
  | preemptResetDeadline (part proc : Nat)
  /-- RESUME (R418): Management request re-queueing held or faulted teams. -/
  | resume (req : MgmtReq)
  /-- CREATE (R298): Management request taking a written object record into service or re-arming WORK. -/
  | create (req : MgmtReq)
  /-- PORTMAP (R360): Management request mapping a host port into a slot. -/
  | portmap (req : MgmtReq)
  /-- PORTUNMAP (R360): Management request freeing a port slot. -/
  | portunmap (req : MgmtReq)
  /-- XFERDONE (R407): Management request answering a device transfer request. -/
  | xferdone (req : MgmtReq)
  /-- XFERHOST (R354): Management request transferring a region to the host. -/
  | xferhost (req : MgmtReq)
  /-- CTXRESET (R380): Management request resetting one process's context. -/
  | ctxreset (req : MgmtReq)
  /-- SHOOTDOWN (R347): Management request invalidating translations of a process's pages. -/
  | shootdown (req : MgmtReq)
  /-- OID_RANGE_WRITE (R297): Write of OIDLO or OIDHI, refused if ranges overlap. -/
  | oidRangeWrite (part die : Nat) (hi : Bool) (v : DWord)
  /-- CRSHARE_WRITE (R318): Write of partition Crucible shares, checked against sums. -/
  | crshareWrite (part : Nat) (v : DWord)
  /-- HEATCTL_WRITE (R279): Write of the heat length, effective at each core's next heat open. -/
  | heatctlWrite (part : Nat) (v : DWord)
  /-- TXCTL_WRITE (R338): Write of the translation descriptor base. -/
  | txctlWrite (part : Nat) (v : DWord)
  /-- NSCTL_WRITE (R320): Write of the partition namespace id. -/
  | nsctlWrite (part : Nat) (v : DWord)
  /-- RGNCTL_WRITE (R352): Write of the region ownership control register. -/
  | rgnctlWrite (v : DWord)
  /-- CARCTL_WRITE (R384): Write of the carousel slot count. -/
  | carctlWrite (v : DWord)
  /-- CARSEG_WRITE (R385): Write of a partition's carousel segment, freeing slots and failing pending requests. -/
  | carsegWrite (part : Nat) (v : DWord)
  /-- FLCTL_CARQ (R410): Change of carousel channels commanded through FLCTL. -/
  | flctlCarq (v : DWord)
  /-- FLCTL_DPUP (R410): Command bringing domain ports up or down. -/
  | flctlDpup (v : DWord)
  /-- FLASK_CHANGE_DONE (R410): A connection-table change completes and BUSY clears. -/
  | flaskChangeDone
  /-- PCLU_WRITE (R441): Write of a partition's cluster mask on a die. -/
  | pcluWrite (part die : Nat) (v : DWord)
  /-- PGATE_WRITE (R437): Write of cluster gate bits, swapping and powering down gated clusters. -/
  | pgateWrite (die : Nat) (v : DWord)
  /-- PWRCTL_STEP (R437): Change of the clock step. -/
  | pwrctlStep (v : DWord)
  /-- PWRCTL_CAP (R437): Change of the module power cap. -/
  | pwrctlCap (v : DWord)
  /-- DOMCTL_WRITE (R409): Write of the package id and domain size. -/
  | domctlWrite (v : DWord)
  /-- RING_REGISTER_WRITE (R407): Write of MGRING or PKMRING setting up a management ring. -/
  | ringRegisterWrite (ring : RingId) (v : DWord)
  /-- CONF_RANGE_WRITE (R438): Write of a confidential-range register. -/
  | confRangeWrite (part range : Nat) (v : DWord)
  /-- REGISTER_WRITE (R7): Write of any other management register, refused and logged if it sets a reserved bit. -/
  | registerWrite (off bytes : Nat) (v : DWord)
  /-- CAROUSEL_INDEX_ACCEPT (R386): The segment index accepts a BOARD, CWRITE or ALIGHT and decides its status. -/
  | carouselIndexAccept (id : Nat)
  /-- SLOT_PASSAGE (R387): A slot passes a station: scrub, free, write, serve catches, board. -/
  | slotPassage (slot die : Nat) (strike : Bool)
  /-- CATCH_REGISTER (R391): A catch registration arrives in the die's catch table. -/
  | catchRegister (id : Nat)
  /-- CATCH_LAP_TIMEOUT (R391): A catch not served within one lap completes ABSENT. -/
  | catchLapTimeout (id : Nat)
  /-- BOARD_LAP_TIMEOUT (R390): A BOARD finding no free slot within one lap completes FULL. -/
  | boardLapTimeout (id : Nat)
  /-- PTP_INPUT (R415): The IEEE 1588 input disciplines the counter, slewing or stepping it. -/
  | ptpInput (sec ns : Nat)
  /-- REMOTE_UNREACHABLE (R412): A remote transaction unacknowledged after its retry bound marks the package unreachable. -/
  | remoteUnreachable (pkg : Nat)
  /-- LINK_RETURN (R406): After a link reset, uncounted completion records are rewritten. -/
  | linkReturn
  /-- PATTERN_WATCHDOG (R428): Pattern's 1 ms watchdog expires and Pattern restarts. -/
  | patternWatchdog (die : Nat)
  /-- RESET_RELEASE (R424): The package leaves reset and runs bring-up. -/
  | resetRelease
  /-- SENSOR_SELFTEST (R434): Strike sensors are self-tested each second; uncovered cores are withdrawn. -/
  | sensorSelftest (failed : List CoreId)
  /-- POWER_INPUT_FAULT (R435): Input outside 38-62 V for 2 ms removes power. -/
  | powerInputFault
  /-- FUNCTION_LEVEL_RESET (R419): A PCIe Function Level Reset acts as a package reset. -/
  | functionLevelReset
  /-- KEY_IMPORT (R438): Mailbox command importing an encapsulated key and returning a handle. -/
  | keyImport (part : Nat) (blob : List Byte)
  /-- KEY_DESTROY (R438): Mailbox command destroying a key by MAC. -/
  | keyDestroy (handle : BitVec 16) (mac : List Byte)
  /-- ATTESTATION_REPORT (R440): Mailbox command returning a signed attestation report. -/
  | attestationReport (part : Nat) (nonce : List Byte)
  /-- STORE_PERFORMED (R169): A store, REDB, CINV or CWB is performed at its completion point, so it completes and ST may retire. -/
  | storePerformed (w : WaveId) (op : Nat)
  /-- HOST_MEMORY_ACCESS (R353): A host access to package memory over BAR4 or CXL.mem is checked against region ownership and confidential ranges at the home agent. -/
  | hostMemoryAccess (a : HostAccess)
  /-- PACKAGE_REACHABLE (R412): An unreachable package becomes reachable again and accesses waiting on it proceed. -/
  | packageReachable (pkg : Nat)
  /-- PTP_INPUT_LOSS (R415): The IEEE 1588 input is lost and the counter enters holdover with HOLD set and LOCK cleared. -/
  | ptpInputLoss
  /-- LINK_FAILURE (R406): The host link fails or resets, leaving records written but not yet counted in POSTED. -/
  | linkFailure
  deriving DecidableEq, Repr

end Sys2Proof
end

