-- ==== Sys2Proof/WellFormed.lean ====
section
/-! DEFINITION. Which terms are instructions: R49 for every format, and the tables of R82, R96 to R100, R104, R121,
R132, R160, R179, R216, R217, R223, R237, R252, R264, R269, R286, R288, R304, R323 and R388 for every opcode.  A word
whose fields break these is not an instruction (R53).  The run-time checks (budget, alignment, the team's ACC) stand
with the meanings. -/

namespace Sys2Proof

/-- How wide a register operand is: one register, a pair, a pair exactly when TY is 64-bit, or, for CVT's source,
a pair exactly when the source type in SUB 3:0 is 64-bit. -/
inductive Wd where
  | one | pair | ty | sty
  deriving DecidableEq, Repr

/-- What an operand field holds: nothing (it must be zero), a register of either kind, of one kind only, a
predicate number (R49 item 2), or a selector that the opcode's own rule checks. -/
inductive Slot where
  | zero | reg (w : Wd) | vreg (w : Wd) | sreg (w : Wd) | pred | sel
  deriving DecidableEq, Repr

/-- TY codes 13 and 14 are the 64-bit types (R41). -/
def is64 (ty : BitVec 4) : Bool := ty == 13 || ty == 14

/-- Whether an operand of width `w` is a pair, for TY `ty` and CVT source type `sty`. -/
def Wd.isPair (w : Wd) (ty sty : BitVec 4) : Bool :=
  match w with
  | .one => false
  | .pair => true
  | .ty => is64 ty
  | .sty => is64 sty

def evenReg (n : BitVec 6) : Bool := !n.getLsbD 0
def quadReg (n : BitVec 6) : Bool := !n.getLsbD 0 && !n.getLsbD 1

/-- A field `n` with kind bit `k` fits its slot (R49 items 1, 2 and 5). -/
def Slot.ok (s : Slot) (n : BitVec 6) (k : Bool) (ty sty : BitVec 4) : Bool :=
  match s with
  | .zero => n == 0 && !k
  | .reg w => !w.isPair ty sty || evenReg n
  | .vreg w => !k && (!w.isPair ty sty || evenReg n)
  | .sreg w => k && (!w.isPair ty sty || evenReg n)
  | .pred => !k && !n.getLsbD 5
  | .sel => !k

/-- The slot names a v register when its kind bit is 0. -/
def Slot.isReg : Slot → Bool
  | .reg _ | .vreg _ | .sreg _ => true
  | _ => false

def inCodes (x : BitVec n) (l : List Nat) : Bool := l.contains x.toNat

/-- The integer, 32/64-bit integer, and floating TY sets of the tables. -/
def tyInts : List Nat := [0, 1, 2, 3, 4, 5, 13, 14]
def tyWide : List Nat := [4, 5, 13, 14]
def tyNat : List Nat := [5, 14]
def tyW32 : List Nat := [4, 5]
def tyFl : List Nat := [8, 6, 7]
def tyHalf : List Nat := [6, 7]

/-- How one format-R opcode uses its word: its operand slots, the TY codes it accepts, whether RM, SAT and PS are
assigned, how many CC codes and which SUB values it accepts, whether an s destination may stand with a v source
(R49 item 4), whether it is of class 1, and what else its own rule asks. -/
structure RSpec where
  d : Slot := .zero
  a : Slot := .zero
  b : Slot := .zero
  c : Slot := .zero
  tys : List Nat := [0]
  rm : Bool := false
  sat : Bool := false
  ps : Bool := false
  ccs : Nat := 1
  sub : BitVec 6 → Bool := fun x => x == 0
  mixed : Bool := false
  scalar : Bool := false
  more : RForm → Bool := fun _ => true

/-- CVT's source type (R104). -/
def RForm.sty (f : RForm) : BitVec 4 := f.sub.extractLsb' 0 4

/-- A register source of class 1 must be an s register (R49 item 3); of class 0, an s destination wants no v source
(R49 item 4). -/
def kindsOk (sp : RSpec) (f : RForm) : Bool :=
  let srcS (s : Slot) (k : Bool) : Bool := !s.isReg || k
  let allS := srcS sp.a f.ak && srcS sp.b f.bk && srcS sp.c f.ck
  if sp.scalar then allS else sp.mixed || !(sp.d.isReg && f.dk) || allS

def RForm.ok (sp : RSpec) (f : RForm) : Bool :=
  sp.d.ok f.d f.dk f.ty f.sty && sp.a.ok f.a f.ak f.ty f.sty && sp.b.ok f.b f.bk f.ty f.sty
    && sp.c.ok f.c f.ck f.ty f.sty && inCodes f.ty sp.tys && (sp.rm || f.rm == 0) && (sp.sat || !f.sat)
    && (sp.ps || f.ps == 0) && decide (f.cc.toNat < sp.ccs) && sp.sub f.sub && kindsOk sp f && sp.more f

/-- How one format-I opcode uses its word (R43). -/
structure ISpec where
  d : Slot := .zero
  a : Slot := .zero
  tys : List Nat := [0]
  scalar : Bool := false
  imm : BitVec 4 → Word → Bool

/-- IMM32 agrees with TY (R43): a narrow `.i` immediate is its own sign extension, a narrow `.n` one its own zero
extension. -/
def immByTy (ty : BitVec 4) (x : Word) : Bool :=
  match ty.toNat with
  | 0 => (x.extractLsb' 0 8).signExtend 32 == x
  | 1 => (x.extractLsb' 0 8).setWidth 32 == x
  | 2 => (x.extractLsb' 0 16).signExtend 32 == x
  | 3 => (x.extractLsb' 0 16).setWidth 32 == x
  | _ => true

def IForm.ok (sp : ISpec) (f : IForm) : Bool :=
  sp.d.ok f.d f.dk f.mod4 0 && sp.a.ok f.a f.ak f.mod4 0 && inCodes f.mod4 sp.tys && sp.imm f.mod4 f.imm
    && (if sp.scalar then !sp.a.isReg || f.ak else !(sp.d.isReg && f.dk) || !sp.a.isReg || f.ak)

namespace Spec

def below (n : Nat) (x : BitVec 6) : Bool := decide (x.toNat < n)

/-- R82 and R96: two-source integer operations. -/
def bin (tys : List Nat) (sat : Bool) : RSpec := { d := .reg .ty, a := .reg .ty, b := .reg .ty, tys, sat }
def tri (tys : List Nat) (sat : Bool) : RSpec := { bin tys sat with c := .reg .ty }
def un (tys : List Nat) (sat : Bool) : RSpec := { d := .reg .ty, a := .reg .ty, tys, sat }
def shift : RSpec := { d := .reg .ty, a := .reg .ty, b := .reg .one, tys := tyInts }
def iaddc : RSpec :=
  { d := .reg .one, a := .reg .one, b := .reg .one, c := .pred, tys := [5], ps := true, sub := below 2,
    more := fun f => !f.sub.getLsbD 0 || f.ps == 0 }
def imadw : RSpec := { d := .reg .pair, a := .reg .one, b := .reg .one, c := .reg .pair, tys := tyW32, sat := true }
def icmp : RSpec := { d := .pred, a := .reg .ty, b := .reg .ty, tys := tyInts, ccs := 6 }
def isel : RSpec := { bin tyNat false with ps := true }
def lea : RSpec := { d := .reg .pair, a := .reg .pair, b := .reg .one, tys := tyW32, sub := below 16 }
def fsh : RSpec := { d := .reg .one, a := .reg .one, b := .reg .one, c := .reg .one, tys := [5], sub := below 2 }
def bfx : RSpec := { d := .reg .ty, a := .reg .ty, b := .reg .one, tys := tyWide }
def bfi : RSpec := { d := .reg .ty, a := .reg .ty, b := .reg .ty, c := .reg .one, tys := tyNat }
def count : RSpec := { d := .reg .one, a := .reg .ty, tys := tyNat }
def perm : RSpec := { d := .reg .one, a := .reg .one, b := .reg .one, c := .reg .one }
def pbin : RSpec := { d := .pred, a := .pred, b := .pred, sub := below 4 }
def pnot : RSpec := { d := .pred, a := .pred }
def pset : RSpec := { d := .pred, a := .reg .ty, tys := tyNat }

/-- R104. -/
def fbin (tys : List Nat) (rs : Bool) : RSpec :=
  { d := .reg .one, a := .reg .one, b := .reg .one, tys, rm := rs, sat := rs }
def ftri (tys : List Nat) : RSpec := { fbin tys true with c := .reg .one }
def fun1 (tys : List Nat) (rm sat : Bool) : RSpec := { d := .reg .one, a := .reg .one, tys, rm, sat }
def fcmp : RSpec := { d := .pred, a := .reg .one, b := .reg .one, tys := tyFl, ccs := 14 }
def fdot4 : RSpec := { ftri [9, 10] with sub := below 2 }
def idot4 : RSpec := { tri tyW32 true with sub := below 4 }
/-- The width in bits of a type code, 0 for BX and the illegal code (R41). -/
def tyBits (ty : Nat) : Nat := [8, 8, 16, 16, 32, 32, 16, 16, 32, 8, 8, 0, 0, 64, 64, 0].getD ty 0
def cvt : RSpec :=
  { d := .reg .ty, a := .reg .sty, tys := [0, 1, 2, 3, 4, 5, 6, 7, 8, 9, 10, 13, 14], rm := true, sat := true,
    sub := fun x =>
      let bits := tyBits (x.extractLsb' 0 4).toNat
      let part := (x.extractLsb' 4 2).toNat
      (bits == 8) || (bits == 16 && decide (part < 2)) || (decide (32 ≤ bits) && part == 0) }
def cvtpk : RSpec :=
  { d := .reg .one, a := .reg .one, b := .reg .one, c := .reg .one, tys := [6, 7, 9, 10], rm := true, sat := true,
    sub := fun x => x == 6 || x == 7 || x == 8,
    more := fun f => f.ty == 9 || f.ty == 10 || (f.c == 0 && !f.ck),
    mixed := true }
/-- CVTPK's C is a source only in the 8-bit forms (R116), so its kind rule is stated here (R49 item 4). -/
def cvtpkKinds (f : RForm) : Bool := !f.dk || (f.ak && f.bk && (f.ck || f.ty == 6 || f.ty == 7))
def bxpack : RSpec :=
  { d := .vreg .one, a := .reg .one, tys := [11, 12],
    sub := fun x => !x.getLsbD 5 && inCodes (x.extractLsb' 0 4) tyFl }
def bxunpk : RSpec :=
  { d := .vreg .one, a := .reg .one, b := .sreg .one, tys := tyFl, rm := true, sub := fun x => x == 11 || x == 12 }

/-- R132. -/
def shfl : RSpec := { d := .vreg .ty, a := .reg .ty, b := .reg .one, tys := tyNat, sub := below 4 }
def vote : RSpec :=
  { d := .sel, a := .pred, sub := below 8, mixed := true }
/-- VOTE's D: a predicate but for `.ballot`, whose D is a v or an s register. -/
def voteOk (f : RForm) : Bool :=
  let ballot := f.sub.extractLsb' 0 2 == (3 : BitVec 2)
  RForm.ok { vote with d := if ballot then .reg .one else .pred } f
/-- R135: `.and`, `.or` and `.xor` take the four integer types; `.sat` stands on integer `.add` only, RM on floating
`.add` only. -/
def redTy (f : RForm) : Bool :=
  let op := (f.sub.extractLsb' 0 3).toNat
  let isF := inCodes f.ty tyFl
  decide (op < 6) && (inCodes f.ty tyWide || (isF && decide (op < 3))) && (!f.sat || (op == 0 && !isF))
    && (f.rm == 0 || (op == 0 && isF))
def redw : RSpec :=
  { d := .reg .ty, a := .reg .ty, tys := tyWide ++ tyFl, rm := true, sat := true, sub := below 8, mixed := true,
    more := redTy }
def scanw : RSpec :=
  { d := .vreg .ty, a := .reg .ty, tys := tyWide ++ tyFl, rm := true, sat := true, sub := below 16, more := redTy }
def matchw : RSpec := { d := .vreg .one, a := .reg .ty, tys := tyNat }

/-- R96 to R100. -/
def sc (sp : RSpec) : RSpec := { sp with scalar := true, tys := sp.tys.filter tyWide.contains }
def sfirst : RSpec := { d := .sreg .ty, a := .vreg .ty, tys := tyNat, mixed := true }
def srd : RSpec :=
  { d := .reg .one, a := .sel,
    more := fun f =>
      let wide := inCodes f.a [10, 11, 15, 16, 17]
      decide (f.a.toNat < 18) && (!wide || evenReg f.d) && (!(f.a == 11) || decide (f.d.toNat ≤ 60)) }
def swr : RSpec := { d := .sel, a := .sreg .pair, more := fun f => f.d == 15 || f.d == 16 }

/-- R121, R264, R286, R288. -/
def none : RSpec := {}
def brx : RSpec :=
  { a := .reg .pair, b := .reg .one, sub := below 2, more := fun f => f.sub.getLsbD 0 || (f.b == 0 && !f.bk) }
def ret : RSpec := { a := .reg .pair }
def rcv : RSpec := { more := fun f => f.g == Guard.always }
def migr : RSpec := { a := .sreg .pair }
def heatc : RSpec := { sub := below 2 }
def perfr : RSpec := { d := .sreg .pair, sub := below 12 }

/-- The I forms. -/
def iBin (tys : List Nat) : ISpec := { d := .reg .ty, a := .reg .ty, tys, imm := immByTy }
def iShift : ISpec := { d := .reg .ty, a := .reg .ty, tys := tyInts, imm := fun _ x => decide (x.toNat < 256) }
def iBfx : ISpec := { d := .reg .ty, a := .reg .ty, tys := tyWide, imm := fun _ x => decide (x.toNat < 65536) }
def iLea : ISpec := { d := .reg .pair, a := .reg .pair, tys := tyW32, imm := immByTy }
def iCmp (tys : List Nat) : ISpec := { d := .pred, a := .reg .ty, tys, imm := immByTy }
def iMov : ISpec := { d := .reg .ty, tys := tyWide, imm := immByTy }
def iFl : ISpec := { d := .reg .one, a := .reg .one, tys := [8], imm := fun _ _ => true }
def iTrap : ISpec := { imm := fun _ _ => true }
def iWait : ISpec := { imm := fun _ x => decide (x.toNat < 2 ^ 30) }
def iSc (sp : ISpec) : ISpec := { sp with scalar := true, tys := sp.tys.filter tyWide.contains }

end Spec

/-! Format M (R160, R161, R164). -/

/-- The data register fits the width (R161): a pair at `.64`, a quad at `.128`; a CAS doubles it (R164). -/
def dataShape (width : BitVec 3) (cas : Bool) (d : BitVec 6) : Bool :=
  match width.toNat + cond cas 1 0 with
  | 3 => evenReg d
  | 4 => quadReg d
  | _ => true

def mOrder (f : MForm) (orders : List Nat) (scopeMax : Nat) : Bool :=
  inCodes f.order orders && (if f.order == 0 then f.scope == 0 else decide (f.scope.toNat ≤ scopeMax))

/-- An atomic operation code and its widths (R164). -/
def atomOk (f : MForm) : Bool :=
  (f.width == 2 || (f.width == 3 && !inCodes f.sub [1, 13, 14])) && decide (f.sub.toNat < 15)
    && dataShape f.width (f.sub == 10) f.d

namespace MForm

def ldbOk (f : MForm) : Bool :=
  decide (f.width.toNat ≤ 4) && mOrder f [0, 1] 7 && (!f.sub.getLsbD 2 || decide (f.width.toNat ≤ 1))
    && (!f.sub.getLsbD 3 || (f.order == 1 && decide (3 ≤ f.scope.toNat))) && (f.ak || !f.dk)
    && dataShape f.width false f.d
def stbOk (f : MForm) : Bool :=
  decide (f.width.toNat ≤ 4) && mOrder f [0, 2] 7 && decide (f.sub.toNat ≤ 3) && dataShape f.width false f.d
def atbOk (f : MForm) : Bool := atomOk f && !f.dk
def redbOk (f : MForm) : Bool := atomOk f && inCodes f.order [0, 2] && !inCodes f.sub [9, 10]
def ldsOk (f : MForm) : Bool :=
  decide (f.width.toNat ≤ 4) && mOrder f [0, 1] 1 && (f.sub == 0 || (f.sub == 4 && decide (f.width.toNat ≤ 1)))
    && f.buf == 0 && (f.ak || !f.dk) && dataShape f.width false f.d
def stsOk (f : MForm) : Bool :=
  decide (f.width.toNat ≤ 4) && mOrder f [0, 2] 1 && f.sub == 0 && f.buf == 0 && dataShape f.width false f.d
def atsOk (f : MForm) : Bool := atomOk f && decide (f.scope.toNat ≤ 1) && f.buf == 0 && (f.ak || !f.dk)
def ldcOk (f : MForm) : Bool :=
  f.width == 4 && mOrder f [0, 1] 7 && decide (f.sub.toNat ≤ 3) && decide (f.d.toNat < 16) && !f.dk && f.ak
def prefOk (f : MForm) : Bool :=
  f.width == 0 && f.order == 0 && f.scope == 0 && decide (f.sub.toNat ≤ 3) && f.d == 0 && !f.dk
def maintOk (f : MForm) : Bool :=
  f.width == 0 && f.order == 0 && inCodes f.scope [2, 3, 7] && f.sub == 0 && f.d == 0 && !f.dk

end MForm

/-! Format X (R45, R179, R216, R217, R269). -/

namespace XForm

/-- TAG and BAR are 0 where they are not used (R45). -/
def tagBar (f : XForm) : Bool := (f.tv || f.tag == 0) && (f.bv || f.bar == 0)
def bits (f : XForm) (lo len : Nat) : Nat := (f.mod.toNat >>> lo) % 2 ^ len

def shapeOk (f : XForm) : Bool :=
  f.tagBar && f.d == 0 && evenReg f.a && (f.mod.getLsbD 0 || f.b == 0) && (f.mod.getLsbD 4 || f.c == 0)
    && decide (f.bits 1 3 ≤ 4) && (f.mod.getLsbD 0 || f.bits 1 3 == 0)
def tcopyOk (f : XForm) : Bool := f.shapeOk && decide (f.mod.toNat < 32)
def tredOk (f : XForm) : Bool := f.shapeOk && decide (f.mod.toNat < 96)
def bcopyOk (f : XForm) : Bool := f.tagBar && f.d == 0 && decide (f.mod.toNat < 32)
def gathrOk (f : XForm) : Bool := f.tagBar && f.d == 0 && evenReg f.a && f.mod == 0
def dcopyOk (f : XForm) : Bool :=
  f.tagBar && f.d == 0 && evenReg f.a && decide (f.mod.toNat < 512) && (!f.mod.getLsbD 8 || f.bits 4 4 == 0)
def plain (f : XForm) : Bool := f.tagBar && !f.tv
/-- ACOPY's direction, format, rounding and saturation (R223). -/
def acopyOk (f : XForm) : Bool :=
  f.plain && !f.bv && f.d == 0 && f.b == 0 && f.c == 0 && decide (f.mod.toNat < 2048)
    && (let rs0 := f.bits 8 3 == 0
        if f.mod.getLsbD 3 then (([4, 8].contains (f.bits 4 4)) && rs0) || [6, 7, 9, 10].contains (f.bits 4 4)
        else [4, 6, 7, 8].contains (f.bits 4 4) && rs0)
def noBar (f : XForm) : Bool := f.plain && !f.bv && f.b == 0 && f.c == 0
def rfenceOk (f : XForm) : Bool :=
  f.noBar && f.d == 0 && decide (f.mod.toNat < 2) && (if f.mod == 1 then evenReg f.a else f.a == 0)
def twaitOk (f : XForm) : Bool := f.noBar && f.d == 0 && evenReg f.a && decide (f.mod.toNat < 2)
def tfindOk (f : XForm) : Bool := f.noBar && evenReg f.a && f.mod == 0
def fenceOk (f : XForm) : Bool :=
  f.noBar && f.d == 0 && f.a == 0 && decide (f.mod.toNat < 32) && f.bits 3 2 != 0
def barred (f : XForm) : Bool := f.plain && f.bv && f.b == 0 && f.c == 0
def barinitOk (f : XForm) : Bool :=
  f.barred && f.d == 0 && f.a == 0 && decide (f.mod.toNat < 32) && f.mod != 0
def baraOk (f : XForm) : Bool := f.barred && f.d == 0 && f.a == 0 && f.mod == 0
def barxOk (f : XForm) : Bool := f.barred && f.d == 0 && f.mod == 0
def barwOk (f : XForm) : Bool := f.barred && f.d == 0 && f.a == 0 && decide (f.mod.toNat < 2)
def bartOk (f : XForm) : Bool := f.barred && f.a == 0 && decide (f.mod.toNat < 2)

end XForm

/-! Format B (R46, R121), format K (R47, R252, R304, R323, R388), format MS (R48, R237 to R243). -/

def BForm.ok (f : BForm) (link : Bool) : Bool := f.mod == 0 && (if link then evenReg f.d else f.d == 0)

/-- `de`: D even (it takes a second result); `b`, `c`: the fields are used; `mods`: the MOD values run below it. -/
def KForm.ok (f : KForm) (de b c : Bool) (mods : Nat) : Bool :=
  f.rsv == 0 && (!de || evenReg f.d) && (b || f.b == 0) && (c || f.c == 0) && decide (f.mod.toNat < mods)

def KForm.ksendOk (f : KForm) : Bool := f.ok false true (f.mod == 1) 2 && evenReg f.c
def KForm.karmOk (f : KForm) : Bool := f.ok false true true 2 && evenReg f.b
/-- CATCH (R388): NT leaves C unused; FIRST and LAST stand only with PART, LAST not below FIRST. -/
def KForm.catchOk (f : KForm) : Bool :=
  let first := (f.mod.toNat >>> 1) % 8
  let last := (f.mod.toNat >>> 4) % 8
  f.ok false true (!f.mod.getLsbD 0) 256 && (f.mod.getLsbD 7 || (first == 0 && last == 0)) && decide (first ≤ last)

namespace MSForm

def isBx (c : BitVec 4) : Bool := c == 11 || c == 12
def none123 (f : MSForm) : Bool := f.m2 == 0 && f.m3 == 0 && !f.rsv && f.fmta == 0 && f.fmtb == 0

/-- The accepted operand format pairs of MMA (R239). -/
def pairOk (fa fb : BitVec 4) : Bool :=
  (inCodes fa [6, 7] && inCodes fb [6, 7]) || (inCodes fa [9, 10, 11] && inCodes fb [9, 10, 11])
    || (fa == 12 && fb == 12) || (fa == 8 && fb == 8) || (inCodes fa [0, 1] && inCodes fb [0, 1])

def mmaOk (f : MSForm) : Bool :=
  f.m3 == 0 && !f.rsv && decide (f.imm.toNat < 4096) && !f.imm.getLsbD 3 && pairOk f.fmta f.fmtb
    && (isBx f.fmta || f.imm.extractLsb' 4 4 == 0) && (isBx f.fmtb || f.imm.extractLsb' 8 4 == 0)
    && (!isBx f.fmta || !f.imm.getLsbD 0) && (!isBx f.fmtb || f.imm.getLsbD 1)
def mzeroOk (f : MSForm) : Bool := f.m1 == 0 && f.none123 && f.imm == 0
def mloadOk (f : MSForm) : Bool :=
  f.m2 == 0 && f.m3 == 0 && !f.rsv && f.fmtb == 0 && f.imm == 0 && inCodes f.fmta [4, 6, 7, 8]
def drainFmt (c : BitVec 4) : Bool := inCodes c [4, 6, 7, 8, 9, 10, 11, 12]
def mdrainOk (f : MSForm) : Bool :=
  let xt := f.imm.getLsbD 11
  !f.rsv && decide (f.imm.toNat < 4096) && f.imm.extractLsb' 7 4 == 0 && drainFmt f.fmta
    && (isBx f.fmta || f.imm.extractLsb' 0 4 == 0)
    && (if xt then drainFmt f.fmtb && (isBx f.fmtb || f.m3 == 0) else f.m2 == 0 && f.m3 == 0 && f.fmtb == 0)
/-- MBARW, MBARA: the barrier and phase stand in MOD below `lim`. -/
def barOk (f : MSForm) (lim : Nat) : Bool := f.m1 == 0 && f.none123 && f.acc == 0 && decide (f.imm.toNat < lim)
def mloopOk (f : MSForm) : Bool := f.none123 && f.acc == 0
def mjmpOk (f : MSForm) : Bool := f.m1 == 0 && f.none123 && f.acc == 0
def maddiOk (f : MSForm) : Bool := f.m3 == 0 && !f.rsv && f.fmta == 0 && f.fmtb == 0 && f.acc == 0
def bareOk (f : MSForm) : Bool := f.mjmpOk && f.imm == 0

end MSForm

/-! Events: their unit numbers lie in range (R3, R356, R360), and a management request is of its row's KIND (R418). -/

namespace Event

def kind (req : MgmtReq) : Nat := (req.extractLsb' 0 8).toNat
def isKind (n : Nat) (req : MgmtReq) : Bool := kind req == n
def core (c : CoreId) : Bool := decide (c.die < 8) && decide (c.cluster < 24) && decide (c.core < 16)
def wave (w : WaveId) : Bool := core w.core && decide (w.wid < 16) && decide (w.team < 2 ^ 24)
def slot (p k : Nat) : Bool := decide (p < 16) && decide (k < 128)
def team (c : CoreId) (t : Nat) : Bool := core c && decide (t < 2 ^ 24)
def ring : RingId → Bool
  | .slot p k => slot p k
  | .part p => decide (p < 16)
  | .package => true

end Event

/-- A term that is an instruction or event of this machine: every field of a word within R49 and its opcode's own rule;
every unit an event names within range. -/
def Instr.ok : Instr → Bool
  | .iadd f => f.ok (Spec.bin tyInts true)
  | .iaddImm f => f.ok (Spec.iBin tyInts)
  | .isub f => f.ok (Spec.bin tyInts true)
  | .isubImm f => f.ok (Spec.iBin tyInts)
  | .iadd3 f => f.ok (Spec.tri tyWide true)
  | .iaddc f => f.ok Spec.iaddc
  | .imul f => f.ok (Spec.bin tyInts true)
  | .imulImm f => f.ok (Spec.iBin tyInts)
  | .imulh f => f.ok (Spec.bin tyWide false)
  | .imulhImm f => f.ok (Spec.iBin tyWide)
  | .imad f => f.ok (Spec.tri tyInts true)
  | .imadw f => f.ok Spec.imadw
  | .imin f => f.ok (Spec.bin tyInts false)
  | .iminImm f => f.ok (Spec.iBin tyInts)
  | .imax f => f.ok (Spec.bin tyInts false)
  | .imaxImm f => f.ok (Spec.iBin tyInts)
  | .iabs f => f.ok (Spec.un [0, 2, 4, 13] true)
  | .ineg f => f.ok (Spec.un [0, 2, 4, 13] true)
  | .icmp f => f.ok Spec.icmp
  | .icmpImm _ f => f.ok (Spec.iCmp tyInts)
  | .isel f => f.ok Spec.isel
  | .lea f => f.ok Spec.lea
  | .leaImm f => f.ok Spec.iLea
  | .clamp f => f.ok (Spec.tri tyInts false)
  | .and f => f.ok (Spec.bin tyWide false)
  | .andImm f => f.ok (Spec.iBin tyWide)
  | .or f => f.ok (Spec.bin tyWide false)
  | .orImm f => f.ok (Spec.iBin tyWide)
  | .xor f => f.ok (Spec.bin tyWide false)
  | .xorImm f => f.ok (Spec.iBin tyWide)
  | .andn f => f.ok (Spec.bin tyWide false)
  | .andnImm f => f.ok (Spec.iBin tyWide)
  | .orn f => f.ok (Spec.bin tyWide false)
  | .ornImm f => f.ok (Spec.iBin tyWide)
  | .shl f => f.ok Spec.shift
  | .shlImm f => f.ok Spec.iShift
  | .shr f => f.ok Spec.shift
  | .shrImm f => f.ok Spec.iShift
  | .sar f => f.ok Spec.shift
  | .sarImm f => f.ok Spec.iShift
  | .rol f => f.ok Spec.shift
  | .rolImm f => f.ok Spec.iShift
  | .fsh f => f.ok Spec.fsh
  | .bfx f => f.ok Spec.bfx
  | .bfxImm f => f.ok Spec.iBfx
  | .bfi f => f.ok Spec.bfi
  | .popc f => f.ok Spec.count
  | .clz f => f.ok Spec.count
  | .ctz f => f.ok Spec.count
  | .brev f => f.ok (Spec.un tyNat false)
  | .perm f => f.ok Spec.perm
  | .mov f => f.ok (Spec.un tyWide false)
  | .movi f => f.ok Spec.iMov
  | .pand f => f.ok Spec.pbin
  | .por f => f.ok Spec.pbin
  | .pxor f => f.ok Spec.pbin
  | .pnot f => f.ok Spec.pnot
  | .pset f => f.ok Spec.pset
  | .fadd f => f.ok (Spec.fbin tyFl true)
  | .faddImm f => f.ok Spec.iFl
  | .fsub f => f.ok (Spec.fbin tyFl true)
  | .fsubImm f => f.ok Spec.iFl
  | .fmul f => f.ok (Spec.fbin tyFl true)
  | .fmulImm f => f.ok Spec.iFl
  | .ffma f => f.ok (Spec.ftri tyFl)
  | .fmin f => f.ok (Spec.fbin tyFl false)
  | .fminImm f => f.ok Spec.iFl
  | .fmax f => f.ok (Spec.fbin tyFl false)
  | .fmaxImm f => f.ok Spec.iFl
  | .fminn f => f.ok (Spec.fbin tyFl false)
  | .fminnImm f => f.ok Spec.iFl
  | .fmaxn f => f.ok (Spec.fbin tyFl false)
  | .fmaxnImm f => f.ok Spec.iFl
  | .fcmp f => f.ok Spec.fcmp
  | .fcmpImm _ f => f.ok (Spec.iCmp [8])
  | .fclass f => f.ok (Spec.fun1 tyFl false false)
  | .frcp f => f.ok (Spec.fun1 [8, 6] true true)
  | .frsq f => f.ok (Spec.fun1 [8, 6] false false)
  | .fsqrt f => f.ok (Spec.fun1 [8, 6] true false)
  | .fexp2 f => f.ok (Spec.fun1 [8, 6] false false)
  | .flog2 f => f.ok (Spec.fun1 [8, 6] false false)
  | .fsin f => f.ok (Spec.fun1 [8, 6] false false)
  | .fcos f => f.ok (Spec.fun1 [8, 6] false false)
  | .ftanh f => f.ok (Spec.fun1 [8, 6] false false)
  | .frnd f => f.ok (Spec.fun1 tyFl true false)
  | .ffrc f => f.ok (Spec.fun1 tyFl false false)
  | .fldexp f => f.ok (Spec.fbin tyFl true)
  | .fldexpImm f => f.ok Spec.iFl
  | .fgetexp f => f.ok (Spec.fun1 tyFl false false)
  | .hadd2 f => f.ok (Spec.fbin tyHalf true)
  | .hmul2 f => f.ok (Spec.fbin tyHalf true)
  | .hfma2 f => f.ok (Spec.ftri tyHalf)
  | .hmin2 f => f.ok (Spec.fbin tyHalf false)
  | .hmax2 f => f.ok (Spec.fbin tyHalf false)
  | .fdot2 f => f.ok (Spec.ftri tyHalf)
  | .fdot4 f => f.ok Spec.fdot4
  | .idot4 f => f.ok Spec.idot4
  | .cvt f => f.ok Spec.cvt
  | .cvtpk f => f.ok Spec.cvtpk && Spec.cvtpkKinds f
  | .bxpack f => f.ok Spec.bxpack
  | .bxunpk f => f.ok Spec.bxunpk
  | .shfl f => f.ok Spec.shfl
  | .vote f => Spec.voteOk f
  | .redw f => f.ok Spec.redw
  | .scanw f => f.ok Spec.scanw
  | .matchw f => f.ok Spec.matchw
  | .sadd f => f.ok (Spec.sc (Spec.bin tyWide true))
  | .saddImm f => f.ok (Spec.iSc (Spec.iBin tyWide))
  | .ssub f => f.ok (Spec.sc (Spec.bin tyWide true))
  | .ssubImm f => f.ok (Spec.iSc (Spec.iBin tyWide))
  | .smul f => f.ok (Spec.sc (Spec.bin tyWide true))
  | .smulImm f => f.ok (Spec.iSc (Spec.iBin tyWide))
  | .smad f => f.ok (Spec.sc (Spec.tri tyWide true))
  | .sand f => f.ok (Spec.sc (Spec.bin tyWide false))
  | .sandImm f => f.ok (Spec.iSc (Spec.iBin tyWide))
  | .sor f => f.ok (Spec.sc (Spec.bin tyWide false))
  | .sorImm f => f.ok (Spec.iSc (Spec.iBin tyWide))
  | .sxor f => f.ok (Spec.sc (Spec.bin tyWide false))
  | .sxorImm f => f.ok (Spec.iSc (Spec.iBin tyWide))
  | .sshl f => f.ok (Spec.sc Spec.shift)
  | .sshlImm f => f.ok (Spec.iSc Spec.iShift)
  | .sshr f => f.ok (Spec.sc Spec.shift)
  | .sshrImm f => f.ok (Spec.iSc Spec.iShift)
  | .ssar f => f.ok (Spec.sc Spec.shift)
  | .ssarImm f => f.ok (Spec.iSc Spec.iShift)
  | .smin f => f.ok (Spec.sc (Spec.bin tyWide false))
  | .sminImm f => f.ok (Spec.iSc (Spec.iBin tyWide))
  | .smax f => f.ok (Spec.sc (Spec.bin tyWide false))
  | .smaxImm f => f.ok (Spec.iSc (Spec.iBin tyWide))
  | .scmp f => f.ok (Spec.sc Spec.icmp)
  | .scmpImm _ f => f.ok (Spec.iSc (Spec.iCmp tyInts))
  | .ssel f => f.ok (Spec.sc Spec.isel)
  | .smov f => f.ok (Spec.sc (Spec.un tyWide false))
  | .smovi f => f.ok (Spec.iSc Spec.iMov)
  | .sbfx f => f.ok (Spec.sc Spec.bfx)
  | .sbfxImm f => f.ok (Spec.iSc Spec.iBfx)
  | .spopc f => f.ok (Spec.sc Spec.count)
  | .sfirst f => f.ok Spec.sfirst
  | .srd f => f.ok Spec.srd
  | .swr f => f.ok Spec.swr
  | .ldb f => f.ldbOk
  | .stb f => f.stbOk
  | .atb f => f.atbOk
  | .redb f => f.redbOk
  | .lds f => f.ldsOk
  | .sts f => f.stsOk
  | .ats f => f.atsOk
  | .ldc f => f.ldcOk
  | .pref f => f.prefOk
  | .cinv f => f.maintOk
  | .cwb f => f.maintOk
  | .tcopy f => f.tcopyOk
  | .tstore f => f.tcopyOk
  | .tred f => f.tredOk
  | .bcopy f => f.bcopyOk
  | .gathr f => f.gathrOk
  | .dcopy f => f.dcopyOk
  | .acopy f => f.acopyOk
  | .rfence f => f.rfenceOk
  | .wait f => f.ok Spec.iWait
  | .twait f => f.twaitOk
  | .tfind f => f.tfindOk
  | .fence f => f.fenceOk
  | .barinit f => f.barinitOk
  | .bara f => f.baraOk
  | .barx f => f.barxOk
  | .barw f => f.barwOk
  | .bart f => f.bartOk
  | .mma f => f.mmaOk
  | .mzero f => f.mzeroOk
  | .mload f => f.mloadOk
  | .mdrain f => f.mdrainOk
  | .mbarw f => f.barOk 32
  | .mbara f => f.barOk 16
  | .mloop f => f.mloopOk
  | .mjmp f => f.mjmpOk
  | .maddi f => f.maddiOk
  | .mend f => f.bareOk
  | .mnop f => f.bareOk
  | .nop f => f.ok Spec.none
  | .bra f => f.ok false
  | .brx f => f.ok Spec.brx
  | .call f => f.ok true
  | .ret f => f.ok Spec.ret
  | .rcv f => f.ok Spec.rcv
  | .exit f => f.ok Spec.none
  | .yield f => f.ok Spec.none
  | .trap f => f.ok Spec.iTrap
  | .bkpt f => f.ok Spec.iTrap
  | .mstart f => f.ok false
  | .migr f => f.ok Spec.migr
  | .tret f => f.ok Spec.none
  | .heatc f => f.ok Spec.heatc
  | .perfr f => f.ok Spec.perfr
  | .kwave f => f.ok true false false 1
  | .ksend f => f.ksendOk
  | .krecv f => f.ok false true false 1
  | .kwait f => f.ok false true false 1
  | .karm f => f.karmOk
  | .kcancel f => f.ok false false false 1
  | .kbind f => f.ok false true true 1
  | .kunbind f => f.ok false true false 1
  | .klook f => f.ok true false false 2
  | .kname f => f.ok true true false 1
  | .kdup f => f.ok true true false 1
  | .kdrop f => f.ok false false false 1
  | .kinfo f => f.ok true false false 256
  | .knext f => f.ok false true false 1
  | .board f => f.ok false true false 1
  | .alight f => f.ok false false false 1
  | .catchTile f => f.catchOk
  | .cwrite f => f.ok false true false 1
  | .clauseEntry w => Event.wave w
  | .spinDemotionExpiry w tid => Event.wave w && decide (tid < 32)
  | .fairnessTimeout w => Event.wave w
  | .scratchpadBankServe c bank => Event.core c && decide (bank < 64)
  | .loadResult w _ => Event.wave w
  | .translationWalkDone c proc _ => Event.core c && decide (proc < 16777216)
  | .faultReply team _ _ _ => decide (team < 16777216)
  | .copyLand c team _ => Event.core c && decide (team < 16777216)
  | .dcopyFlagAdd c team _ => Event.core c && decide (team < 16777216)
  | .engineWordComplete c team => Event.core c && decide (team < 16777216)
  | .streamFetch c team => Event.core c && decide (team < 16777216)
  | .mstreamTrapTake c team => Event.core c && decide (team < 16777216)
  | .heatCloseTimeout c => Event.core c
  | .heatCloseLog c => Event.core c
  | .heatSet c => Event.core c
  | .holdbackDepart c => Event.core c
  | .strikeReport cores => cores.all Event.core
  | .rollbackComplete c => Event.core c
  | .strikeReportUnit die _ _ _ => decide (die < 8)
  | .teamAdmit c team => Event.core c && decide (team < 16777216)
  | .teamRetire c team => Event.core c && decide (team < 16777216)
  | .swapOut c team => Event.core c && decide (team < 16777216)
  | .blockedSwap c team => Event.core c && decide (team < 16777216)
  | .migrShip c team => Event.core c && decide (team < 16777216)
  | .migrArrival team => decide (team < 16777216)
  | .crucibleServe die => decide (die < 8)
  | .requestResend c => Event.core c
  | .crucibleFrame die => decide (die < 8)
  | .kernelResultDelivery _ => true
  | .knextServe _ => true
  | .kwaitDeadline wset => decide (wset < 16777216)
  | .timerFire timer => decide (timer < 16777216)
  | .directoryInsert _ => true
  | .nameLookup _ => true
  | .farPortSend _ => true
  | .grantPteUpdate _ => true
  | .shootdownAck c _ => Event.core c
  | .grantCommit _ => true
  | .regionTransferDone _ _ => true
  | .launch part slot => decide (part < 16) && decide (slot < 128)
  | .rungraph part slot => decide (part < 16) && decide (slot < 128)
  | .fenceMessage part slot => decide (part < 16) && decide (slot < 128)
  | .ordStart part slot => decide (part < 16) && decide (slot < 128)
  | .runnerRangeReport _ die => decide (die < 8)
  | .completionPost ring => Event.ring ring
  | .graphTimeNode graph => decide (graph < 16777216)
  | .bucketTick part bucket => decide (part < 16) && decide (bucket < 256)
  | .doorbell part slot _ => decide (part < 16) && decide (slot < 128)
  | .preset req => Event.isKind 1 req
  | .dcreset req => Event.isKind 2 req
  | .drestart req => Event.isKind 3 req
  | .ddown req => Event.isKind 4 req
  | .ddownProceed die => decide (die < 8)
  | .pkreset req => Event.isKind 5 req
  | .patch req => Event.isKind 6 req
  | .preempt req => Event.isKind 7 req
  | .preemptDrainDeadline part proc => decide (part < 16) && decide (proc < 16777216)
  | .preemptResetDeadline part proc => decide (part < 16) && decide (proc < 16777216)
  | .resume req => Event.isKind 8 req
  | .create req => Event.isKind 9 req
  | .portmap req => Event.isKind 10 req
  | .portunmap req => Event.isKind 11 req
  | .xferdone req => Event.isKind 12 req
  | .xferhost req => Event.isKind 13 req
  | .ctxreset req => Event.isKind 14 req
  | .shootdown req => Event.isKind 15 req
  | .oidRangeWrite part die _ _ => decide (part < 16) && decide (die < 8)
  | .crshareWrite part _ => decide (part < 16)
  | .heatctlWrite part _ => decide (part < 16)
  | .txctlWrite part _ => decide (part < 16)
  | .nsctlWrite part _ => decide (part < 16)
  | .rgnctlWrite _ => true
  | .carctlWrite _ => true
  | .carsegWrite part _ => decide (part < 16)
  | .flctlCarq _ => true
  | .flctlDpup _ => true
  | .flaskChangeDone => true
  | .pcluWrite part die _ => decide (part < 16) && decide (die < 8)
  | .pgateWrite die _ => decide (die < 8)
  | .pwrctlStep _ => true
  | .pwrctlCap _ => true
  | .domctlWrite _ => true
  | .ringRegisterWrite ring _ => Event.ring ring
  | .confRangeWrite part range _ => decide (part < 16) && decide (range < 16)
  | .registerWrite _ _ _ => true
  | .carouselIndexAccept _ => true
  | .slotPassage _ die _ => decide (die < 8)
  | .catchRegister _ => true
  | .catchLapTimeout _ => true
  | .boardLapTimeout _ => true
  | .ptpInput sec ns => decide (sec < 281474976710656) && decide (ns < 1000000000)
  | .remoteUnreachable pkg => decide (pkg < 4096)
  | .linkReturn => true
  | .patternWatchdog die => decide (die < 8)
  | .resetRelease => true
  | .sensorSelftest failed => failed.all Event.core
  | .powerInputFault => true
  | .functionLevelReset => true
  | .keyImport part _ => decide (part < 16)
  | .keyDestroy _ _ => true
  | .attestationReport part _ => decide (part < 16)
  | .storePerformed w _ => Event.wave w
  | .hostMemoryAccess _ => true
  | .packageReachable pkg => decide (pkg < 4096)
  | .ptpInputLoss => true
  | .linkFailure => true

/-- Well-formed, as a proposition. -/
abbrev Instr.WellFormed (i : Instr) : Prop := i.ok = true


end Sys2Proof
end

