-- ==== Sys2Proof/Decode.lean ====
section
/-! DEFINITION. Words to instructions and back: the clause header (R35, R36), the formats' bit positions (R39 to R48),
the opcode map (R50 to R52), and the decoder, total on any bytes and rejecting by name (R53).  After it the encoder,
written from the same positions and the same map. -/

namespace Sys2Proof

/-- Why bytes are no instruction. -/
inductive Reject where
  /-- Fewer than eight bytes. -/
  | short
  /-- The clause class has no instruction words (R36). -/
  | noClass
  /-- An OP that the class does not assign (R50 to R52). -/
  | hole
  /-- A reserved or unused field that is not zero, or a value or register the instruction does not accept (R53). -/
  | illegalField
  deriving DecidableEq, Repr

/-! Bit positions. -/

/-- Bits `lo + len - 1 : lo` of a word. -/
abbrev bitsAt (w : DWord) (lo len : Nat) : BitVec len := w.extractLsb' lo len

/-- OP, bits 63:56 (R39, R48). -/
def opOf (w : DWord) : BitVec 8 := bitsAt w 56 8

/-- The guard, bits 55:50 (R39). -/
def guardOf (w : DWord) : Guard := ⟨bitsAt w 51 5, w.getLsbD 50⟩

/-- Format R (R40), bits 55:0 of a word. -/
def RForm.ofWord (w : DWord) : RForm :=
  ⟨guardOf w, bitsAt w 44 6, bitsAt w 38 6, bitsAt w 32 6, bitsAt w 26 6, w.getLsbD 25, w.getLsbD 24, w.getLsbD 23,
    w.getLsbD 22, bitsAt w 18 4, bitsAt w 16 2, w.getLsbD 15, bitsAt w 10 5, bitsAt w 6 4, bitsAt w 0 6⟩

/-- Format I (R43), bits 55:0 of a word. -/
def IForm.ofWord (w : DWord) : IForm :=
  ⟨guardOf w, bitsAt w 44 6, bitsAt w 38 6, w.getLsbD 37, w.getLsbD 36, bitsAt w 32 4, bitsAt w 0 32⟩

/-- Format M (R44), bits 55:0 of a word. -/
def MForm.ofWord (w : DWord) : MForm :=
  ⟨guardOf w, bitsAt w 44 6, bitsAt w 38 6, bitsAt w 34 4, w.getLsbD 33, w.getLsbD 32, bitsAt w 12 20, bitsAt w 9 3,
    bitsAt w 7 2, bitsAt w 4 3, bitsAt w 0 4⟩

/-- Format X (R45), bits 55:0 of a word. -/
def XForm.ofWord (w : DWord) : XForm :=
  ⟨guardOf w, bitsAt w 44 6, bitsAt w 38 6, bitsAt w 32 6, bitsAt w 26 6, bitsAt w 20 6, bitsAt w 16 4, w.getLsbD 15,
    w.getLsbD 14, bitsAt w 0 14⟩

/-- Format B (R46), bits 55:0 of a word. -/
def BForm.ofWord (w : DWord) : BForm :=
  ⟨guardOf w, bitsAt w 44 6, bitsAt w 12 32, bitsAt w 0 12⟩

/-- Format K (R47), bits 55:0 of a word. -/
def KForm.ofWord (w : DWord) : KForm :=
  ⟨guardOf w, bitsAt w 44 6, bitsAt w 38 6, bitsAt w 32 6, bitsAt w 26 6, bitsAt w 22 4, bitsAt w 0 22⟩

/-- Format MS (R48), bits 55:0 of a word. -/
def MSForm.ofWord (w : DWord) : MSForm :=
  ⟨bitsAt w 52 4, bitsAt w 48 4, bitsAt w 44 4, w.getLsbD 43, bitsAt w 40 3, bitsAt w 36 4, bitsAt w 32 4, bitsAt w 0 32⟩

/-! The formats written back into a word, from the highest field down. -/

def RForm.toWord (op : BitVec 8) (f : RForm) : DWord :=
  BitVec.setWidth 64 (op ++ f.g.gp ++ BitVec.ofBool f.g.gn ++ f.d ++ f.a ++ f.b ++ f.c ++ BitVec.ofBool f.dk ++ BitVec.ofBool f.ak ++ BitVec.ofBool f.bk ++ BitVec.ofBool f.ck ++ f.ty ++ f.rm ++ BitVec.ofBool f.sat ++ f.ps ++ f.cc ++ f.sub)

def IForm.toWord (op : BitVec 8) (f : IForm) : DWord :=
  BitVec.setWidth 64 (op ++ f.g.gp ++ BitVec.ofBool f.g.gn ++ f.d ++ f.a ++ BitVec.ofBool f.dk ++ BitVec.ofBool f.ak ++ f.mod4 ++ f.imm)

def MForm.toWord (op : BitVec 8) (f : MForm) : DWord :=
  BitVec.setWidth 64 (op ++ f.g.gp ++ BitVec.ofBool f.g.gn ++ f.d ++ f.a ++ f.buf ++ BitVec.ofBool f.ak ++ BitVec.ofBool f.dk ++ f.off ++ f.scope ++ f.order ++ f.width ++ f.sub)

def XForm.toWord (op : BitVec 8) (f : XForm) : DWord :=
  BitVec.setWidth 64 (op ++ f.g.gp ++ BitVec.ofBool f.g.gn ++ f.d ++ f.a ++ f.b ++ f.c ++ f.tag ++ f.bar ++ BitVec.ofBool f.tv ++ BitVec.ofBool f.bv ++ f.mod)

def BForm.toWord (op : BitVec 8) (f : BForm) : DWord :=
  BitVec.setWidth 64 (op ++ f.g.gp ++ BitVec.ofBool f.g.gn ++ f.d ++ f.target ++ f.mod)

def KForm.toWord (op : BitVec 8) (f : KForm) : DWord :=
  BitVec.setWidth 64 (op ++ f.g.gp ++ BitVec.ofBool f.g.gn ++ f.d ++ f.a ++ f.b ++ f.c ++ f.rsv ++ f.mod)

def MSForm.toWord (op : BitVec 8) (f : MSForm) : DWord :=
  BitVec.setWidth 64 (op ++ f.m1 ++ f.m2 ++ f.m3 ++ BitVec.ofBool f.rsv ++ f.acc ++ f.fmta ++ f.fmtb ++ f.imm)

/-! The opcode map. -/

/-- How a word of one opcode is read: its format, and the instruction that the format's fields make. -/
inductive Maker where
  | r (mk : RForm → Instr)
  | i (mk : IForm → Instr)
  | m (mk : MForm → Instr)
  | x (mk : XForm → Instr)
  | b (mk : BForm → Instr)
  | k (mk : KForm → Instr)
  | s (mk : MSForm → Instr)

def Maker.make (m : Maker) (w : DWord) : Instr :=
  match m with
  | .r mk => mk (.ofWord w)
  | .i mk => mk (.ofWord w)
  | .m mk => mk (.ofWord w)
  | .x mk => mk (.ofWord w)
  | .b mk => mk (.ofWord w)
  | .k mk => mk (.ofWord w)
  | .s mk => mk (.ofWord w)

/-- An unassigned cell of the map. -/
def hole : Option Maker := none

def row0_00 : List (Option Maker) :=
  [some (.r .iadd), some (.r .isub), some (.r .iadd3), some (.r .iaddc), some (.r .imul),
    some (.r .imulh), some (.r .imad), some (.r .imadw), some (.r .imin), some (.r .imax),
    some (.r .iabs), some (.r .ineg), some (.r .icmp), some (.r .isel), some (.r .lea), some (.r .clamp)]

def row0_10 : List (Option Maker) :=
  [some (.r .and), some (.r .or), some (.r .xor), some (.r .andn), some (.r .orn), some (.r .shl),
    some (.r .shr), some (.r .sar), some (.r .rol), some (.r .fsh), some (.r .bfx), some (.r .bfi),
    some (.r .popc), some (.r .clz), some (.r .ctz), some (.r .brev)]

def row0_30 : List (Option Maker) :=
  [some (.r .fadd), some (.r .fsub), some (.r .fmul), some (.r .ffma), some (.r .fmin), some (.r .fmax),
    some (.r .fminn), some (.r .fmaxn), some (.r .fcmp), some (.r .fclass), some (.r .frcp),
    some (.r .frsq), some (.r .fsqrt), some (.r .fexp2), some (.r .flog2), some (.r .fsin)]

def row0_40 : List (Option Maker) :=
  [some (.r .fcos), some (.r .ftanh), some (.r .frnd), some (.r .ffrc), some (.r .fldexp),
    some (.r .fgetexp), some (.r .hadd2), some (.r .hmul2), some (.r .hfma2), some (.r .hmin2),
    some (.r .hmax2), some (.r .fdot2), some (.r .fdot4), some (.r .idot4)]

def row0_50 : List (Option Maker) :=
  [some (.r .cvt), some (.r .cvtpk), some (.r .bxpack), some (.r .bxunpk), some (.r .perm),
    some (.r .mov), hole, hole, some (.r .pand), some (.r .por), some (.r .pxor), some (.r .pnot),
    some (.r .pset)]

def row0_60 : List (Option Maker) :=
  [some (.r .shfl), some (.r .vote), some (.r .redw), some (.r .scanw), some (.r .matchw)]

def row0_80 : List (Option Maker) :=
  [some (.i .iaddImm), some (.i .isubImm), hole, hole, some (.i .imulImm), some (.i .imulhImm), hole,
    hole, some (.i .iminImm), some (.i .imaxImm), hole, hole, hole, hole, some (.i .leaImm)]

def row0_90 : List (Option Maker) :=
  [some (.i .andImm), some (.i .orImm), some (.i .xorImm), some (.i .andnImm), some (.i .ornImm),
    some (.i .shlImm), some (.i .shrImm), some (.i .sarImm), some (.i .rolImm), hole, some (.i .bfxImm)]

def row0_B0 : List (Option Maker) :=
  [some (.i .faddImm), some (.i .fsubImm), some (.i .fmulImm), hole, some (.i .fminImm),
    some (.i .fmaxImm), some (.i .fminnImm), some (.i .fmaxnImm)]

def row0_C0 : List (Option Maker) :=
  [hole, hole, hole, hole, some (.i .fldexpImm)]

def row0_D0 : List (Option Maker) :=
  [hole, hole, hole, hole, hole, some (.i .movi)]

def row0_E0 : List (Option Maker) :=
  [some (.i (.icmpImm 0)), some (.i (.icmpImm 1)), some (.i (.icmpImm 2)), some (.i (.icmpImm 3)),
    some (.i (.icmpImm 4)), some (.i (.icmpImm 5)), hole, hole, some (.i (.fcmpImm 0)),
    some (.i (.fcmpImm 1)), some (.i (.fcmpImm 2)), some (.i (.fcmpImm 3)), some (.i (.fcmpImm 4)),
    some (.i (.fcmpImm 5))]

def row1_00 : List (Option Maker) :=
  [some (.r .sadd), some (.r .ssub), some (.r .smul), some (.r .smad), some (.r .sand), some (.r .sor),
    some (.r .sxor), some (.r .sshl), some (.r .sshr), some (.r .ssar), some (.r .smin), some (.r .smax),
    some (.r .scmp), some (.r .ssel), some (.r .smov), some (.r .sbfx)]

def row1_10 : List (Option Maker) :=
  [some (.r .spopc), some (.r .sfirst), some (.r .srd), some (.r .swr)]

def row1_80 : List (Option Maker) :=
  [some (.i .saddImm), some (.i .ssubImm), some (.i .smulImm), hole, some (.i .sandImm),
    some (.i .sorImm), some (.i .sxorImm), some (.i .sshlImm), some (.i .sshrImm), some (.i .ssarImm),
    some (.i .sminImm), some (.i .smaxImm), hole, hole, some (.i .smovi), some (.i .sbfxImm)]

def row1_E0 : List (Option Maker) :=
  [some (.i (.scmpImm 0)), some (.i (.scmpImm 1)), some (.i (.scmpImm 2)), some (.i (.scmpImm 3)),
    some (.i (.scmpImm 4)), some (.i (.scmpImm 5))]

def row2_00 : List (Option Maker) :=
  [some (.m .ldb), some (.m .stb), some (.m .atb), some (.m .redb), some (.m .lds), some (.m .sts),
    some (.m .ats), some (.m .ldc), some (.m .pref), some (.m .cinv), some (.m .cwb)]

def row3_00 : List (Option Maker) :=
  [some (.x .tcopy), some (.x .tstore), some (.x .tred), some (.x .bcopy), some (.x .gathr),
    some (.x .dcopy), some (.x .acopy), some (.x .rfence), some (.i .wait), some (.x .twait),
    some (.x .tfind), some (.x .fence), some (.x .barinit), some (.x .bara), some (.x .barx),
    some (.x .barw)]

def row3_10 : List (Option Maker) :=
  [some (.x .bart)]

def row4_00 : List (Option Maker) :=
  [hole, some (.s .mma), some (.s .mzero), some (.s .mload), some (.s .mdrain), some (.s .mbarw),
    some (.s .mbara), some (.s .mloop), some (.s .mjmp), some (.s .maddi), some (.s .mend),
    some (.s .mnop)]

def row5_00 : List (Option Maker) :=
  [some (.r .nop), some (.b .bra), some (.r .brx), some (.b .call), some (.r .ret), some (.r .rcv),
    some (.r .exit), some (.r .yield), some (.i .trap), some (.i .bkpt), some (.b .mstart),
    some (.r .migr)]

def row6_00 : List (Option Maker) :=
  [some (.k .kwave), some (.k .ksend), some (.k .krecv), some (.k .kwait), some (.k .karm),
    some (.k .kcancel), some (.k .kbind), some (.k .kunbind), some (.k .klook), some (.k .kname),
    some (.k .kdup), some (.k .kdrop), some (.k .kinfo), some (.k .knext), some (.k .board),
    some (.k .alight)]

def row6_10 : List (Option Maker) :=
  [some (.k .catchTile), some (.k .cwrite)]

def row7_00 : List (Option Maker) :=
  [some (.r .tret), some (.r .heatc), some (.r .perfr)]

/-- The rows of a class, each under OP 7:4 (R50, R51, R52). -/
def rowsOf : Nat → List (Nat × List (Option Maker))
  | 0 => [(0, row0_00), (1, row0_10), (3, row0_30), (4, row0_40), (5, row0_50), (6, row0_60), (8, row0_80), (9, row0_90), (11, row0_B0), (12, row0_C0), (13, row0_D0), (14, row0_E0)]
  | 1 => [(0, row1_00), (1, row1_10), (8, row1_80), (14, row1_E0)]
  | 2 => [(0, row2_00)]
  | 3 => [(0, row3_00), (1, row3_10)]
  | 4 => [(0, row4_00)]
  | 5 => [(0, row5_00)]
  | 6 => [(0, row6_00), (1, row6_10)]
  | 7 => [(0, row7_00)]
  | _ => []

/-- The cell of the map for a class and an OP. -/
def maker (cls : Nat) (op : BitVec 8) : Option Maker :=
  (((rowsOf cls).lookup (op.toNat / 16)).getD [])[op.toNat % 16]?.join

/-! The decoder. -/

/-- An instruction word of a clause of class `cls`, or, for class 4, a word of stream text. -/
def decodeWord (cls : Nat) (w : DWord) : Except Reject Instr :=
  if cls < 8 then
    match maker cls (opOf w) with
    | none => .error .hole
    | some mk => if (mk.make w).ok then .ok (mk.make w) else .error .illegalField
  else .error .noClass

/-- Eight bytes as a word, the first the least significant (R6). -/
def wordOfBytes : List Byte → DWord
  | [] => 0
  | b :: bs => b.setWidth 64 ||| (wordOfBytes bs <<< 8)

/-- The first instruction of a list of bytes and the rest of the list. -/
def decodeBytes (cls : Nat) (bs : List Byte) : Except Reject (Instr × List Byte) :=
  if bs.length < 8 then .error .short
  else match decodeWord cls (wordOfBytes (bs.take 8)) with
    | .ok i => .ok (i, bs.drop 8)
    | .error e => .error e

/-- A word as the eight bytes in which memory holds it (R6). -/
def bytesOfWord (w : DWord) : List Byte := (List.range 8).map fun k => w.extractLsb' (8 * k) 8

/-! The clause header (R35). -/

structure Header where
  sig : BitVec 4
  cls : BitVec 4
  n1 : BitVec 4
  wld : BitVec 6
  wst : BitVec 6
  wcp : BitVec 6
  wmx : BitVec 6
  wkc : BitVec 6
  yld : Bool
  rsv : BitVec 21
  deriving DecidableEq, Repr

def Header.ofWord (w : DWord) : Header :=
  ⟨bitsAt w 60 4, bitsAt w 56 4, bitsAt w 52 4, bitsAt w 46 6, bitsAt w 40 6, bitsAt w 34 6, bitsAt w 28 6,
    bitsAt w 22 6, w.getLsbD 21, bitsAt w 0 21⟩

def Header.toWord (h : Header) : DWord :=
  BitVec.setWidth 64 (h.sig ++ h.cls ++ h.n1 ++ h.wld ++ h.wst ++ h.wcp ++ h.wmx ++ h.wkc ++ BitVec.ofBool h.yld ++ h.rsv)

/-- R36: SIG, the class and the reserved bits of a header that wave text may enter. -/
def Header.legal (h : Header) : Bool := h.sig == 0xA && decide (h.cls.toNat < 8) && h.cls != 4 && h.rsv == 0

/-- The number of instruction words of the clause, 1 to 16 (R35). -/
def Header.count (h : Header) : Nat := h.n1.toNat + 1

/-- A header of class `cls` with one instruction word, no waits and no yield (R37: a threshold of 63 never waits). -/
def Header.plain (cls : BitVec 4) : Header := ⟨0xA, cls, 0, 63, 63, 63, 63, 63, false, 0⟩

/-! The host's reading of a table row: a word alone is read in the first class in which it is an instruction (the class
stands in the header, R35); with 64 further bits, the first word is the header and the second the instruction. -/

def firstDecoded (bs : List Byte) : List Nat → Option Instr
  | [] => none
  | c :: cs =>
    match decodeBytes c bs with
    | .ok (i, _) => some i
    | .error _ => firstDecoded bs cs

/-- The class of a header that wave text may enter, or 4 for a word with no header. -/
def headedClass (h : Header) : Option Nat := if h.legal then some h.cls.toNat else none

def decodeTableWord (nbits w : Nat) : Option Instr :=
  let lo := BitVec.ofNat 64 w
  if nbits ≤ 64 then firstDecoded (bytesOfWord lo) [0, 1, 2, 3, 4, 5, 6, 7]
  else
    match headedClass (.ofWord lo) with
    | none => none
    | some c => firstDecoded (bytesOfWord (BitVec.ofNat 64 (w >>> 64))) [c]

/-! The encoder. -/

/-- The clause class an instruction word belongs in and the word itself. -/
structure Enc where
  cls : Nat
  word : DWord
  deriving DecidableEq, Repr

/-- The word of an instruction and its class; an event has none. -/
def encode : Instr → Option Enc
  | .iadd f => some ⟨0, f.toWord 0x00⟩
  | .iaddImm f => some ⟨0, f.toWord 0x80⟩
  | .isub f => some ⟨0, f.toWord 0x01⟩
  | .isubImm f => some ⟨0, f.toWord 0x81⟩
  | .iadd3 f => some ⟨0, f.toWord 0x02⟩
  | .iaddc f => some ⟨0, f.toWord 0x03⟩
  | .imul f => some ⟨0, f.toWord 0x04⟩
  | .imulImm f => some ⟨0, f.toWord 0x84⟩
  | .imulh f => some ⟨0, f.toWord 0x05⟩
  | .imulhImm f => some ⟨0, f.toWord 0x85⟩
  | .imad f => some ⟨0, f.toWord 0x06⟩
  | .imadw f => some ⟨0, f.toWord 0x07⟩
  | .imin f => some ⟨0, f.toWord 0x08⟩
  | .iminImm f => some ⟨0, f.toWord 0x88⟩
  | .imax f => some ⟨0, f.toWord 0x09⟩
  | .imaxImm f => some ⟨0, f.toWord 0x89⟩
  | .iabs f => some ⟨0, f.toWord 0x0A⟩
  | .ineg f => some ⟨0, f.toWord 0x0B⟩
  | .icmp f => some ⟨0, f.toWord 0x0C⟩
  | .icmpImm cc f => some ⟨0, f.toWord (0xE0 + BitVec.ofNat 8 cc)⟩
  | .isel f => some ⟨0, f.toWord 0x0D⟩
  | .lea f => some ⟨0, f.toWord 0x0E⟩
  | .leaImm f => some ⟨0, f.toWord 0x8E⟩
  | .clamp f => some ⟨0, f.toWord 0x0F⟩
  | .and f => some ⟨0, f.toWord 0x10⟩
  | .andImm f => some ⟨0, f.toWord 0x90⟩
  | .or f => some ⟨0, f.toWord 0x11⟩
  | .orImm f => some ⟨0, f.toWord 0x91⟩
  | .xor f => some ⟨0, f.toWord 0x12⟩
  | .xorImm f => some ⟨0, f.toWord 0x92⟩
  | .andn f => some ⟨0, f.toWord 0x13⟩
  | .andnImm f => some ⟨0, f.toWord 0x93⟩
  | .orn f => some ⟨0, f.toWord 0x14⟩
  | .ornImm f => some ⟨0, f.toWord 0x94⟩
  | .shl f => some ⟨0, f.toWord 0x15⟩
  | .shlImm f => some ⟨0, f.toWord 0x95⟩
  | .shr f => some ⟨0, f.toWord 0x16⟩
  | .shrImm f => some ⟨0, f.toWord 0x96⟩
  | .sar f => some ⟨0, f.toWord 0x17⟩
  | .sarImm f => some ⟨0, f.toWord 0x97⟩
  | .rol f => some ⟨0, f.toWord 0x18⟩
  | .rolImm f => some ⟨0, f.toWord 0x98⟩
  | .fsh f => some ⟨0, f.toWord 0x19⟩
  | .bfx f => some ⟨0, f.toWord 0x1A⟩
  | .bfxImm f => some ⟨0, f.toWord 0x9A⟩
  | .bfi f => some ⟨0, f.toWord 0x1B⟩
  | .popc f => some ⟨0, f.toWord 0x1C⟩
  | .clz f => some ⟨0, f.toWord 0x1D⟩
  | .ctz f => some ⟨0, f.toWord 0x1E⟩
  | .brev f => some ⟨0, f.toWord 0x1F⟩
  | .perm f => some ⟨0, f.toWord 0x54⟩
  | .mov f => some ⟨0, f.toWord 0x55⟩
  | .movi f => some ⟨0, f.toWord 0xD5⟩
  | .pand f => some ⟨0, f.toWord 0x58⟩
  | .por f => some ⟨0, f.toWord 0x59⟩
  | .pxor f => some ⟨0, f.toWord 0x5A⟩
  | .pnot f => some ⟨0, f.toWord 0x5B⟩
  | .pset f => some ⟨0, f.toWord 0x5C⟩
  | .fadd f => some ⟨0, f.toWord 0x30⟩
  | .faddImm f => some ⟨0, f.toWord 0xB0⟩
  | .fsub f => some ⟨0, f.toWord 0x31⟩
  | .fsubImm f => some ⟨0, f.toWord 0xB1⟩
  | .fmul f => some ⟨0, f.toWord 0x32⟩
  | .fmulImm f => some ⟨0, f.toWord 0xB2⟩
  | .ffma f => some ⟨0, f.toWord 0x33⟩
  | .fmin f => some ⟨0, f.toWord 0x34⟩
  | .fminImm f => some ⟨0, f.toWord 0xB4⟩
  | .fmax f => some ⟨0, f.toWord 0x35⟩
  | .fmaxImm f => some ⟨0, f.toWord 0xB5⟩
  | .fminn f => some ⟨0, f.toWord 0x36⟩
  | .fminnImm f => some ⟨0, f.toWord 0xB6⟩
  | .fmaxn f => some ⟨0, f.toWord 0x37⟩
  | .fmaxnImm f => some ⟨0, f.toWord 0xB7⟩
  | .fcmp f => some ⟨0, f.toWord 0x38⟩
  | .fcmpImm cc f => some ⟨0, f.toWord (0xE8 + BitVec.ofNat 8 cc)⟩
  | .fclass f => some ⟨0, f.toWord 0x39⟩
  | .frcp f => some ⟨0, f.toWord 0x3A⟩
  | .frsq f => some ⟨0, f.toWord 0x3B⟩
  | .fsqrt f => some ⟨0, f.toWord 0x3C⟩
  | .fexp2 f => some ⟨0, f.toWord 0x3D⟩
  | .flog2 f => some ⟨0, f.toWord 0x3E⟩
  | .fsin f => some ⟨0, f.toWord 0x3F⟩
  | .fcos f => some ⟨0, f.toWord 0x40⟩
  | .ftanh f => some ⟨0, f.toWord 0x41⟩
  | .frnd f => some ⟨0, f.toWord 0x42⟩
  | .ffrc f => some ⟨0, f.toWord 0x43⟩
  | .fldexp f => some ⟨0, f.toWord 0x44⟩
  | .fldexpImm f => some ⟨0, f.toWord 0xC4⟩
  | .fgetexp f => some ⟨0, f.toWord 0x45⟩
  | .hadd2 f => some ⟨0, f.toWord 0x46⟩
  | .hmul2 f => some ⟨0, f.toWord 0x47⟩
  | .hfma2 f => some ⟨0, f.toWord 0x48⟩
  | .hmin2 f => some ⟨0, f.toWord 0x49⟩
  | .hmax2 f => some ⟨0, f.toWord 0x4A⟩
  | .fdot2 f => some ⟨0, f.toWord 0x4B⟩
  | .fdot4 f => some ⟨0, f.toWord 0x4C⟩
  | .idot4 f => some ⟨0, f.toWord 0x4D⟩
  | .cvt f => some ⟨0, f.toWord 0x50⟩
  | .cvtpk f => some ⟨0, f.toWord 0x51⟩
  | .bxpack f => some ⟨0, f.toWord 0x52⟩
  | .bxunpk f => some ⟨0, f.toWord 0x53⟩
  | .shfl f => some ⟨0, f.toWord 0x60⟩
  | .vote f => some ⟨0, f.toWord 0x61⟩
  | .redw f => some ⟨0, f.toWord 0x62⟩
  | .scanw f => some ⟨0, f.toWord 0x63⟩
  | .matchw f => some ⟨0, f.toWord 0x64⟩
  | .sadd f => some ⟨1, f.toWord 0x00⟩
  | .saddImm f => some ⟨1, f.toWord 0x80⟩
  | .ssub f => some ⟨1, f.toWord 0x01⟩
  | .ssubImm f => some ⟨1, f.toWord 0x81⟩
  | .smul f => some ⟨1, f.toWord 0x02⟩
  | .smulImm f => some ⟨1, f.toWord 0x82⟩
  | .smad f => some ⟨1, f.toWord 0x03⟩
  | .sand f => some ⟨1, f.toWord 0x04⟩
  | .sandImm f => some ⟨1, f.toWord 0x84⟩
  | .sor f => some ⟨1, f.toWord 0x05⟩
  | .sorImm f => some ⟨1, f.toWord 0x85⟩
  | .sxor f => some ⟨1, f.toWord 0x06⟩
  | .sxorImm f => some ⟨1, f.toWord 0x86⟩
  | .sshl f => some ⟨1, f.toWord 0x07⟩
  | .sshlImm f => some ⟨1, f.toWord 0x87⟩
  | .sshr f => some ⟨1, f.toWord 0x08⟩
  | .sshrImm f => some ⟨1, f.toWord 0x88⟩
  | .ssar f => some ⟨1, f.toWord 0x09⟩
  | .ssarImm f => some ⟨1, f.toWord 0x89⟩
  | .smin f => some ⟨1, f.toWord 0x0A⟩
  | .sminImm f => some ⟨1, f.toWord 0x8A⟩
  | .smax f => some ⟨1, f.toWord 0x0B⟩
  | .smaxImm f => some ⟨1, f.toWord 0x8B⟩
  | .scmp f => some ⟨1, f.toWord 0x0C⟩
  | .scmpImm cc f => some ⟨1, f.toWord (0xE0 + BitVec.ofNat 8 cc)⟩
  | .ssel f => some ⟨1, f.toWord 0x0D⟩
  | .smov f => some ⟨1, f.toWord 0x0E⟩
  | .smovi f => some ⟨1, f.toWord 0x8E⟩
  | .sbfx f => some ⟨1, f.toWord 0x0F⟩
  | .sbfxImm f => some ⟨1, f.toWord 0x8F⟩
  | .spopc f => some ⟨1, f.toWord 0x10⟩
  | .sfirst f => some ⟨1, f.toWord 0x11⟩
  | .srd f => some ⟨1, f.toWord 0x12⟩
  | .swr f => some ⟨1, f.toWord 0x13⟩
  | .ldb f => some ⟨2, f.toWord 0x00⟩
  | .stb f => some ⟨2, f.toWord 0x01⟩
  | .atb f => some ⟨2, f.toWord 0x02⟩
  | .redb f => some ⟨2, f.toWord 0x03⟩
  | .lds f => some ⟨2, f.toWord 0x04⟩
  | .sts f => some ⟨2, f.toWord 0x05⟩
  | .ats f => some ⟨2, f.toWord 0x06⟩
  | .ldc f => some ⟨2, f.toWord 0x07⟩
  | .pref f => some ⟨2, f.toWord 0x08⟩
  | .cinv f => some ⟨2, f.toWord 0x09⟩
  | .cwb f => some ⟨2, f.toWord 0x0A⟩
  | .tcopy f => some ⟨3, f.toWord 0x00⟩
  | .tstore f => some ⟨3, f.toWord 0x01⟩
  | .tred f => some ⟨3, f.toWord 0x02⟩
  | .bcopy f => some ⟨3, f.toWord 0x03⟩
  | .gathr f => some ⟨3, f.toWord 0x04⟩
  | .dcopy f => some ⟨3, f.toWord 0x05⟩
  | .acopy f => some ⟨3, f.toWord 0x06⟩
  | .rfence f => some ⟨3, f.toWord 0x07⟩
  | .wait f => some ⟨3, f.toWord 0x08⟩
  | .twait f => some ⟨3, f.toWord 0x09⟩
  | .tfind f => some ⟨3, f.toWord 0x0A⟩
  | .fence f => some ⟨3, f.toWord 0x0B⟩
  | .barinit f => some ⟨3, f.toWord 0x0C⟩
  | .bara f => some ⟨3, f.toWord 0x0D⟩
  | .barx f => some ⟨3, f.toWord 0x0E⟩
  | .barw f => some ⟨3, f.toWord 0x0F⟩
  | .bart f => some ⟨3, f.toWord 0x10⟩
  | .mma f => some ⟨4, f.toWord 0x01⟩
  | .mzero f => some ⟨4, f.toWord 0x02⟩
  | .mload f => some ⟨4, f.toWord 0x03⟩
  | .mdrain f => some ⟨4, f.toWord 0x04⟩
  | .mbarw f => some ⟨4, f.toWord 0x05⟩
  | .mbara f => some ⟨4, f.toWord 0x06⟩
  | .mloop f => some ⟨4, f.toWord 0x07⟩
  | .mjmp f => some ⟨4, f.toWord 0x08⟩
  | .maddi f => some ⟨4, f.toWord 0x09⟩
  | .mend f => some ⟨4, f.toWord 0x0A⟩
  | .mnop f => some ⟨4, f.toWord 0x0B⟩
  | .nop f => some ⟨5, f.toWord 0x00⟩
  | .bra f => some ⟨5, f.toWord 0x01⟩
  | .brx f => some ⟨5, f.toWord 0x02⟩
  | .call f => some ⟨5, f.toWord 0x03⟩
  | .ret f => some ⟨5, f.toWord 0x04⟩
  | .rcv f => some ⟨5, f.toWord 0x05⟩
  | .exit f => some ⟨5, f.toWord 0x06⟩
  | .yield f => some ⟨5, f.toWord 0x07⟩
  | .trap f => some ⟨5, f.toWord 0x08⟩
  | .bkpt f => some ⟨5, f.toWord 0x09⟩
  | .mstart f => some ⟨5, f.toWord 0x0A⟩
  | .migr f => some ⟨5, f.toWord 0x0B⟩
  | .tret f => some ⟨7, f.toWord 0x00⟩
  | .heatc f => some ⟨7, f.toWord 0x01⟩
  | .perfr f => some ⟨7, f.toWord 0x02⟩
  | .kwave f => some ⟨6, f.toWord 0x00⟩
  | .ksend f => some ⟨6, f.toWord 0x01⟩
  | .krecv f => some ⟨6, f.toWord 0x02⟩
  | .kwait f => some ⟨6, f.toWord 0x03⟩
  | .karm f => some ⟨6, f.toWord 0x04⟩
  | .kcancel f => some ⟨6, f.toWord 0x05⟩
  | .kbind f => some ⟨6, f.toWord 0x06⟩
  | .kunbind f => some ⟨6, f.toWord 0x07⟩
  | .klook f => some ⟨6, f.toWord 0x08⟩
  | .kname f => some ⟨6, f.toWord 0x09⟩
  | .kdup f => some ⟨6, f.toWord 0x0A⟩
  | .kdrop f => some ⟨6, f.toWord 0x0B⟩
  | .kinfo f => some ⟨6, f.toWord 0x0C⟩
  | .knext f => some ⟨6, f.toWord 0x0D⟩
  | .board f => some ⟨6, f.toWord 0x0E⟩
  | .alight f => some ⟨6, f.toWord 0x0F⟩
  | .catchTile f => some ⟨6, f.toWord 0x10⟩
  | .cwrite f => some ⟨6, f.toWord 0x11⟩
  | .clauseEntry _ => none
  | .spinDemotionExpiry _ _ => none
  | .fairnessTimeout _ => none
  | .scratchpadBankServe _ _ => none
  | .loadResult _ _ => none
  | .translationWalkDone _ _ _ => none
  | .faultReply _ _ _ _ => none
  | .copyLand _ _ _ => none
  | .dcopyFlagAdd _ _ _ => none
  | .engineWordComplete _ _ => none
  | .streamFetch _ _ => none
  | .mstreamTrapTake _ _ => none
  | .heatCloseTimeout _ => none
  | .heatCloseLog _ => none
  | .heatSet _ => none
  | .holdbackDepart _ => none
  | .strikeReport _ => none
  | .rollbackComplete _ => none
  | .strikeReportUnit _ _ _ _ => none
  | .teamAdmit _ _ => none
  | .teamRetire _ _ => none
  | .swapOut _ _ => none
  | .blockedSwap _ _ => none
  | .migrShip _ _ => none
  | .migrArrival _ => none
  | .crucibleServe _ => none
  | .requestResend _ => none
  | .crucibleFrame _ => none
  | .kernelResultDelivery _ => none
  | .knextServe _ => none
  | .kwaitDeadline _ => none
  | .timerFire _ => none
  | .directoryInsert _ => none
  | .nameLookup _ => none
  | .farPortSend _ => none
  | .grantPteUpdate _ => none
  | .shootdownAck _ _ => none
  | .grantCommit _ => none
  | .regionTransferDone _ _ => none
  | .launch _ _ => none
  | .rungraph _ _ => none
  | .fenceMessage _ _ => none
  | .ordStart _ _ => none
  | .runnerRangeReport _ _ => none
  | .completionPost _ => none
  | .graphTimeNode _ => none
  | .bucketTick _ _ => none
  | .doorbell _ _ _ => none
  | .preset _ => none
  | .dcreset _ => none
  | .drestart _ => none
  | .ddown _ => none
  | .ddownProceed _ => none
  | .pkreset _ => none
  | .patch _ => none
  | .preempt _ => none
  | .preemptDrainDeadline _ _ => none
  | .preemptResetDeadline _ _ => none
  | .resume _ => none
  | .create _ => none
  | .portmap _ => none
  | .portunmap _ => none
  | .xferdone _ => none
  | .xferhost _ => none
  | .ctxreset _ => none
  | .shootdown _ => none
  | .oidRangeWrite _ _ _ _ => none
  | .crshareWrite _ _ => none
  | .heatctlWrite _ _ => none
  | .txctlWrite _ _ => none
  | .nsctlWrite _ _ => none
  | .rgnctlWrite _ => none
  | .carctlWrite _ => none
  | .carsegWrite _ _ => none
  | .flctlCarq _ => none
  | .flctlDpup _ => none
  | .flaskChangeDone => none
  | .pcluWrite _ _ _ => none
  | .pgateWrite _ _ => none
  | .pwrctlStep _ => none
  | .pwrctlCap _ => none
  | .domctlWrite _ => none
  | .ringRegisterWrite _ _ => none
  | .confRangeWrite _ _ _ => none
  | .registerWrite _ _ _ => none
  | .carouselIndexAccept _ => none
  | .slotPassage _ _ _ => none
  | .catchRegister _ => none
  | .catchLapTimeout _ => none
  | .boardLapTimeout _ => none
  | .ptpInput _ _ => none
  | .remoteUnreachable _ => none
  | .linkReturn => none
  | .patternWatchdog _ => none
  | .resetRelease => none
  | .sensorSelftest _ => none
  | .powerInputFault => none
  | .functionLevelReset => none
  | .keyImport _ _ => none
  | .keyDestroy _ _ => none
  | .attestationReport _ _ => none
  | .storePerformed _ _ => none
  | .hostMemoryAccess _ => none
  | .packageReachable _ => none
  | .ptpInputLoss => none
  | .linkFailure => none

/-- Whether the term is an instruction word rather than an event. -/
def Instr.isWord (i : Instr) : Bool := (encode i).isSome

end Sys2Proof
end

