-- ==== Sys2Proof/Machine/CoreState.lean ====
section
/-! DEFINITION. What a core holds: threads, waves, teams, the core's heats, hold-back buffer, translation entries and
queues (spec/02, 08 to 12, 14, 17, 20). -/

namespace Sys2Proof.Machine

/-- A register as the scoreboard names it: a v register per wave (R26). -/
inductive Reg where
  | v (n : Nat) | s (n : Nat) | b (n : Nat) | p (n : Nat)
  deriving DecidableEq, Repr

/-- One register write: the register, the thread of a per-thread register, the value (R199). -/
inductive RegWrite where
  | v (tid n : Nat) (x : Word)
  | p (tid n : Nat) (x : Bool)
  | s (n : Nat) (x : Word)
  | b (n : Nat) (x : BufRec)
  deriving DecidableEq, Repr

/-- The classes of the five counters (R17, R173). -/
inductive OpClass where
  | ld | st | cp | mx | kc
  deriving DecidableEq, Repr

/-- An operation a wave has issued (R173).  `pend` are its pending destinations (R26), `result` what it writes when its
result arrives; `due` are values that have come before the rest, each with the cycle from which it is written (R166, R170),
and `left` the bank requests or held parts that have yet to give theirs; `spad` marks a scratchpad access, `acq` an access
that holds back later ones until its value is written (R170, R182), `out` one whose effect waits in the hold-back buffer. -/
structure Op where
  id : Nat
  cls : OpClass
  heat : BitVec 32 := 0
  done : Bool := false
  pend : List Reg := []
  result : List RegWrite := []
  due : List (Nat × List RegWrite) := []
  spad : Bool := false
  acq : Bool := false
  out : Bool := false
  left : Nat := 0
  deriving DecidableEq, Repr

/-- Eligible, parked or exited (R21); the demoted state is TIER 1 or 2 (R196). -/
inductive Life where
  | eligible | parked | exited
  deriving DecidableEq, Repr

/-- What a thread holds (R17, R21, R23, R30, R196).  `hdr` is the header of the clause the thread entered; `keys` are
the faults a parked thread waits for, `landing` that it waits for a landing slot (R265); `deny` is a DENY mark (R350),
`mtraps` each MSTREAM the thread has yet to take, as ADDR and AUX (R246). -/
structure Thread where
  v : List Word := List.replicate 64 0
  p : BitVec 32 := 0x80000000
  pc : WAddr := 0
  cb : WAddr := 0
  hdr : DWord := 0
  life : Life := .eligible
  tier : Nat := 0
  rq : Nat := 0
  demoted : Nat := 0
  mark : Bool := false
  yld : Bool := false
  rcd : Rec256 := 0
  keys : List FaultKey := []
  landing : Bool := false
  deny : Option (FaultKey × BitVec 3) := none
  mtraps : List (BitVec 57 × Word) := []
  deriving DecidableEq, Repr

/-- The spin detector (R199). -/
structure Detector where
  sig : List RegWrite := []
  stored : Bool := false
  ba : Option WAddr := none
  sg : List RegWrite := []
  cnt : Nat := 0
  deriving DecidableEq, Repr

/-- A wave (R17, R20, R22, R202).  `run` is the run selected at the last clause boundary, empty at a boundary; `rel`
are the operations that a `.rel` fence orders before later writes that are not held (R176); `kcWait` is that the wave is
held in a WAIT whose only unmet term is KC (R374), `heatWait` the heat a `heatc.set` waits for (R287); `landed` are the
registers written by results that arrived in cycle `landedAt` (R26). -/
structure Wave where
  wid : Nat
  role : Nat := 0
  budget : Nat := 64
  lane : Nat := 0
  unit : Nat := 0
  threads : List Thread := List.replicate 32 {}
  s : List Word := List.replicate 64 0
  b : List BufRec := List.replicate 16 0
  run : BitVec 32 := 0
  ops : List Op := []
  rel : List Nat := []
  det : Detector := {}
  timer : Nat := 0
  prev : BitVec 32 := 0
  ended : Bool := false
  kcWait : Bool := false
  heatWait : Option (BitVec 32) := none
  landed : List Reg := []
  landedAt : Nat := 0
  deriving DecidableEq, Repr

/-- A numbered barrier (R177). -/
structure Bar where
  e : Nat
  arr : Nat := 0
  p : Bool := false
  pend : BitVec 48 := 0
  deriving DecidableEq, Repr

/-- A matrix sequencer (R235).  `word` is the fetched stream word that has yet to act, `engine` this stream's word in the
engine with the stream registers as it read them (R236), `seen` the scratchpad as it stood when the engine took that word
(R238; log 73), `stall` the fault its fetch waits for (R349). -/
structure Seq where
  m : List Word := List.replicate 16 0
  spc : WAddr := 0
  run : Bool := false
  recorder : Option (Nat × Nat) := none
  word : Option DWord := none
  engine : Option (Instr × List Word) := none
  seen : List Host.Cell := []
  stall : Option FaultKey := none
  deriving DecidableEq, Repr

/-- An engine word of the stream is in the engine (R236). -/
def Seq.busy (q : Seq) : Bool := q.engine.isSome

/-- A page's translation (R341): the entry a TLB or a pin holds. -/
structure Tlb where
  proc : Nat
  vpn : BitVec 45
  sz : Nat
  pfn : BitVec 40
  rd : Bool := true
  wr : Bool := true
  ex : Bool := true
  gr : Bool := false
  tso : Bool := false
  host : Bool := false
  nc : Bool := false
  deriving DecidableEq, Repr

/-- A copy in flight (R218, R270).  `wst`, `spa` and `sps` are the working copy's exact values; `idx` the GATHR
indices; `off`, `foff` the BCOPY and DCOPY offsets; `gate` that its hold-back entry has not yet left; `stage` is
1 when DCOPY's pieces are performed and its flag is due, 2 when the flag is added (R271); bit `i` of `moved` is 1 when the
engine has moved element `i` (R219; log 57), `words` are the words of its tile that an ACOPY keeps meanwhile (R223), `want` are the bytes for which it waits on the core's own atomics (R185). -/
structure Copy where
  id : Nat
  wid : Nat
  op : Nat
  ins : Instr
  rcd : ShapeRec := 0
  wst : List Int := []
  spa : Int := 0
  sps : Int := 0
  idx : List Word := []
  buf : BufRec := 0
  fbuf : BufRec := 0
  off : Word := 0
  foff : Word := 0
  len : Nat := 0
  tag : Option Nat := none
  bar : Option Nat := none
  heat : BitVec 32 := 0
  gate : Bool := false
  stage : Nat := 0
  pins : List Tlb := []
  moved : Nat := 0
  words : List (Option Word) := []
  want : List Nat := []
  deriving DecidableEq, Repr

/-- What a bank request does (R165, R170): read registers, write bytes, or one application of an atomic. -/
inductive BankAct where
  | read (regs : List Reg) (sx : Bool)
  | write (bytes : List Byte)
  | atomic (sub : Nat) (x y : DWord) (regs : List Reg)
  deriving DecidableEq, Repr

/-- One thread's scratchpad access, queued at the banks of its words (R170); `at_` is the cycle in which it reached them,
from lane `lane`. -/
structure BankReq where
  at_ : Nat := 0
  lane : Nat := 0
  wid : Nat
  op : Nat
  tid : Nat
  addr : Nat
  bytes : Nat
  act : BankAct
  deriving DecidableEq, Repr

/-- What becomes of a swapped team: it stays SWAPPED, is re-queued at once, when its KWAIT completes, or when the whole
context is saved (R375, R377, R421, R437). -/
inductive AfterSwap where
  | stay | requeue | wait | preempt
  deriving DecidableEq, Repr

/-- Why a team leaves its core (R150, R152, R153, R265). -/
inductive Leave where
  | swap (after : AfterSwap) | fault (code : Nat) | retire | migrate
  deriving DecidableEq, Repr

/-- A team (R140 to R148, R235).  `tiles` are the accumulator tiles, 4,096 words each; `leave` that it is to stop, and
why; `row` its first scratchpad row; `grid` its launch (0: none); `fresh` that it has yet to start; `inSlot` that it
sits in a landing slot (R266); `blocked` the time, in picoseconds, since which it is blocked (R374). -/
structure Team where
  oid : Nat
  proc : Nat := 0
  part : Nat := 0
  desc : Rec256 := 0
  pbase : WAddr := 0
  x : Word := 0
  y : Word := 0
  z : Word := 0
  waves : List Wave := []
  sz : Nat := 0
  row : Nat := 0
  sp : List Host.Cell := []
  banks : List BankReq := []
  tiles : List (List Word) := []
  seq : Seq := {}
  bars : List Bar := []
  tags : BitVec 64 := 0
  busy : BitVec 64 := 0
  fps : BitVec 5 := 0
  copies : List Copy := []
  leave : Option Leave := none
  grid : Nat := 0
  fresh : Bool := false
  inSlot : Bool := false
  blocked : Option Nat := none
  deriving DecidableEq, Repr

/-- An operation of a wave, named from outside it. -/
structure OpRef where
  team : Nat
  wid : Nat
  op : Nat
  deriving DecidableEq, Repr

/-- A word of the core's state that the undo log keeps by lines (R280). -/
inductive LogKey where
  | vreg (team wid line : Nat) | ureg (team wid line : Nat) | pred (team wid line : Nat) | rcd (team wid line : Nat)
  | spad (team line : Nat) | tile (team line : Nat) | l1 (line : Nat)
  deriving DecidableEq, Repr

/-- A delivery, kept as a return record for an operation issued in a heat already set (R281); `part` that of some threads
of an operation (R166, R170). -/
inductive Return where
  | result (r : OpRef) (ws : List RegWrite) (sp : List Host.Cell) (tag : Option Nat)
  | part (r : OpRef) (ws : List RegWrite)
  | reply (team : Nat) (key : FaultKey) (deny : Bool) (mask : BitVec 3)
  | land (team copy : Nat)
  deriving DecidableEq, Repr

/-- A heat that is not yet set (R275, R280, R281).  `snap` is the snapshot of the resident teams, `admitted` the start
states of teams admitted since (R291). -/
structure Heat where
  num : BitVec 32
  opened : Nat
  k : Nat
  closed : Option Nat := none
  snap : List Team := []
  admitted : List Team := []
  log : List LogKey := []
  rets : List (Nat × Return) := []
  deriving DecidableEq, Repr

/-- One thread's application of an atomic (R165): thread, address, operand, the CAS's new value, and whether the host-link
engine performs it (R403). -/
structure AtomApp where
  tid : Nat
  addr : Nat
  x : DWord
  y : DWord := 0
  nc : Bool := false
  deriving DecidableEq, Repr

/-- A held effect (R283), and the L1 writes of core-scope atomics, which stand in the same order but take no entry (log 31);
`maint` names the lines that a CINV takes out of the caches, `rmw` is the write that the host-link engine still owes to an atomic whose word it has read (R403; log 84). -/
inductive HeldKind where
  | store (cells : List Host.Cell)
  | l1 (cells : List Host.Cell)
  | rmw (cells : List Host.Cell)
  | atomic (sub : Nat) (bytes : Nat) (ret : Option Nat) (apps : List AtomApp)
  | maint (drop : List Nat) (scope : Nat)
  | copy (team copy : Nat)
  | request (id : Nat)
  | ship (team : Nat)
  | image (team : Nat)
  | report (team : Nat)
  | perf (words : List DWord)
  deriving DecidableEq, Repr

structure Held where
  heat : BitVec 32
  ref : OpRef
  kind : HeldKind
  entries : Nat := 1
  released : Bool := false
  deriving DecidableEq, Repr

/-- A fault-table entry, or a key that waits for one, with the address that its request names (R349). -/
structure Fault349 where
  team : Nat
  key : FaultKey
  proc : Nat
  need : BitVec 3
  cause : Nat
  va : BitVec 57
  deriving DecidableEq, Repr

/-- An entry of the record cache (R216): the process and address of the record, its contents, the physical keys of its
three lines and the partition that reads them. -/
structure RecEnt where
  proc : Nat
  ra : BitVec 57
  rcd : ShapeRec
  keys : List Nat := []
  part : Nat := 0
  deriving DecidableEq, Repr

/-- A core (R20, R144, R216, R275, R283, R288, R317, R345, R349, R434).  `rollback` is the cycle in which a rollback in
progress ends; `bankAt` the cycle in which each bank last served; `retest` that a withdrawn core's die has been restarted
since, so that its next self-test decides (R434); `laneLast` the slot that each lane served last (R198); `waitAt` the cycle in which
each counter of waiting cycles last counted (R288); `engineLast` the team whose word the engine took last (R236); `exports`
the counter exports that await an entry of the buffer (R283, R289); `l1` the lines of its 64 KiB data cache, by number, whose
contents are memory's (R2; log 70), `code` the 64-byte lines of instruction memory as it has fetched them (R34; log 20). -/
structure Core where
  id : CoreId
  teams : List Team := []
  cur : Option Heat := none
  old : Option Heat := none
  hmax : Option (BitVec 32) := none
  closeReq : Bool := false
  held : List Held := []
  rcache : List RecEnt := []
  tlb : List Tlb := []
  faults : List Fault349 := []
  faultQ : List Fault349 := []
  replay : List Nat := []
  perf : List DWord := List.replicate 12 0
  bankAt : List (Nat × Nat) := []
  rollback : Option Nat := none
  inReset : Bool := false
  withdrawn : Bool := false
  retest : Bool := false
  laneLast : List (Nat × Nat) := []
  waitAt : List (Nat × Nat) := []
  engineLast : Option Nat := none
  exports : List (BitVec 32 × List DWord) := []
  l1 : List Nat := []
  code : List (Nat × List Byte) := []
  deriving DecidableEq, Repr

end Sys2Proof.Machine
end

