-- ==== Sys2Proof/Machine/State.lean ====
section
/-! DEFINITION. The machine's state: one package, with what the spec gives it (INVENTORY.md, State). -/

namespace Sys2Proof.Machine

/-- Why the machine stops.  No instruction or event of this machine stops it (spec/00: every condition is a trap, a park,
a status or a completion record); the type is kept closed for the interface. -/
inductive Fault where
  /-- A physical access to an address that the spec says is absent (R337); no meaning raises it, since such an access
  misses translation first (R349).  Safe. -/
  | absent (addr : Nat)
  deriving DecidableEq, Repr

/-- Why an instruction has no meaning here. -/
inductive Refusal where
  /-- Dispatch: the instruction has no meaning yet.  Safe. -/
  | notModelled (mnemonic : String)
  deriving DecidableEq, Repr

/-- Which agent acts next. -/
inductive Focus where
  | none | wave (w : WaveId) | seq (c : CoreId) (team : Nat)
  deriving DecidableEq, Repr

/-- A fault request at the service cores (R349). -/
structure CupolaReq where
  core : CoreId
  team : Nat
  proc : Nat
  va : BitVec 57
  fetch : Bool
  need : BitVec 3
  cause : Nat
  deriving DecidableEq, Repr

/-- A slot of the security controller's key table (R438): its generation, and the key it holds with its partition. -/
structure KeySlot where
  slot : Nat
  gen : BitVec 8
  key : Option (BitVec 512 × Nat)
  deriving DecidableEq, Repr

/-- A completion record that waits to be posted in its ring (R405); `written` that it stands in its slot and is not yet
counted in POSTED. -/
structure PendRec where
  ring : RingId
  bits : BitVec 128
  written : Bool := false
  deriving DecidableEq, Repr

/-! Objects (R296 to R333). -/

/-- A page that a message carries: its domain physical address, page-size code and rights (R308, R328). -/
structure Page where
  pa : Nat
  sz : Nat
  rights : BitVec 3
  deriving DecidableEq, Repr

/-- What a class-6 instruction asks for, with what it read at issue (R253, R305, R323, R389): handles and operands as
the registers held them, the scratchpad bytes of blocks, messages and names, the address of a scratchpad result; or `far`,
another package's send to a port here (R326). -/
inductive Ask where
  | kwave (block : BitVec 768) (bufs : List BufRec)
  | ksend (h : Word) (msg : BitVec 512) (grant : Option DWord)
  | krecv (h : Word) (addr : Nat)
  | kwait (h timeout : Word)
  | karm (h : Word) (dl : DWord) (abs : Bool) (per : Word)
  | kcancel (h : Word)
  | kbind (h m idx : Word)
  | kunbind (h idx : Word)
  | klook (dir : Bool) (name : BitVec 256)
  | kname (h : Word) (name : BitVec 256)
  | kdup (h mask : Word)
  | kdrop (h : Word)
  | kinfo (h : Word) (n : Nat)
  | knext (h : Word) (addr : Nat)
  | board (name : Word) (addr : Nat)
  | alight (name : Word)
  | catchTile (name : Word) (addr : Nat) (tag : Option Nat) (first bytes : Nat)
  | cwrite (name : Word) (addr : Nat)
  | far (pkg ref sender nameId : Nat) (name : BitVec 256) (port : Nat) (msg : BitVec 512) (grant : Option Page)
  deriving DecidableEq, Repr

/-- Where a request is: in the hold-back buffer; in its core's replay window after so many refusals (R317); in the input
queue of a die's Crucible, with the object once its handle is resolved (R314); served in part, at an object; or answered, with its
status, the value of s(D+1) and its scratchpad bytes. -/
inductive Stage where
  | held
  | sent (refusals : Nat)
  | queued (die : Nat) (obj : Option Nat)
  | pending (obj : Nat)
  | answered (status value : Word) (cells : List Host.Cell)
  deriving DecidableEq, Repr

/-- A class-6 request (R305, R314).  `d` is its D register, `pair` whether s(D+1) is written too; `keep` the handle index
and object id a KNAME holds (R322); `src` the bytes a BOARD or CWRITE keeps in its station (R396); `ns` the namespace of a
KNAME or KLOOK as it was served (R320); `far` the package and name of the far port that a send was forwarded on (R326); `wdl` the deadline of a
KWAIT whose wait set has been freed (R311). -/
structure Req where
  id : Nat
  core : CoreId
  team : Nat
  wid : Nat
  heat : BitVec 32
  part : Nat
  proc : Nat
  ask : Ask
  d : Nat
  pair : Bool
  stage : Stage := .held
  keep : Option (Nat × Nat) := none
  src : List Byte := []
  ns : Nat := 0
  far : Option (Nat × BitVec 256) := none
  wdl : Option Nat := none
  deriving DecidableEq, Repr

/-- A send whose slot in a ring is only reserved: a request of this package, or one of another package (R326, R328). -/
inductive SendId where
  | here (req : Nat) | far (pkg ref : Nat)
  deriving DecidableEq, Repr

/-- A message of a port's ring (R308, R309, R328); `req` names the send while its slot is only reserved. -/
structure PortMsg where
  bits : BitVec 512
  sender : Nat
  pkg : Nat
  page : Option Page := none
  req : Option SendId := none
  deriving DecidableEq, Repr

/-- The messages of a port, oldest first, and the ring slot of the head (R308; log 11). -/
structure PortQ where
  port : Nat
  msgs : List PortMsg := []
  head : Nat := 0
  deriving DecidableEq, Repr

/-- An occupied grant slot (R309, R333), with the process whose tables map it at `va`; its port is 0 once that has been freed
while the page is being granted onward. -/
structure GSlot where
  port : Nat
  slot : Nat
  part : Nat
  proc : Nat
  va : BitVec 57
  page : Page
  deriving DecidableEq, Repr

/-- A grant in progress (R328): the send, the port or none for a far port, the sender's page. -/
structure Grant where
  req : Nat
  port : Option Nat
  part : Nat
  proc : Nat
  va : BitVec 57
  page : Page
  marked : Bool := false
  deriving DecidableEq, Repr

/-- What a shootdown completes when every core has acknowledged it (R328, R333, R347): a management request, a grant, the
freeing of a grant slot, or the return to Cupola of a page, where one is due. -/
inductive ShootFor where
  | request (req : MgmtReq) | grant (id : Nat) | slot (port slot : Nat) | page (p : Option Page)
  deriving DecidableEq, Repr

/-- A shootdown in progress (R347): what it covers, and the cores that have yet to acknowledge with the operations each
waits for (R329). -/
structure Shoot where
  id : Nat
  proc : Nat
  all : Bool
  sz : Nat
  np : Nat
  va : BitVec 57
  acks : List (CoreId × List OpRef) := []
  for_ : ShootFor
  deriving DecidableEq, Repr

/-- A directory entry, in the directory or in the package's name cache (R321; log 38); `pkg` is 0 for a name of this package, whatever
its id in the domain. -/
structure DirEnt where
  nsid : Nat
  name : BitVec 256
  pkg : Nat
  nameId : Nat
  port : Nat
  deriving DecidableEq, Repr

/-! Teams that are not on a core, and where they wait (R153, R303, R367, R377). -/

/-- A team's saved image, or its start state: the team, the die where it last ran or is placed, whether it is on its way
to a landing slot, whether it is re-queued when its KWAIT completes (R375; log 11), whether it waits for room in a run
queue of a live die (R303, R421), and whether a HOLD = 1 pre-emption left it SWAPPED (R377, R418). -/
structure Image where
  team : Team
  die : Nat
  moving : Bool := false
  auto : Bool := false
  due : Bool := false
  held : Bool := false
  deriving DecidableEq, Repr

/-- An entry of a cluster's run queue (R303). -/
structure QEnt where
  die : Nat
  cluster : Nat
  oid : Nat
  pri : Nat
  skips : Nat := 0
  deriving DecidableEq, Repr

/-- A range of a launch on one die (R367): the next team to create and the end, and how many have yet to retire. -/
structure Range367 where
  die : Nat
  next : Nat
  hi : Nat
  left : Nat
  deriving DecidableEq, Repr

/-- A launch (R361, R365, R367).  `slot` is its message's slot and SEQ, `run` the graph whose run it belongs to, `started`
that its teams may be created. -/
structure Grid where
  id : Nat
  part : Nat
  proc : Nat
  slot : Option (Nat × Word) := none
  run : Option Nat := none
  started : Bool := false
  pers : Bool := false
  x : Nat
  y : Nat
  total : Nat
  ranges : List Range367 := []
  desc : Rec256
  descVa : BitVec 57
  pbase : WAddr
  args : List Word := []
  bufs : List BufRec := []
  pri : Nat := 0
  aff : Nat := 0
  deriving DecidableEq, Repr

/-- A task-graph run (R372); `waits` that it waits for a launch, and `next` the node after that. -/
structure GraphRun where
  graph : Nat
  part : Nat
  slot : Nat
  seq : Word
  proc : Nat
  node : Nat
  counts : List (Nat × Nat) := []
  waits : Bool := false
  next : Nat := 0
  deriving DecidableEq, Repr

/-- A mapped host-port slot (R359, R360).  `bell` is the last SEQ the doorbell named, `stuck` that nothing is taken until
the next doorbell (R363), `ord` an accepted message that waits to start (R362), `taken` the accepted messages that have
not completed, `recorded` those within a window's reach that have had their record (R406); `journal` is the PCB journal, and `jstep`
the step of an update that comes next, 0 with none in hand (R430). -/
structure PortSlot where
  part : Nat
  slot : Nat
  pcb : Nat
  vec : Nat
  proc : Nat
  cring : Nat
  crn : Nat
  fenceA : Nat
  next : Word
  bell : Option Word := none
  stuck : Bool := false
  ord : Option (BitVec 512) := none
  taken : List Word := []
  recorded : List Word := []
  journal : BitVec 128 := 0
  jstep : Nat := 0
  deriving DecidableEq, Repr

/-- A pre-emption in progress (R376, R377): `teams` are the context's teams at its start; `forced` that the forced swap
has begun, `t0` its start in picoseconds, `done` that it is complete and only its reset deadline is watched. -/
structure Preempt where
  part : Nat
  proc : Nat
  hold : Bool
  rdl : Nat
  ddl : Nat
  req : MgmtReq
  t0 : Nat
  teams : List Nat
  forced : Bool := false
  done : Bool := false
  deriving DecidableEq, Repr

/-- A landing slot that is reserved or occupied (R266; log 59). -/
structure Landing where
  die : Nat
  cluster : Nat
  slot : Nat
  team : Nat
  deriving DecidableEq, Repr

/-- A present die (R262, R318, R319, R420): its state code, whether a machine-check made it, when the last was, whether a
second one within the hour keeps it down (R431), a die core reset that waits for its teams to be saved (R421), a die-down
that waits (R423), a restart whose stack has trained (R422), the cycle in which its cores left reset; the shares and the back-off base latched at the frame's start and
the slots left in it, by partition; and the partition that used another's slot last (R319). -/
structure Die where
  die : Nat
  st : Nat := 0
  mc : Bool := false
  mcAt : Option Nat := none
  dead : Bool := false
  reset : Option MgmtReq := none
  down : Option MgmtReq := none
  up : Option MgmtReq := none
  born : Nat := 0
  shares : List Nat := List.replicate 16 0
  queue : List Nat := List.replicate 16 0
  left : List Nat := List.replicate 16 0
  bob : List Nat := List.replicate 16 6
  turn : Nat := 15
  deriving DecidableEq, Repr

/-! The carousel (R383 to R398). -/

/-- A slot that is not free (R386). -/
structure CarSlot where
  slot : Nat
  name : Word
  ver : BitVec 24
  data : List Byte
  poisoned : Bool := false
  deriving DecidableEq, Repr

/-- An entry of a segment index (R386): `reserved` by an accepted BOARD, `marked` by an accepted ALIGHT. -/
structure CarName where
  part : Nat
  name : Word
  reserved : Option Nat := none
  marked : Option Nat := none
  deriving DecidableEq, Repr

/-- A registered catch (R391); `at_` is the time of its registration in picoseconds. -/
structure CarCatch where
  req : Nat
  die : Nat
  part : Nat
  name : Word
  at_ : Nat
  deriving DecidableEq, Repr

/-- An entry of the patch RAM (R425). -/
structure Patch where
  maddr : BitVec 12
  pmask : BitVec 16
  word : BitVec 96
  deriving DecidableEq, Repr

/-- A patch set that is armed (R426, R440): its partitions, its version, and SHA-256 of its header and entries. -/
structure PatchSet where
  pm : BitVec 16
  ver : Word
  hash : BitVec 256
  deriving DecidableEq, Repr

/-- An event that the machine itself has scheduled: the event of the same name of spec/opcode_table.json; or the later steps of a
DCRESET and of a DRESTART (R421, R422), a step of a PCB's update (R430), the requests of a partition that wait (R427), the
sensors' test of each second (R434), the moving of some of a copy's elements before its landing (R219; log 57), and the ageing of
what a core and its cluster cache (R34, R216, R346; log 20). -/
inductive Due where
  | spinDemotionExpiry (w : WaveId) (tid : Nat)
  | scratchpadBankServe (c : CoreId) (bank : Nat)
  | loadResult (w : WaveId) (op : Nat)
  | storePerformed (w : WaveId) (op : Nat)
  | copyLand (c : CoreId) (team copy : Nat)
  | copyMove (c : CoreId) (team copy : Nat)
  | cacheAge (c : CoreId)
  | dcopyFlagAdd (c : CoreId) (team copy : Nat)
  | engineWordComplete (c : CoreId) (team : Nat)
  | streamFetch (c : CoreId) (team : Nat)
  | mstreamTrapTake (c : CoreId) (team : Nat)
  | heatCloseTimeout (c : CoreId)
  | heatCloseLog (c : CoreId)
  | heatSet (c : CoreId)
  | holdbackDepart (c : CoreId)
  | rollbackComplete (c : CoreId)
  | teamAdmit (c : CoreId) (team : Nat)
  | teamRetire (c : CoreId) (team : Nat)
  | swapOut (c : CoreId) (team : Nat)
  | blockedSwap (c : CoreId) (team : Nat)
  | migrShip (c : CoreId) (team : Nat)
  | migrArrival (team : Nat)
  | crucibleServe (die : Nat)
  | requestResend (c : CoreId)
  | crucibleFrame (die : Nat)
  | kernelResultDelivery (id : Nat)
  | knextServe (id : Nat)
  | kwaitDeadline (wset : Nat)
  | timerFire (timer : Nat)
  | directoryInsert (id : Nat)
  | nameLookup (id : Nat)
  | grantPteUpdate (id : Nat)
  | shootdownAck (c : CoreId) (id : Nat)
  | grantCommit (id : Nat)
  | regionTransferDone (host : Bool) (region : Nat)
  | launch (part slot : Nat)
  | rungraph (part slot : Nat)
  | fenceMessage (part slot : Nat)
  | ordStart (part slot : Nat)
  | runnerRangeReport (launch die : Nat)
  | completionPost (ring : RingId)
  | graphTimeNode (graph : Nat)
  | bucketTick (part bucket : Nat)
  | dcresetGoesOn (die : Nat)
  | drestartGoesOn (die : Nat)
  | pcbStep (part slot : Nat)
  | requestServe (part : Nat)
  | sensorTest
  | recordBack (id : Nat)
  | tableEdit (unmap : Bool) (part : Nat) (x : Shoot)
  | farGrant (id : Nat)
  | ddownProceed (die : Nat)
  | preemptDrainDeadline (part proc : Nat)
  | preemptResetDeadline (part proc : Nat)
  | flaskChangeDone
  | carouselIndexAccept (id : Nat)
  | catchRegister (id : Nat)
  | catchLapTimeout (id : Nat)
  | boardLapTimeout (id : Nat)
  | slotPassage (slot die : Nat) (strike : Bool)
  | resetRelease
  | faultReply (team : Nat) (key : FaultKey) (deny : Bool) (mask : BitVec 3)
  deriving DecidableEq, Repr

/-- Whose device access waits for a region (R353): a wave's at a word, the hold-back buffer's oldest effect, or that of an
event that comes again. -/
inductive Asker where
  | wave (w : WaveId) (pc : WAddr)
  | held (c : CoreId) (r : OpRef)
  | event (d : Due)
  deriving DecidableEq, Repr

/-- A region transfer in progress (R354): a region of host memory or of the package, the direction, the driver answer
it waits for, the host access that started it, the management request it completes, or whose device accesses wait for it, in
their order of arrival; `owed` that it is complete and those have yet to be performed (R353, R354). -/
structure Xfer where
  host : Bool
  region : Nat
  toHost : Bool
  seq : Option Word := none
  acc : Option HostAccess := none
  req : Option MgmtReq := none
  askers : List Asker := []
  owed : Bool := false
  deriving DecidableEq, Repr

/-- The package (log 3).  `cycle` is the main clock; `agenda` holds the events the machine has scheduled and `inputs`
those the outside world does to it, each with its cycle; `focus` says which agent acts next, and `focusAt` since which
cycle; `wallBase` is the picoseconds that had passed in the cycle
`wallAt`, when the clock step last changed (R4), and `ptpBase` the PTP counter at `ptpAt` of them; `ctr` counts the free values
drawn and `nextId` the names given out.  `freedIds` and `freedPages` are the ids and pages reported to Cupola as free (R301,
R333).  `mem` is domain and host memory, `bar2` the inbox windows, `staging` the patch
staging area; `mgmt` the management registers that do not stand at their reset values; `waiting` the requests that have been posted
and are yet to be served (R427); `measured` what bring-up has measured of the pattern store (R424); `l2c` the lines of the
clusters' 4 MiB data caches, each with its cluster (R2; log 70); `objs` the records in the dies' object caches and `dirty` those that
are still to be written back (R296; log 48). -/
structure State where
  cycle : Nat := 0
  agenda : List (Nat × Due) := []
  inputs : List (Nat × Instr) := []
  focus : Focus := .none
  focusAt : Nat := 0
  ctr : Nat := 0
  nextId : Nat := 1
  mem : List Host.Cell := []
  bar2 : List Host.Cell := []
  staging : List Host.Cell := []
  mgmt : List (Nat × DWord) := []
  errs : List (BitVec 128) := []
  errHead : Word := 0
  dies : List Die := []
  cores : List Core := []
  l2 : List (Nat × Tlb) := []
  l2c : List (Nat × Nat) := []
  cupola : List CupolaReq := []
  objs : List (Nat × BitVec 512) := []
  dirty : List Nat := []
  images : List Image := []
  runq : List QEnt := []
  grids : List Grid := []
  runs : List GraphRun := []
  slots : List PortSlot := []
  preempts : List Preempt := []
  landings : List Landing := []
  reqs : List Req := []
  ports : List PortQ := []
  gslots : List GSlot := []
  grants : List Grant := []
  shoots : List Shoot := []
  dir : List DirEnt := []
  names : List DirEnt := []
  car : List CarSlot := []
  carIndex : List CarName := []
  catches : List CarCatch := []
  keys : List KeySlot := []
  attIndex : Nat := 0
  mail : List (List Byte) := []
  patches : List Patch := []
  patchSets : List PatchSet := []
  measured : Option (BitVec 256) := none
  unreachable : List Nat := []
  linkDown : Bool := false
  records : List PendRec := []
  posted : List (RingId × Word) := []
  raised : List Nat := []
  xfers : List Xfer := []
  seqNo : Word := 0
  wallBase : Nat := 0
  wallAt : Nat := 0
  ptpBase : Nat := 0
  ptpAt : Nat := 0
  ptpRate : Int := 0
  hostWaits : List HostAccess := []
  waiting : List MgmtReq := []
  restarts : List (Nat × Nat) := []
  freedIds : List Nat := []
  freedPages : List Page := []
  deriving DecidableEq, Repr

/-- The package right after reset: nothing but the bring-up of R424 is due, every register stands at its reset value (log 1)
and memory lists nothing. -/
def State.reset : State := { agenda := [(0, .resetRelease)] }

end Sys2Proof.Machine
end

