-- ==== Sys2Proof/Machine/Ops.lean ====
section
/-! DEFINITION. The named operations over memory, management registers, cores, teams, waves and threads; the selection
of a run; taking a trap and returning from one (spec/02, 07, 08, 11). -/

namespace Sys2Proof.Machine

abbrev Out := Host.Outcome State Fault Refusal

/-! Lists and bits. -/

/-- Replace the first element that `p` holds of, or add at the end. -/
def putWhere {α : Type} (p : α → Bool) (x : α) : List α → List α
  | [] => [x]
  | y :: ys => if p y then x :: ys else y :: putWhere p x ys

def modWhere {α : Type} (p : α → Bool) (f : α → α) (l : List α) : List α := l.map fun y => if p y then f y else y

/-- Element `n` of a list replaced; a list that ends before it is first filled with `d`, as which an element past the end
reads. -/
def setAt {α : Type} (d : α) (n : Nat) (x : α) : List α → List α
  | [] => match n with
    | 0 => [x]
    | m + 1 => d :: setAt d m x []
  | y :: ys => match n with
    | 0 => x :: ys
    | m + 1 => y :: setAt d m x ys

/-- Element `n` of a file of `size` registers; there is no other. -/
def putAt {α : Type} (size : Nat) (d : α) (n : Nat) (x : α) (l : List α) : List α := if n < size then setAt d n x l else l

/-- `x` with bits `lo + len - 1 : lo` replaced. -/
def setBits {n : Nat} (x : BitVec n) (lo : Nat) {len : Nat} (v : BitVec len) : BitVec n :=
  (x &&& ~~~((BitVec.allOnes len).setWidth n <<< lo)) ||| (v.setWidth n <<< lo)

def bitsNat {n : Nat} (x : BitVec n) (lo len : Nat) : Nat := (x.extractLsb' lo len).toNat

def hasBit {n : Nat} (x : BitVec n) (k : Nat) : Bool := x.getLsbD k

/-- Bytes of a value, the least significant first (R6). -/
def bytesLE (n x : Nat) : List Byte := (List.range n).map fun k => BitVec.ofNat 8 (x >>> (8 * k))

def natLE : List Byte → Nat
  | [] => 0
  | b :: bs => b.toNat + 256 * natLE bs

/-! Memory: one list of cells over domain physical addresses, with host memory above them (log 3); an unlisted byte
reads as zero (R424, log 5). -/

/-- The key of host physical address 0: domain physical addresses have 52 bits (R337). -/
def hostBase : Nat := 2 ^ 52

def memRead (m : List Host.Cell) (a : Nat) : Byte :=
  match m with
  | [] => 0
  | (k, x) :: r => if a < k then 0 else if a = k then x else memRead r a

def memWrite (m : List Host.Cell) (a : Nat) (b : Byte) : List Host.Cell :=
  match m with
  | [] => if b = 0 then [] else [(a, b)]
  | (k, x) :: r =>
    if a < k then (if b = 0 then (k, x) :: r else (a, b) :: (k, x) :: r)
    else if a = k then (if b = 0 then r else (a, b) :: r)
    else (k, x) :: memWrite r a b

def memWrites (m : List Host.Cell) : List Host.Cell → List Host.Cell
  | [] => m
  | (a, b) :: cs => memWrites (memWrite m a b) cs

/-- The canonical form: addresses strictly rising from `lo`, and no entry that reads as an unlisted address does. -/
def memSorted (lo : Nat) : List Host.Cell → Bool
  | [] => true
  | (k, x) :: r => decide (lo ≤ k) && x != 0 && memSorted (k + 1) r

abbrev Memory.wf (m : List Host.Cell) : Bool := memSorted 0 m

def memBytes (m : List Host.Cell) (a n : Nat) : List Byte := (List.range n).map fun k => memRead m (a + k)

def memNat (m : List Host.Cell) (a n : Nat) : Nat := natLE (memBytes m a n)

/-- The cells of bytes stored from address `a` on. -/
def cellsAt (a : Nat) (bs : List Byte) : List Host.Cell := bs.mapIdx fun k b => (a + k, b)

/-! Management registers (R416): the 64-bit words of BAR0, each with its reset value. -/

def partBlock (p : Nat) : Nat := 0x100000 + 0x10000 * p
def dieBlock (d : Nat) : Nat := 0x300000 + 0x10000 * d

/-- Reset values that are not 0: RGNCTL's HB 21 (R352), PWRCTL's CAP 1,200 (R436), and of each partition PSCHED's SWT 20 (R357), HEATCTL's KLEN 8 (R279) and CRSHARE's BOB 6 (R318); where the spec gives none it is 0 (log 1). -/
def regReset (off : Nat) : DWord :=
  if off = 0x20 then 0x2A
  else if off = 0x28 then BitVec.ofNat 64 (1200 * 2 ^ 16)
  else if 0x100000 ≤ off ∧ off < 0x200000 then
    (if off % 0x10000 = 0x0 then 20
     else if off % 0x10000 = 0x8 then 8
     else if off % 0x10000 = 0x10 then BitVec.ofNat 64 (6 * 2 ^ 40)
     else 0)
  else 0

def State.mreg (s : State) (off : Nat) : DWord := (s.mgmt.lookup off).getD (regReset off)

/-- A written register that stands at its reset value is not listed. -/
def State.setMreg (s : State) (off : Nat) (v : DWord) : State :=
  { s with mgmt := (s.mgmt.filter (·.1 != off)) ++ (if v = regReset off then [] else [(off, v)]) }

/-- An entry of the management error log (R417). -/
def State.logErr (s : State) (code part die off val : Nat) : State :=
  let e := BitVec.ofNat 128 (code + part * 2 ^ 16 + die * 2 ^ 20 + off % 2 ^ 40 * 2 ^ 24 + val % 2 ^ 64 * 2 ^ 64)
  { s with errs := (if 4096 ≤ s.errs.length then s.errs.drop 1 else s.errs) ++ [e], errHead := s.errHead + 1 }

/-! Time. -/

def State.tick (s : State) (n : Nat) : State := { s with cycle := s.cycle + n }

/-- An event that stands to happen `d` cycles from now. -/
def State.post (s : State) (d : Nat) (i : Due) : State := { s with agenda := s.agenda ++ [(s.cycle + d, i)] }

/-- An event that is due once: it is posted unless it already stands in the agenda. -/
def State.postOnce (s : State) (i : Due) : State := if s.agenda.any (·.2 == i) then s else s.post 1 i

/-- An event whose time the spec leaves open: some cycle after this one (log 6). -/
def State.later (s : State) (i : Due) : State :=
  { s.post (1 + Config.freeDelay s.ctr) i with ctr := s.ctr + 1 }

/-- What a core and its cluster cache may change from now on (log 20): the ageing is on the agenda, at a free time. -/
def State.ages (s : State) (c : CoreId) : State :=
  if s.agenda.any (·.2 == .cacheAge c) then s else { s.post (1 + Config.freeAge s.ctr) (.cacheAge c) with ctr := s.ctr + 1 }

/-- The members of a list whose places satisfy `p`. -/
def pickBy {α : Type} (p : Nat → Bool) (l : List α) : List α := ((l.mapIdx fun i x => (i, x)).filter fun q => p q.1).map (·.2)

/-- A list without the members whose bits in `m` are 1. -/
def dropBits {α : Type} (m : Nat) (l : List α) : List α := pickBy (fun i => !m.testBit i) l

/-- Main-clock cycles of a microsecond, by PWRCTL's STEP (R436). -/
def State.mhz (s : State) : Nat := [550, 700, 900, 1100].getD (bitsNat (s.mreg 0x28) 0 2) 550

/-- Picoseconds that have passed, at whatever clock steps: what a bound in nanoseconds or microseconds is measured by (R4). -/
def State.wall (s : State) : Nat := s.wallBase + (s.cycle - s.wallAt) * 1000000 / s.mhz

/-- Main-clock cycles, at the present step, in which so many picoseconds pass. -/
def State.cyclesIn (s : State) (ps : Nat) : Nat := (ps * s.mhz + 999999) / 1000000

/-- Picoseconds of so many microseconds. -/
def micros (n : Nat) : Nat := n * 1000000

/-- The first cycle that reaches an instant. -/
def State.cycleAt (s : State) (t : Nat) : Nat := s.wallAt + s.cyclesIn (t - s.wallBase)

/-- Nanoseconds of the package's PTP counter: from its last setting it runs at the nominal rate, but for a slew in parts
per billion (R414, R415; the rate within its bounds is the model's, log 16). -/
def State.ptpNanos (s : State) : Nat :=
  let e := (s.wall - s.ptpAt) / 1000
  ((s.ptpBase + e : Nat) + (e : Int) * s.ptpRate / 1000000000).toNat

/-- The cycle in which a die's cores left reset (R18). -/
def State.born (s : State) (d : Nat) : Nat := ((s.dies.find? (·.die == d)).map (·.born)).getD 0

/-- `%ptp`: 48 bits of seconds above nanoseconds (R414). -/
def State.ptp (s : State) : BitVec 80 :=
  BitVec.ofNat 48 (s.ptpNanos / 1000000000) ++ BitVec.ofNat 32 (s.ptpNanos % 1000000000)

/-! Cores, teams, waves. -/

def State.core (s : State) (c : CoreId) : Core := (s.cores.find? (·.id == c)).getD { id := c }

def State.setCore (s : State) (k : Core) : State := { s with cores := putWhere (·.id == k.id) k s.cores }

def State.modCore (s : State) (c : CoreId) (f : Core → Core) : State := s.setCore (f (s.core c))

def Core.team (k : Core) (oid : Nat) : Option Team := k.teams.find? (·.oid == oid)

def Core.setTeam (k : Core) (t : Team) : Core := { k with teams := modWhere (·.oid == t.oid) (fun _ => t) k.teams }

def Core.modTeam (k : Core) (oid : Nat) (f : Team → Team) : Core := { k with teams := modWhere (·.oid == oid) f k.teams }

def Team.wave (t : Team) (wid : Nat) : Option Wave := t.waves.find? (·.wid == wid)

def Team.setWave (t : Team) (w : Wave) : Team := { t with waves := modWhere (·.wid == w.wid) (fun _ => w) t.waves }

def Team.modWave (t : Team) (wid : Nat) (f : Wave → Wave) : Team := { t with waves := modWhere (·.wid == wid) f t.waves }

def State.modTeam (s : State) (c : CoreId) (oid : Nat) (f : Team → Team) : State := s.modCore c (·.modTeam oid f)

def State.waveAt (s : State) (w : WaveId) : Option (Team × Wave) :=
  match (s.core w.core).team w.team with
  | none => none
  | some t => (t.wave w.wid).map fun v => (t, v)

def Wave.thread (w : Wave) (t : Nat) : Thread := w.threads.getD t {}

def Wave.modThread (w : Wave) (t : Nat) (f : Thread → Thread) : Wave :=
  { w with threads := putAt 32 {} t (f (w.thread t)) w.threads }

/-- One of the core's performance counters goes up (R288). -/
def Core.count (k : Core) (n by_ : Nat) : Core := 
  { k with perf := putAt 12 0 n (k.perf.getD n 0 + BitVec.ofNat 64 by_) k.perf }

/-- A counter of the cycles in which something waited: a cycle counts once, whatever waited in it (R288). -/
def Core.waits (k : Core) (n cycle : Nat) : Core :=
  if k.waitAt.lookup n = some cycle then k
  else { k.count n 1 with waitAt := putWhere (·.1 == n) (n, cycle) k.waitAt }

/-! The team descriptor (R140). -/

def descNW (d : Rec256) : Nat := bitsNat d 0 4 + 1
def descNR (d : Rec256) : Nat := bitsNat d 4 2 + 1
def descRole (d : Rec256) (k : Nat) : BitVec 8 := d.extractLsb' (32 + 8 * k) 8
def descEntry (d : Rec256) (k : Nat) : BitVec 24 := d.extractLsb' (64 + 24 * k) 24
def descScr (d : Rec256) : Nat := bitsNat d 160 19

def Team.nw (t : Team) : Nat := descNW t.desc
def Team.acc (t : Team) : Nat := bitsNat t.desc 6 4
def Team.mseq (t : Team) : Bool := hasBit t.desc 10
def Team.prog (t : Team) : Bool := hasBit t.desc 11
def Team.ftz (t : Team) : Bool := hasBit t.desc 12
def Team.fair (t : Team) : Nat := bitsNat t.desc 16 16
def Team.fpe (t : Team) : BitVec 5 := t.desc.extractLsb' 179 5
def Team.tve (t : Team) : Bool := hasBit t.desc 216
def Team.tvec (t : Team) : WAddr := t.pbase + (t.desc.extractLsb' 192 24).setWidth 48

/-! Registers (R17). -/

def Thread.reg (t : Thread) (n : Nat) : Word := t.v.getD n 0
def Thread.pred (t : Thread) (n : Nat) : Bool := n == 31 || hasBit t.p n
def Wave.sreg (w : Wave) (n : Nat) : Word := w.s.getD n 0
def Wave.breg (w : Wave) (n : Nat) : BufRec := w.b.getD n 0

/-- p31 discards what is written to it (R17). -/
def Thread.setPred (t : Thread) (n : Nat) (x : Bool) : Thread :=
  if n = 31 then t else { t with p := setBits t.p n (BitVec.ofBool x) }

def RegWrite.apply (w : Wave) : RegWrite → Wave
  | .v t n x => w.modThread t fun h => { h with v := putAt 64 0 n x h.v }
  | .p t n x => w.modThread t fun h => h.setPred n x
  | .s n x => { w with s := putAt 64 0 n x w.s }
  | .b n x => { w with b := putAt 16 0 n x w.b }

def RegWrite.reg : RegWrite → Reg
  | .v _ n _ => .v n
  | .p _ n _ => .p n
  | .s n _ => .s n
  | .b n _ => .b n

/-- A write to a thread that has exited, or to an ended wave, is discarded (R126, R151; log 55). -/
def RegWrite.live (w : Wave) : RegWrite → Bool
  | .v t _ _ | .p t _ _ => (w.thread t).life != .exited
  | _ => !w.ended

/-- The write puts a value into a register: p31 takes none (R17). -/
def RegWrite.lands : RegWrite → Bool
  | .p _ n _ => n != 31
  | _ => true

/-- Register writes, gathered by the spin detector where the team has one (R199). -/
def Wave.write (prog : Bool) (w : Wave) (ws : List RegWrite) : Wave :=
  let ls := ws.filter (RegWrite.live w)
  let w1 := ls.foldl RegWrite.apply w
  if prog then { w1 with det := { w1.det with sig := w1.det.sig ++ ls.filter RegWrite.lands } } else w1

/-- The undo-log line of a register write: 16 words of a register file (R280; the layout is the model's, log 21). -/
def RegWrite.logKey (team wid : Nat) : RegWrite → LogKey
  | .v t n _ => .vreg team wid (2 * n + t / 16)
  | .p t _ _ => .pred team wid (t / 16)
  | .s n _ => .ureg team wid (n / 16)
  | .b n _ => .ureg team wid (4 + n / 4)

/-! The run (R21 to R23, R196, R197, R202). -/

/-- The word after the clause that the thread is in, counted from the header that it entered (R38). -/
def Thread.clauseEnd (t : Thread) : WAddr := t.cb + 1 + BitVec.ofNat 48 (Header.ofWord t.hdr).count

def Thread.eligible (t : Thread) : Bool := t.life == .eligible

def tids : List Nat := List.range 32

def Wave.eligibles (w : Wave) : List Nat := tids.filter fun t => (w.thread t).eligible

/-- R196: keys are compared as (TIER, RQ, PC), RQ not within TIER 2. -/
def Thread.keyLe (a b : Thread) : Bool :=
  if a.tier != b.tier then decide (a.tier < b.tier)
  else if a.tier != 2 && a.rq != b.rq then decide (a.rq < b.rq)
  else decide (a.pc.toNat ≤ b.pc.toNat)

/-- The head of the PC table among the given threads. -/
def Wave.headOf (w : Wave) : List Nat → Option Nat
  | [] => none
  | t :: ts =>
    match w.headOf ts with
    | none => some t
    | some h => if (w.thread t).keyLe (w.thread h) then some t else some h

def bit32 (t : Nat) : BitVec 32 := (1 : BitVec 32) <<< t

def maskOf (ts : List Nat) : BitVec 32 := ts.foldl (fun m t => m ||| bit32 t) 0

/-- The threads of the selected run. -/
def Wave.members (w : Wave) : List Nat := tids.filter fun t => hasBit w.run t && (w.thread t).eligible

def minBy (f : Thread → Nat) (w : Wave) (ts : List Nat) : Nat :=
  match ts.map fun t => f (w.thread t) with
  | [] => 0
  | x :: xs => xs.foldl min x

/-- Select the next run at a clause boundary: the head's PC group, whose threads take the least TIER and RQ among them
(R22, R196); a thread held at an RCV that joins a demoted run shares that run's demotion (R201; log 86); the fairness timer
restarts if the run holds a thread the last one did not (R202). -/
def Wave.select (w : Wave) : Wave :=
  if w.members.isEmpty then
    match w.headOf w.eligibles with
    | none => { w with run := 0 }
    | some h =>
      let ts := w.eligibles.filter fun t => (w.thread t).pc == (w.thread h).pc
      let m := maskOf ts
      let tier := minBy (·.tier) w ts
      let rq := minBy (·.rq) w ts
      let since := minBy (·.demoted) w (ts.filter fun t => (w.thread t).tier == 1)
      let w1 := ts.foldl (fun w t => w.modThread t fun x =>
        { x with tier := tier, rq := rq, demoted := if x.tier = 1 then x.demoted else since }) w
      { w1 with run := m, prev := m, timer := if m &&& ~~~w.prev = 0 then w.timer else 0 }
  else w

/-- One more than the largest RQ of any eligible entry (R197). -/
def Wave.topRq (w : Wave) : Nat := (w.eligibles.map fun t => (w.thread t).rq).foldl max 0 + 1

/-- R197; a rotation of the wave's only run has no effect. -/
def Wave.rotate (w : Wave) (ts : List Nat) : Wave :=
  if w.eligibles.all ts.contains then w
  else
    let q := w.topRq
    { ts.foldl (fun w t => w.modThread t fun x => { x with rq := q }) w with timer := 0 }

/-- When every eligible thread stands at one PC, each RQ becomes 0 (R196). -/
def Wave.level (w : Wave) : Wave :=
  match w.eligibles with
  | [] => w
  | t :: ts =>
    if ts.all fun u => (w.thread u).pc == (w.thread t).pc then
      (t :: ts).foldl (fun w u => w.modThread u fun x => { x with rq := 0 }) w
    else w

/-- The run has reached a clause boundary (R23): it is empty, or a thread of it stands at a header, or its threads share
no PC. -/
def Wave.atBoundary (w : Wave) : Bool :=
  match w.members with
  | [] => true
  | t :: ts => (w.thread t).mark || ts.any fun u => (w.thread u).pc != (w.thread t).pc || (w.thread u).mark

/-- At a clause boundary, yields and the fairness timer rotate the run, and the next run is yet to be selected (R202,
R203); a rotation of the wave's only run has no effect and leaves T as it is (R197; log 87).  A wave whose threads have all exited ends (R22). -/
def Wave.boundary (prog : Bool) (fair : Nat) (w : Wave) : Wave :=
  let ms := w.members
  let ys := ms.filter fun t => (w.thread t).yld
  let w1 := if ys.isEmpty then w else w.rotate ys
  let w2 := if prog && decide (fair ≤ w.timer) then w1.rotate ms else w1
  let w3 := tids.foldl (fun w t => w.modThread t fun x => { x with yld := false }) w2
  { w3.level with run := 0, ended := w3.threads.all fun t => t.life == .exited }

/-- After an instruction: a boundary, where the run has come to one or the instruction is one itself (`edge`). -/
def Wave.settle (prog : Bool) (fair : Nat) (edge : Bool) (w : Wave) : Wave :=
  if edge || w.atBoundary then w.boundary prog fair else w.level

/-- Cycles in which the wave holds its lane for the selected run (R202). -/
def Wave.spend (w : Wave) (n : Nat) : Wave :=
  if w.eligibles.all fun t => hasBit w.run t then w else { w with timer := w.timer + n }

/-- A store ends every spin demotion of the wave (R200, R201) and marks the detector. -/
def Wave.stored (w : Wave) : Wave :=
  let w1 := tids.foldl (fun w t => w.modThread t fun x => if x.tier = 1 then { x with tier := 0 } else x) w
  { w1 with det := { w1.det with stored := true } }

/-- A thread becomes eligible again at TIER 0 and the given RQ (R204). -/
def Wave.unparkAt (q : Nat) (w : Wave) (t : Nat) : Wave :=
  w.modThread t fun x => { x with life := .eligible, keys := [], landing := false, tier := 0, rq := q }

/-- A thread that becomes eligible again: TIER 0 and the RQ of a rotated run (R204), which is 0 where every eligible thread
now stands at its PC (R196). -/
def Wave.unpark (w : Wave) (t : Nat) : Wave := (w.unparkAt w.topRq t).level

/-! The counters (R17, R173): the operations of a class that have not retired; a class retires in issue order. -/

/-- Drop the complete operations of class `k` that no older incomplete one of the class precedes. -/
def retire (k : OpClass) : List Op → List Op
  | [] => []
  | o :: os => if o.cls == k then (if o.done then retire k os else o :: os) else o :: retire k os

def Wave.retireAll (w : Wave) : Wave :=
  { w with ops := retire .kc (retire .mx (retire .cp (retire .st (retire .ld w.ops)))) }

def Wave.counter (w : Wave) (k : OpClass) : Nat := (w.ops.filter (·.cls == k)).length

/-- The registers a pending result will write (R26). -/
def Wave.pending (w : Wave) : List Reg := (w.ops.filter fun o => !o.done).flatMap (·.pend)

/-- Results have put values into registers in this cycle (R26). -/
def Wave.arrived (w : Wave) (cycle : Nat) (rs : List Reg) : Wave :=
  { w with landed := (if w.landedAt = cycle then w.landed else []) ++ rs, landedAt := cycle }

/-- The registers written by results in this cycle: a word that waits for one issues in the next cycle at the earliest
(R26). -/
def Wave.fresh (w : Wave) (cycle : Nat) : List Reg := if w.landedAt = cycle then w.landed else []

/-- The events of the wave that have not been performed at scope `sc`: at core scope or narrower, the reads without a
value and the scratchpad accesses unserved; wider, every load, store and request (R175, R176). -/
def Wave.unperformed (sc : Nat) (w : Wave) : List Op :=
  w.ops.filter fun o => !o.done &&
    (if sc ≤ 2 then o.spad || o.cls == .ld || o.cls == .kc else o.cls == .ld || o.cls == .st || o.cls == .kc)

/-- An LDS or ATS of ORDER 1 or 3 holds back later instructions that reach memory, scratchpad, a barrier, a tag or an
object, MSTART included, until its value is written (R170). -/
def Wave.acquiring (w : Wave) : Bool := w.ops.any fun o => o.acq && !o.done

/-! Traps (R28 to R31). -/

def Thread.code (t : Thread) : Nat := bitsNat t.rcd 0 8
def Thread.hnd (t : Thread) : Bool := hasBit t.rcd 8
def Thread.xpc (t : Thread) : WAddr := t.rcd.extractLsb' 16 48
def Thread.xcb (t : Thread) : WAddr := t.rcd.extractLsb' 64 48
def Thread.xaddr (t : Thread) : BitVec 57 := t.rcd.extractLsb' 128 57
def Thread.xaux (t : Thread) : Word := t.rcd.extractLsb' 192 32

/-- The trap record (R30) with HND set. -/
def trapRecord (code : Nat) (pc cb : WAddr) (addr : BitVec 57) (aux : Word) : Rec256 :=
  BitVec.setWidth 256 ((0 : BitVec 32) ++ aux ++ (0 : BitVec 7) ++ addr ++ (0 : BitVec 16) ++ cb ++ pc ++ (0 : BitVec 7)
    ++ (1 : BitVec 1) ++ BitVec.ofNat 8 code)

/-- What a trap names: its code, ADDR and AUX (R31). -/
structure Trap where
  code : Nat
  addr : BitVec 57 := 0
  aux : Word := 0
  deriving DecidableEq, Repr

/-- Taking a trap (R29, R149): the record is written with HND, and the thread enters the team's trap vector; with no
vector it is parked and the team faults; with HND already set the record is left, the thread is parked and the team
faults with the second code. -/
def Thread.take (tm : Team) (x : Trap) (pc cb : WAddr) (t : Thread) : Thread × Option Nat :=
  let off := { t with yld := false, deny := none, mtraps := [] }
  if t.hnd then ({ off with life := .parked }, some x.code)
  else
    let r := { off with rcd := trapRecord x.code pc cb x.addr x.aux }
    if tm.tve then ({ r with cb := tm.tvec, pc := tm.tvec + 1, mark := true, tier := 0 }, none)
    else ({ r with life := .parked }, some x.code)

/-- The return from a trap (R129): HND and CODE are cleared, and the thread enters the clause at `%xcb` with its PC at
`%xpc`. -/
def Thread.return_ (t : Thread) : Thread :=
  { t with rcd := setBits t.rcd 0 (0 : BitVec 9), cb := t.xcb, pc := t.xpc, mark := true }

/-- A team that is to fault keeps the first reason it has to leave (R150). -/
def Team.faulted (t : Team) (code : Nat) : Team :=
  match t.leave with
  | some (.fault _) => t
  | _ => { t with leave := some (.fault code) }

/-! The instruction in hand: the focused wave with its run selected. -/

structure Ctx where
  s : State
  w : WaveId
  core : Core
  team : Team
  wave : Wave
  run : List Nat
  pc : WAddr
  cb : WAddr

def State.ctxAt (s : State) (w : WaveId) : Option Ctx :=
  match s.waveAt w with
  | none => none
  | some (t, v) =>
    let v1 := v.select
    match v1.members with
    | [] => none
    | h :: hs => some ⟨s, w, s.core w.core, t, v1, h :: hs, (v1.thread h).pc, (v1.thread h).cb⟩

def State.ctx (s : State) : Option Ctx :=
  match s.focus with
  | .wave w => s.ctxAt w
  | _ => none

namespace Ctx

def thread (x : Ctx) (t : Nat) : Thread := x.wave.thread t

/-- The guard passes for the thread (R39). -/
def passes (x : Ctx) (g : Guard) (t : Nat) : Bool := (x.thread t).pred g.gp.toNat != g.gn

def active (x : Ctx) (g : Guard) : List Nat := x.run.filter (x.passes g)

def modWave (x : Ctx) (f : Wave → Wave) : Ctx := { x with wave := f x.wave }
def modThread (x : Ctx) (t : Nat) (f : Thread → Thread) : Ctx := x.modWave (·.modThread t f)
def modTeam (x : Ctx) (f : Team → Team) : Ctx := { x with team := f x.team }
def modCore (x : Ctx) (f : Core → Core) : Ctx := { x with core := f x.core }
def modState (x : Ctx) (f : State → State) : Ctx := { x with s := f x.s }

/-- Everything written back. -/
def state (x : Ctx) : State := x.s.setCore (x.core.setTeam (x.team.setWave x.wave))

/-- The undo log takes the lines that are written for the first time in the open heat (R280). -/
def log (x : Ctx) (ks : List LogKey) : Ctx :=
  x.modCore fun k => { k with cur := k.cur.map fun h =>
    { h with log := ks.foldl (fun l key => if l.contains key then l else l ++ [key]) h.log } }

def write (x : Ctx) (ws : List RegWrite) : Ctx :=
  (x.log (ws.map (·.logKey x.w.team x.w.wid))).modWave fun w => w.write x.team.prog ws

/-- A thread of the run takes a trap on the instruction at `pc`, `cb`, and leaves the run; a team that faults is to be
swapped out (R150). -/
def trapAt (x : Ctx) (t : Nat) (tr : Trap) (pc cb : WAddr) : Ctx :=
  let r := (x.thread t).take x.team tr pc cb
  let x1 := (x.log [.rcd x.w.team x.w.wid (t / 2)]).modWave fun w =>
    { w.modThread t (fun _ => r.1) with run := w.run &&& ~~~bit32 t }
  match r.2 with
  | none => x1
  | some c => (x1.modTeam (·.faulted c)).modState (·.post 1 (.swapOut x.w.core x.w.team))

/-- A trap on the word at the run's PC; the record's CB is the clause that the thread itself is in (R30). -/
def trap (x : Ctx) (t : Nat) (tr : Trap) : Ctx := x.trapAt t tr x.pc (x.thread t).cb

def trapAll (x : Ctx) (ts : List Nat) (tr : Nat → Trap) : Ctx := ts.foldl (fun x t => x.trap t (tr t)) x

/-- A thread is parked on this instruction (R171). -/
def park (x : Ctx) (t : Nat) (keys : List FaultKey) : Ctx :=
  x.modWave fun w => { w.modThread t (fun h => { h with life := .parked, keys := keys }) with
    run := w.run &&& ~~~bit32 t }

/-- A thread goes on to the next word, or enters the header behind the clause that it is itself in (R122). -/
def fallThrough (x : Ctx) (t : Nat) : Ctx :=
  let n := x.pc + 1
  x.modThread t fun h => if n = h.clauseEnd then { h with cb := n, pc := n + 1, mark := true } else { h with pc := n }

/-- Every thread still in the run falls through. -/
def next (x : Ctx) : Ctx := (x.wave.members).foldl fallThrough x

/-- Threads of the run have left it, in a trap or parked: after a control instruction the rest no longer share a PC with
them (R123). -/
def parted (x : Ctx) : Bool := x.run.any fun t => !hasBit x.wave.run t

/-- The instruction has issued: `cost` lane cycles pass (R24), the counters count, and the wave settles, at a clause boundary
where the instruction itself is one (`edge`); `words` is 0 where no word was issued (R288).  The cycles of an instruction whose run a trap has split count in T
as those of a run beside other eligible threads (R202; log 93, DEDUCED).  A team whose last wave has ended is to retire (R152). -/
def close (x : Ctx) (cost ops : Nat) (edge : Bool := false) (words : Nat := 1) : State :=
  let y := (x.modCore fun k => ((k.count 0 cost).count 1 words).count 2 ops).modWave fun w =>
    { (w.spend cost).settle x.team.prog x.team.fair edge with kcWait := false }
  let team := y.team.setWave y.wave
  if team.waves.all (·.ended) && team.leave.isNone then
    let z := (y.modTeam fun t => { t with leave := some .retire }).state
    (z.post 0 (.teamRetire x.w.core x.w.team)).tick cost
  else (y.state).tick cost

/-- The run is held at issue: a cycle passes and nothing else happens (R26). -/
def hold (x : Ctx) : State := ((x.modWave fun w => w.spend 1).state).tick 1

/-- A hold that a performance counter counts (R288). -/
def holdFor (x : Ctx) (n : Nat) : State := (x.modCore (·.waits n x.s.cycle)).hold

end Ctx

end Sys2Proof.Machine
end

