-- ==== Sys2Proof/Machine/Operands.lean ====
section
/-! DEFINITION. Operand forms: which registers a word names, how they are read and written, and how an instruction
issues (spec/02 R19, R24 to R26, R32; spec/03 R39 to R49; spec/05 R80, R81, R97). -/

namespace Sys2Proof.Machine

/-! The registers a word names. -/

def regsOf (n : BitVec 6) (k pair : Bool) : List Reg :=
  let mk (m : Nat) : Reg := if k then .s m else .v m
  if pair then [mk n.toNat, mk (n.toNat + 1)] else [mk n.toNat]

def slotRegs (sl : Slot) (n : BitVec 6) (k : Bool) (ty sty : BitVec 4) : List Reg :=
  match sl with
  | .zero | .sel => []
  | .reg w | .vreg w | .sreg w => regsOf n k (w.isPair ty sty)
  | .pred => [.p (n.toNat % 32)]

def slotPair (sl : Slot) (ty sty : BitVec 4) : Bool :=
  match sl with
  | .reg w | .vreg w | .sreg w => w.isPair ty sty
  | _ => false

/-- How an instruction issues: its guard, the registers it reads and writes, whether it is uniform (R25), and its cost
per active thread and once (R24); `whole` that every thread of the run is held to the budget (R122), `control` that it is a transfer, so that threads that
leave the run by a trap end it (R123). -/
structure Issue where
  g : Guard
  reads : List Reg := []
  writes : List Reg := []
  uniform : Bool := false
  per : Nat := 1
  extra : Nat := 0
  whole : Bool := false
  control : Bool := false

def Issue.cost (i : Issue) (act : List Nat) : Nat := if i.uniform then 1 else i.per * act.length + i.extra

/-- Thread operations of a vector operation (R288). -/
def Issue.tops (i : Issue) (act : List Nat) : Nat := if i.uniform then 0 else act.length

/-- The lowest v register named at or above the budget (R19, R31). -/
def overBudget (budget : Nat) (rs : List Reg) : Option Nat :=
  rs.foldl (fun m r =>
    match r with
    | .v n => if budget ≤ n then (match m with | none => some n | some k => some (min k n)) else m
    | _ => m) none

namespace Ctx

/-- A register of the list awaits a result, or has received one in this very cycle (R26). -/
def pends (x : Ctx) (rs : List Reg) : Bool :=
  let ps := x.wave.pending ++ x.wave.fresh x.s.cycle
  rs.any ps.contains

/-- Undo-log entries in use (R280, R281). -/
def heatLoad (h : Option Heat) : Nat :=
  match h with
  | none => 0
  | some h => h.log.length + (h.rets.map (·.1)).sum

/-- The undo log has room for the lines that these writes touch first in this heat (R282). -/
def room (x : Ctx) (ks : List LogKey) : Bool :=
  match x.core.cur with
  | none => true
  | some h =>
    let new := (ks.filter fun k => !h.log.contains k).eraseDups.length
    new = 0 || decide (heatLoad x.core.cur + heatLoad x.core.old + new ≤ 3072)

/-- The undo-log lines of the records of threads that trap (R280). -/
def rcdKeys (x : Ctx) (ts : List Nat) : List LogKey := ts.map fun t => .rcd x.w.team x.w.wid (t / 2)

/-- BUDGET for every active thread (R19, R31; log 60). -/
def budgetTrap (x : Ctx) (act : List Nat) (n : Nat) (edge : Bool := false) : State :=
  if x.room (x.rcdKeys act) then
    let y := x.trapAll act fun _ => ⟨3, 0, BitVec.ofNat 32 (n + 256 * x.wave.budget)⟩
    y.next.close 1 0 (edge && y.parted)
  else x.holdFor 9

/-- The checks at issue: the guard's predicate, the budget, then the scoreboard (R19, R26).  With no active thread the
instruction costs nothing and does nothing (R24, R25), and it waits for no register but its guard (log 65). -/
def issue (x : Ctx) (i : Issue) (go : List Nat → State) : State :=
  if x.pends [.p i.g.gp.toNat] then x.hold
  else
    match overBudget x.wave.budget (i.reads ++ i.writes) with
    | some n =>
      match if i.whole then x.run else x.active i.g with
      | [] => x.next.close 0 0
      | t :: ts => x.budgetTrap (t :: ts) n i.control
    | none =>
      match x.active i.g with
      | [] => x.next.close 0 0
      | t :: ts => if x.pends (i.reads ++ i.writes) then x.hold else go (t :: ts)

end Ctx

/-- Begin an instruction of the focused wave.  With no wave in focus, or none of its threads eligible, no instruction
word issues and nothing changes (log 2). -/
def begin_ (s : State) (i : Issue) (go : Ctx → List Nat → State) : Out :=
  match s.ctx with
  | none => .next s
  | some x => .next (x.issue i (go x))

/-! Reading and writing registers. -/

/-- A register or pair of a thread, as its raw bits (R6). -/
def Ctx.rd (x : Ctx) (t : Nat) (n : BitVec 6) (k pair : Bool) : DWord :=
  let r (m : Nat) : Word := if k then x.wave.sreg m else (x.thread t).reg m
  if pair then r (n.toNat + 1) ++ r n.toNat else (r n.toNat).setWidth 64

def Ctx.sword (x : Ctx) (n : BitVec 6) : Word := x.wave.sreg n.toNat

def Ctx.spair (x : Ctx) (n : BitVec 6) : DWord := x.rd 0 n true true

def lo32 (x : DWord) : Word := x.setWidth 32
def hi32 (x : DWord) : Word := x.extractLsb' 32 32

/-- A value into a register or pair of thread `t`. -/
def regWrites (t : Nat) (n : BitVec 6) (k pair : Bool) (x : DWord) : List RegWrite :=
  let w (m : Nat) (y : Word) : RegWrite := if k then .s m y else .v t m y
  if pair then [w n.toNat (lo32 x), w (n.toNat + 1) (hi32 x)] else [w n.toNat (lo32 x)]

/-! Types (R41, R59, R80). -/

def tyWidth (ty : BitVec 4) : Nat := Spec.tyBits ty.toNat

/-- The `.i` types (R41). -/
def tySigned (ty : BitVec 4) : Bool := ty == 0 || ty == 2 || ty == 4 || ty == 13

/-- The low `w` bits of raw bits as a signed or unsigned integer. -/
def intOf (w : Nat) (sgn : Bool) (x : DWord) : Int :=
  let u := x.toNat % 2 ^ w
  if sgn && decide (2 ^ (w - 1) ≤ u) then (u : Int) - 2 ^ w else u

def rdInt (ty : BitVec 4) (x : DWord) : Int := intOf (tyWidth ty) (tySigned ty) x

/-- The result of the type with value congruent to `x`, or the nearest one under SAT; a narrow one extended to 32 bits
(R59, R80). -/
def deliver (ty : BitVec 4) (sat : Bool) (x : Int) : DWord :=
  let w := tyWidth ty
  let lo : Int := if tySigned ty then -(2 ^ (w - 1)) else 0
  let hi : Int := if tySigned ty then 2 ^ (w - 1) - 1 else 2 ^ w - 1
  let y : Int := if sat then max lo (min hi x) else x
  let z := intOf w (tySigned ty) (BitVec.ofInt 64 y)
  if w = 64 then BitVec.ofInt 64 z else (BitVec.ofInt 32 z).setWidth 64

/-! The operations of classes 0 and 1. -/

/-- The sources of an operation, as raw bits, and the modes it works under. -/
structure Src where
  a : DWord
  b : DWord
  c : DWord
  ps : Bool
  ftz : Bool

/-- What an operation answers: the destination's bits, flags, and further predicate writes. -/
structure Res where
  d : DWord
  flags : BitVec 5 := 0
  preds : List (Nat × Bool) := []

/-- Where a result goes: to each active thread, once to a uniform register, or to every thread of the run (R25). -/
inductive Mode where
  | perThread | once | wholeRun
  deriving DecidableEq

namespace Ctx

/-- Results are written and flags gathered, or FPX is raised (R103). -/
def deliverAll (x : Ctx) (i : Issue) (mode : Mode) (act : List Nat) (res : Nat → List RegWrite × BitVec 5) : State :=
  let fpe := x.team.fpe
  let fpx (fl : BitVec 5) : Trap := ⟨9, 0, (fl &&& fpe).setWidth 32⟩
  let bad (t : Nat) : Bool := (res t).2 &&& fpe != 0
  let rt := act.headD 0
  let good : List Nat :=
    match mode with
    | .perThread => act.filter fun t => !bad t
    | .once => if bad rt then [] else [rt]
    | .wholeRun => x.run
  let ws := good.flatMap fun t => (res t).1
  let off : List Nat :=
    match mode with
    | .perThread => act.filter bad
    | .once => if bad rt then act else []
    | .wholeRun => []
  if x.room (ws.map (·.logKey x.w.team x.w.wid) ++ x.rcdKeys off) then
    let fl := good.foldl (fun f t => f ||| (res t).2) 0
    let x1 := (x.write ws).modTeam fun tm => { tm with fps := tm.fps ||| fl }
    (x1.trapAll off fun t => fpx (res (if mode = .perThread then t else rt)).2).next.close (i.cost act) (i.tops act)
  else x.holdFor 9

end Ctx

/-- A format-R operation (R25, R49, R81, R97). -/
def issueOfR (sp : RSpec) (f : RForm) (per : Nat) : Issue :=
  let rs (sl : Slot) (n : BitVec 6) (k : Bool) : List Reg := slotRegs sl n k f.ty f.sty
  let pair := slotPair sp.d f.ty f.sty || slotPair sp.a f.ty f.sty || slotPair sp.b f.ty f.sty || slotPair sp.c f.ty f.sty
  let srcS (sl : Slot) (k : Bool) : Bool := !sl.isReg || k
  { g := f.g
    reads := rs sp.a f.a f.ak ++ rs sp.b f.b f.bk ++ rs sp.c f.c f.ck ++ (if sp.ps then [.p f.ps.toNat] else [])
    writes := rs sp.d f.d f.dk
    uniform := sp.scalar || (sp.d.isReg && f.dk && srcS sp.a f.ak && srcS sp.b f.bk && srcS sp.c f.ck)
    per := if pair then 2 * per else per }

def modeOf (scalar dIsReg dk uniform : Bool) : Mode :=
  if scalar then (if dIsReg && dk then .once else .wholeRun) else if uniform then .once else .perThread

/-- A source's bits: a register or pair, or a predicate as 0 or 1. -/
def srcVal (sl : Slot) (x : Ctx) (t : Nat) (n : BitVec 6) (k : Bool) (ty sty : BitVec 4) : DWord :=
  match sl with
  | .pred => if (x.thread t).pred (n.toNat % 32) then 1 else 0
  | _ => x.rd t n k (slotPair sl ty sty)

def srcOf (sp : RSpec) (f : RForm) (x : Ctx) (t : Nat) : Src :=
  { a := srcVal sp.a x t f.a f.ak f.ty f.sty
    b := srcVal sp.b x t f.b f.bk f.ty f.sty
    c := srcVal sp.c x t f.c f.ck f.ty f.sty
    ps := (x.thread t).pred f.ps.toNat
    ftz := x.team.ftz }

/-- The writes of a result for thread `t`, and its further predicates for the threads `who`: a predicate destination
receives whether the result is nonzero. -/
def destWrites (sl : Slot) (n : BitVec 6) (k : Bool) (ty sty : BitVec 4) (t : Nat) (who : List Nat) (r : Res) : List RegWrite :=
  (match sl with
    | .pred => [RegWrite.p t (n.toNat % 32) (r.d != 0)]
    | _ => regWrites t n k (slotPair sl ty sty) r.d)
  ++ who.flatMap fun u => r.preds.map fun q => .p u q.1 q.2

/-- Where the results of an operation in format R go (R25, R97). -/
def modeOfR (sp : RSpec) (f : RForm) (per : Nat) : Mode :=
  modeOf sp.scalar sp.d.isReg f.dk (issueOfR sp f per).uniform

/-- What the operation delivers for thread `t`: its register writes and flags.  A uniform or scalar operation takes the
sources of the first active thread (R81, R97); one that is executed once writes its predicate for every active thread
(R84; log 30). -/
def resOfR (sp : RSpec) (f : RForm) (per : Nat) (op : Src → Res) (x : Ctx) (act : List Nat) (t : Nat) :
    List RegWrite × BitVec 5 :=
  let r := op (srcOf sp f x (if modeOfR sp f per = .perThread then t else act.headD 0))
  (destWrites sp.d f.d f.dk f.ty f.sty t (if modeOfR sp f per = .once then act else [t]) r, r.flags)

/-- An operation in format R: `per` is its cost for a 32-bit value, `op` its result from its sources. -/
def aluR (sp : RSpec) (f : RForm) (per : Nat) (op : Src → Res) (s : State) : Out :=
  let i := issueOfR sp f per
  begin_ s i fun x act => x.deliverAll i (modeOfR sp f per) act (resOfR sp f per op x act)

/-- The immediate as a source (R43). -/
def immValue (f : IForm) : DWord := if f.mod4 == 13 then f.imm.signExtend 64 else f.imm.setWidth 64

/-- An operation in format I; the immediate stands in place of the last register source, which is A for MOVI and B for the
rest (R43). -/
def issueOfI (sp : ISpec) (f : IForm) : Issue :=
  let pair := slotPair sp.d f.mod4 0 || slotPair sp.a f.mod4 0
  { g := f.g
    reads := slotRegs sp.a f.a f.ak f.mod4 0
    writes := slotRegs sp.d f.d f.dk f.mod4 0
    uniform := sp.scalar || (sp.d.isReg && f.dk && (!sp.a.isReg || f.ak))
    per := if pair then 2 else 1 }

def modeOfI (sp : ISpec) (f : IForm) : Mode := modeOf sp.scalar sp.d.isReg f.dk (issueOfI sp f).uniform

def srcOfI (sp : ISpec) (f : IForm) (x : Ctx) (t : Nat) : Src :=
  ⟨if sp.a.isReg then x.rd t f.a f.ak (slotPair sp.a f.mod4 0) else immValue f, immValue f, 0, false, x.team.ftz⟩

def resOfI (sp : ISpec) (f : IForm) (op : Src → Res) (x : Ctx) (act : List Nat) (t : Nat) : List RegWrite × BitVec 5 :=
  let r := op (srcOfI sp f x (if modeOfI sp f = .perThread then t else act.headD 0))
  (destWrites sp.d f.d f.dk f.mod4 0 t [t] r, r.flags)

def aluI (sp : ISpec) (f : IForm) (op : Src → Res) (s : State) : Out :=
  let i := issueOfI sp f
  begin_ s i fun x act => x.deliverAll i (modeOfI sp f) act (resOfI sp f op x act)

end Sys2Proof.Machine
end

