-- ==== Sys2Proof/Machine/Flags.lean ====
section
/-! DEFINITION. Floating formats, the one rounding, the flags, conversions, exact sums and BX blocks
(spec/04_number_formats.md; the flags' layout R102). -/

namespace Sys2Proof.Machine

/-! Flags (R102). -/

abbrev Flags := BitVec 5
def flInvalid : Flags := 1
def flDivZero : Flags := 2
def flOverflow : Flags := 4
def flUnderflow : Flags := 8
def flInexact : Flags := 16
def flagIf (b : Bool) (f : Flags) : Flags := if b then f else 0

/-! Formats (R60, R61). -/

/-- Exponent width, fraction width, and whether the format is E4M3, which has no infinity. -/
structure Fmt where
  ew : Nat
  fw : Nat
  e4 : Bool := false
  deriving DecidableEq, Repr

def f32 : Fmt := ⟨8, 23, false⟩
def f16 : Fmt := ⟨5, 10, false⟩
def bf16 : Fmt := ⟨8, 7, false⟩
def e4m3 : Fmt := ⟨4, 3, true⟩
def e5m2 : Fmt := ⟨5, 2, false⟩

/-- The floating format of a type or format code (R41). -/
def fmtOf (code : Nat) : Fmt :=
  match code with
  | 6 => f16
  | 7 => bf16
  | 9 => e4m3
  | 10 => e5m2
  | _ => f32

def Fmt.width (f : Fmt) : Nat := 1 + f.ew + f.fw
def Fmt.bias (f : Fmt) : Nat := 2 ^ (f.ew - 1) - 1
/-- FTZ governs the formats that are not 8-bit (R65). -/
def Fmt.flushes (f : Fmt) : Bool := decide (8 < f.width)
def Fmt.signBit (f : Fmt) : Nat := 2 ^ (f.ew + f.fw)
/-- The bits of +infinity, but for E4M3. -/
def Fmt.infBits (f : Fmt) : Nat := (2 ^ f.ew - 1) * 2 ^ f.fw
def Fmt.maxBits (f : Fmt) : Nat := if f.e4 then 0x7E else f.infBits - 1
/-- The canonical NaN (R61, R62). -/
def Fmt.nanBits (f : Fmt) : Nat :=
  if f.e4 then 0x7F else f.infBits + 2 ^ (f.fw - 1)
def Fmt.signed (f : Fmt) (neg : Bool) (x : Nat) : Nat := if neg then f.signBit + x else x

/-- A floating value: a NaN, signalling or not, an infinity, or (-1)^neg · m · 2^e exactly. -/
inductive Fl where
  | nan (sig : Bool)
  | inf (neg : Bool)
  | num (neg : Bool) (m : Nat) (e : Int)
  deriving DecidableEq, Repr

/-- The value of a bit pattern (R60, R61). -/
def Fmt.decode (f : Fmt) (x : Nat) : Fl :=
  let neg := x / f.signBit % 2 = 1
  let ef := x / 2 ^ f.fw % 2 ^ f.ew
  let fr := x % 2 ^ f.fw
  let fin : Fl :=
    if ef = 0 then .num neg fr (1 - f.bias - f.fw) else .num neg (2 ^ f.fw + fr) (ef - f.bias - f.fw)
  if f.e4 then (if x % 128 = 127 then .nan false else fin)
  else if ef = 2 ^ f.ew - 1 then
    (if fr = 0 then .inf neg else .nan (decide (8 < f.width) && decide (fr < 2 ^ (f.fw - 1))))
  else fin

def Fl.isNan : Fl → Bool
  | .nan _ => true
  | _ => false

def Fl.sigNan : Fl → Bool
  | .nan b => b
  | _ => false

def Fl.isZero : Fl → Bool
  | .num _ 0 _ => true
  | _ => false

def Fl.neg : Fl → Fl
  | .nan b => .nan b
  | .inf n => .inf !n
  | .num n m e => .num (!n) m e

def Fl.isNeg : Fl → Bool
  | .nan _ => false
  | .inf n => n
  | .num n _ _ => n

/-- A source as it is read: under FTZ a subnormal of a flushing format is a zero (R65, R105). -/
def Fmt.read (f : Fmt) (ftz : Bool) (x : Nat) : Fl :=
  match f.decode (x % 2 ^ f.width) with
  | .num n m e => if ftz && f.flushes && decide (m < 2 ^ f.fw) then .num n 0 0 else .num n m e
  | v => v

/-! Rounding (R63 to R66). -/

/-- Whether a discarded remainder `r` below `2^sh` rounds the kept part `n` away from zero. -/
def roundsUp (rm : Nat) (neg : Bool) (n r sh : Nat) : Bool :=
  match rm with
  | 0 => decide (2 ^ sh < 2 * r) || (2 * r == 2 ^ sh && n % 2 == 1)
  | 1 => false
  | 2 => r != 0 && !neg
  | _ => r != 0 && neg

/-- `m · 2^e` cut to a multiple of `2^q` and rounded; and whether anything was lost. -/
def cutTo (rm : Nat) (neg : Bool) (m : Nat) (e q : Int) : Nat × Bool :=
  if q ≤ e then (m * 2 ^ (e - q).toNat, false)
  else
    let sh := min (q - e).toNat (Nat.log2 m + 3)
    let n := m / 2 ^ sh
    let r := m % 2 ^ sh
    (if roundsUp rm neg n r sh then n + 1 else n, r != 0)

/-- What overflow delivers (R64). -/
def Fmt.overflow (f : Fmt) (rm : Nat) (sat neg : Bool) : Nat :=
  let toMax := sat || rm == 1 || (rm == 2 && neg) || (rm == 3 && !neg)
  if toMax then f.signed neg f.maxBits else if f.e4 then f.nanBits else f.signed neg f.infBits

/-- The exact value (-1)^neg · m · 2^e rounded once (R63 to R66).  Tininess is judged on the rounded value (log 12). -/
def Fmt.roundNum (f : Fmt) (rm : Nat) (sat ftz neg : Bool) (m : Nat) (e : Int) : Nat × Flags :=
  if m = 0 then (f.signed neg 0, 0)
  else
    let emin : Int := 1 - f.bias
    let q := max (e + Nat.log2 m) emin - f.fw
    let (n, inexact) := cutTo rm neg m e q
    let bits := n + (q - (emin - f.fw)).toNat * 2 ^ f.fw
    if f.maxBits < bits then (f.overflow rm sat neg, flOverflow ||| flInexact)
    else if ftz && f.flushes && decide (0 < bits) && decide (bits < 2 ^ f.fw) then
      (f.signed neg 0, flUnderflow ||| flInexact)
    else (f.signed neg bits, flagIf inexact flInexact ||| flagIf (inexact && decide (bits < 2 ^ f.fw)) flUnderflow)

/-- A value delivered by arithmetic: an infinity stays one (R73, R106; log 13). -/
def Fmt.round (f : Fmt) (rm : Nat) (sat ftz : Bool) : Fl → Nat × Flags
  | .nan _ => (f.nanBits, 0)
  | .inf n => if f.e4 then (f.nanBits, flInexact) else (f.signed n f.infBits, 0)
  | .num n m e => f.roundNum rm sat ftz n m e

/-- A value delivered by a conversion: R64's outcomes apply to an infinite source, and a signalling NaN raises
invalid (R66). -/
def Fmt.convert (f : Fmt) (rm : Nat) (sat ftz : Bool) : Fl → Nat × Flags
  | .nan s => (f.nanBits, flagIf s flInvalid)
  | .inf n =>
    if sat then (f.signed n f.maxBits, flInexact)
    else if f.e4 then (f.nanBits, flInexact) else (f.signed n f.infBits, 0)
  | .num n m e => f.roundNum rm sat ftz n m e

/-- Rounding to an integer. -/
def roundInt (rm : Nat) (neg : Bool) (m : Nat) (e : Int) : Int × Bool :=
  let r := if m = 0 then (0, false) else cutTo rm neg m e 0
  (if neg then -(r.1 : Int) else r.1, r.2)

/-- Float to integer of the type (R68). -/
def toInt (ty : BitVec 4) (rm : Nat) : Fl → DWord × Flags
  | .nan _ => (deliver ty false 0, flInvalid)
  | .inf n => (deliver ty true (if n then -(2 ^ 64) else 2 ^ 64), flInvalid ||| flInexact)
  | .num n m e =>
    let big := decide (70 < e + Nat.log2 m) && m != 0
    let r := if big then ((if n then -(2 ^ 64) else 2 ^ 64 : Int), false) else roundInt rm n m e
    let lo : Int := if tySigned ty then -(2 ^ (tyWidth ty - 1)) else 0
    let hi : Int := if tySigned ty then 2 ^ (tyWidth ty - 1) - 1 else 2 ^ tyWidth ty - 1
    if lo ≤ r.1 ∧ r.1 ≤ hi then (deliver ty false r.1, flagIf r.2 flInexact)
    else (deliver ty true r.1, flInvalid ||| flInexact)

def ofInt (x : Int) : Fl := .num (decide (x < 0)) x.natAbs 0

/-! Exact products and sums (R73). -/

/-- The exact product; an invalid 0 · infinity is a NaN. -/
def Fl.mul : Fl → Fl → Fl
  | .nan s, .nan t => .nan (s || t)
  | .nan s, _ => .nan s
  | _, .nan s => .nan s
  | .inf n, .inf k => .inf (n != k)
  | .inf n, .num k m _ => if m = 0 then .nan true else .inf (n != k)
  | .num n m _, .inf k => if m = 0 then .nan true else .inf (n != k)
  | .num n m e, .num k p d => .num (n != k) (m * p) (e + d)

/-- The product of 0 and infinity raises invalid (R66). -/
def mulInvalid (a b : Fl) : Bool :=
  match a, b with
  | .inf _, .num _ 0 _ => true
  | .num _ 0 _, .inf _ => true
  | _, _ => false

def minExp : List Fl → Int
  | [] => 0
  | .num _ m e :: r => if m = 0 then minExp r else min e (minExp r)
  | _ :: r => minExp r

/-- A finite term as a multiple of `2^q`. -/
def termAt (q : Int) : Fl → Int
  | .num n m e => (if n then -1 else 1) * (m * 2 ^ (e - q).toNat : Nat)
  | _ => 0

def hasInf (neg : Bool) (ts : List Fl) : Bool := ts.any fun t => t == .inf neg

/-- The exact sum of terms, and whether infinities of both signs met (R73). -/
def sumExact (rm : Nat) (ts : List Fl) : Fl × Bool :=
  let clash := hasInf true ts && hasInf false ts
  if clash || ts.any Fl.isNan then (.nan false, clash)
  else if hasInf true ts then (.inf true, false)
  else if hasInf false ts then (.inf false, false)
  else
    let q := minExp ts
    let x := (ts.map (termAt q)).sum
    if x = 0 then (.num (ts.all Fl.isNeg || rm == 3) 0 0, false) else (.num (decide (x < 0)) x.natAbs q, false)

/-- Order of two numbers: `a < b`, with -0 = +0 (R108).  NaNs are for the caller. -/
def Fl.lt (a b : Fl) : Bool :=
  match a, b with
  | .inf n, .inf k => n && !k
  | .inf n, _ => n
  | _, .inf k => !k
  | a, b =>
    let q := minExp [a, b]
    decide (termAt q a < termAt q b)

def Fl.eq (a b : Fl) : Bool := !a.isNan && !b.isNan && !a.lt b && !b.lt a

/-! Division and square root, correctly rounded (R111). -/

/-- `1 / (m · 2^e)` with a sticky bit below every rounding position. -/
def recipExact (neg : Bool) (m : Nat) (e : Int) : Fl :=
  let k := Nat.log2 m + 64
  let n := 2 ^ k / m
  .num neg (2 * n + (if 2 ^ k % m = 0 then 0 else 1)) (-e - k - 1)

/-- The integer square root by bits: `fuel` bits from the top. -/
def isqrt (fuel x r : Nat) : Nat :=
  match fuel with
  | 0 => r
  | k + 1 =>
    let c := r + 2 ^ k
    if c * c ≤ x then isqrt k x c else isqrt k x r

/-- `sqrt (m · 2^e)` with a sticky bit. -/
def sqrtExact (m : Nat) (e : Int) : Fl :=
  let odd := e % 2 != 0
  let m1 := if odd then 2 * m else m
  let e1 := if odd then e - 1 else e
  let big := m1 * 2 ^ 64
  let r := isqrt 70 big 0
  .num false (2 * r + (if r * r = big then 0 else 1)) (e1 / 2 - 33)

/-! BX blocks (R70 to R72). -/

/-- The value of an element of BX8 (`bx4` false) or BX4 under a scale pair (R71). -/
def bxDecode (bx4 : Bool) (e0 e1 elem : Nat) : Fl :=
  let neg := if bx4 then elem / 8 % 2 = 1 else elem / 128 % 2 = 1
  let sel := if bx4 then elem / 4 % 2 = 1 else elem / 64 % 2 = 1
  let m := if bx4 then elem % 4 else elem % 64
  let ex := if sel then e1 else e0
  if ex = 255 then .nan false else .num neg m (ex - (if bx4 then 128 else 132))

def Fl.finite : Fl → Bool
  | .num _ _ _ => true
  | _ => false

/-- The greatest exponent floor(log2 |x|) of nonzero values. -/
def maxLog : List Fl → Option Int
  | [] => none
  | .num _ m e :: r =>
    if m = 0 then maxLog r
    else match maxLog r with
      | none => some (e + Nat.log2 m)
      | some k => some (max k (e + Nat.log2 m))
  | _ :: r => maxLog r

/-- The distance of `x` from the decoded candidate, as a multiple of `2^q`. -/
def bxDist (q : Int) (x y : Fl) : Nat := (termAt q x - termAt q y).natAbs

/-- An encoded block: E0, E1, the elements, and for each whether it is exact (R72). -/
structure BxBlock where
  e0 : Nat
  e1 : Nat
  elems : List Nat
  exact : List Bool
  bad : Bool

def bxElem (bx4 : Bool) (e0 e1 : Nat) (x : Fl) : Nat × Bool :=
  match x with
  | .num n m e =>
    let top := if bx4 then 3 else 63
    let bias : Int := if bx4 then 128 else 132
    let s := if n then (if bx4 then 8 else 128) else 0
    let cand (ex : Nat) : Nat := if m = 0 then 0 else min top (cutTo 0 false m e (ex - bias)).1
    let c0 := cand e0
    let c1 := cand e1
    let v (ex c : Nat) : Fl := .num n c (ex - bias)
    let q := minExp [x, v e0 c0, v e1 c1]
    let d0 := bxDist q x (v e0 c0)
    let d1 := bxDist q x (v e1 c1)
    if d1 < d0 then (s + (if bx4 then 4 else 64) + c1, d1 == 0) else (s + c0, d0 == 0)
  | .inf n => (if n then (if bx4 then 8 else 128) else 0, false)
  | .nan _ => (0, false)

/-- The encoder (R72); the elements of a block that is not finite have selector 0 (log 79). -/
def bxEncode (bx4 : Bool) (xs : List Fl) : BxBlock :=
  if xs.all Fl.finite then
    let e0 : Nat := match maxLog xs with
      | none => 0
      | some k => (k + 127).toNat
    let e1 := e0 - (if bx4 then 3 else 4)
    let es := xs.map (bxElem bx4 e0 e1)
    ⟨e0, e1, es.map (·.1), es.map (·.2), false⟩
  else
    let sign (x : Fl) : Nat := if x.isNeg then (if bx4 then 8 else 128) else 0
    ⟨255, 255, xs.map sign, xs.map Fl.isNan, true⟩

end Sys2Proof.Machine
end

