-- ==== Sys2Proof/Machine/Integer.lean ====
section
/-! DEFINITION. Integer, address, scalar and predicate instructions (spec/05_integer_scalar.md). -/

namespace Sys2Proof.Machine

/-! What each operation computes (R83 to R94). -/

/-- An exact integer function of the sources, delivered in the type (R83; R95's rows of IADD, ISUB, IABS and CLAMP). -/
def intRes (ty : BitVec 4) (sat : Bool) (g : Int → Int → Int → Int) (o : Src) : Res :=
  { d := deliver ty sat (g (rdInt ty o.a) (rdInt ty o.b) (rdInt ty o.c)) }

def addOp (a b _ : Int) : Int := a + b
def subOp (a b _ : Int) : Int := a - b
def add3Op (a b c : Int) : Int := a + b + c
def mulOp (a b _ : Int) : Int := a * b
def madOp (a b c : Int) : Int := a * b + c
def minOp (a b _ : Int) : Int := min a b
def maxOp (a b _ : Int) : Int := max a b
def absOp (a _ _ : Int) : Int := a.natAbs
def negOp (a _ _ : Int) : Int := -a
def clampOp (a b c : Int) : Int := if a < b then b else if a > c then c else a

/-- IMULH: floor (a · b / 2^w) (R83, R95). -/
def mulhRes (ty : BitVec 4) (o : Src) : Res :=
  intRes ty false (fun a b _ => (a * b).fdiv (2 ^ tyWidth ty)) o

/-- IMADW: 32-bit factors, a 64-bit addend and result (R83). -/
def madwRes (ty : BitVec 4) (sat : Bool) (o : Src) : Res :=
  let wide : BitVec 4 := if ty == 4 then 13 else 14
  { d := deliver wide sat (rdInt ty o.a * rdInt ty o.b + rdInt wide o.c) }

/-- IADDC (R84, R95). -/
def addcRes (nc : Bool) (pc : Nat) (o : Src) : Res :=
  let x := (lo32 o.a).toNat + (lo32 o.b).toNat + (if !nc && o.ps then 1 else 0)
  { d := (BitVec.ofNat 32 x).setWidth 64, preds := [(pc, decide (2 ^ 32 ≤ x))] }

/-- The conditions of R42 on exact values. -/
def condHolds (cc : Nat) (a b : Int) : Bool :=
  match cc with
  | 0 => a == b
  | 1 => a != b
  | 2 => decide (a < b)
  | 3 => decide (a ≤ b)
  | 4 => decide (b < a)
  | _ => decide (b ≤ a)

def boolBits (b : Bool) : DWord := if b then 1 else 0

def cmpRes (ty : BitVec 4) (cc : Nat) (o : Src) : Res := { d := boolBits (condHolds cc (rdInt ty o.a) (rdInt ty o.b)) }

def selRes (o : Src) : Res := { d := if o.ps then o.a else o.b }

/-- LEA (R86, R95): `ty` extends the 32-bit index. -/
def leaRes (ty : BitVec 4) (k : Nat) (o : Src) : Res :=
  { d := o.a + ((if ty == 4 then (lo32 o.b).signExtend 64 else (lo32 o.b).setWidth 64) <<< k) }

/-- A bit pattern of the type's width, extended into its destination (R80). -/
def patRes (ty : BitVec 4) (x : Nat) : Res := { d := deliver ty false (x : Int) }

def pat (ty : BitVec 4) (x : DWord) : Nat := x.toNat % 2 ^ tyWidth ty

/-- Bitwise operations (R87). -/
def bitRes (ty : BitVec 4) (g : DWord → DWord → DWord) (o : Src) : Res := patRes ty (pat ty (g o.a o.b))

/-- Shifts (R88; R95's rows of SAR, SHL and ROL): `n` is bits 7:0 of the amount. -/
def shlRes (ty : BitVec 4) (o : Src) : Res :=
  let n := bitsNat o.b 0 8
  patRes ty (if tyWidth ty ≤ n then 0 else pat ty (o.a <<< n))
def shrRes (ty : BitVec 4) (o : Src) : Res :=
  let n := bitsNat o.b 0 8
  patRes ty (if tyWidth ty ≤ n then 0 else pat ty o.a >>> n)
def sarRes (ty : BitVec 4) (o : Src) : Res :=
  let n := bitsNat o.b 0 8
  { d := deliver ty false (intOf (tyWidth ty) true o.a >>> (min n (tyWidth ty))) }
def rolRes (ty : BitVec 4) (o : Src) : Res :=
  let w := tyWidth ty
  let n := bitsNat o.b 0 8 % w
  let x := pat ty o.a
  patRes ty (((x <<< n) ||| (x >>> (w - n))) % 2 ^ w)

/-- FSH (R89, R95). -/
def fshRes (right : Bool) (o : Src) : Res :=
  let x : DWord := lo32 o.a ++ lo32 o.b
  let n := (lo32 o.c).toNat % 32
  { d := (if right then lo32 (x >>> n) else hi32 (x <<< n)).setWidth 64 }

/-- BFX with specifier `sp` (R90, R95). -/
def bfxRes (ty : BitVec 4) (sp : DWord) (o : Src) : Res :=
  let w := tyWidth ty
  let pos := bitsNat sp 0 8
  let len := min (bitsNat sp 8 8) w
  if len = 0 then { d := deliver ty false 0 }
  else
    let x := intOf w (tySigned ty) o.a
    { d := deliver ty false (intOf len (tySigned ty) (BitVec.ofInt 64 (x >>> pos))) }

/-- BFI (R90). -/
def bfiRes (ty : BitVec 4) (o : Src) : Res :=
  let w := tyWidth ty
  let pos := bitsNat o.c 0 8
  let len := min (bitsNat o.c 8 8) w
  let mask := ((2 ^ len - 1) <<< pos) % 2 ^ w
  let ins := ((pat ty o.b % 2 ^ len) <<< pos) % 2 ^ w
  patRes ty ((pat ty o.a &&& ((2 ^ w - 1) ^^^ mask)) ||| ins)

/-- POPC, CLZ, CTZ (R91, R95). -/
def popcOf (w : Nat) (x : DWord) : Nat := ((List.range w).filter fun k => hasBit x k).length
def clzOf (w : Nat) (x : DWord) : Nat := ((List.range w).reverse.takeWhile fun k => !hasBit x k).length
def ctzOf (w : Nat) (x : DWord) : Nat := ((List.range w).takeWhile fun k => !hasBit x k).length
def countRes (ty : BitVec 4) (g : Nat → DWord → Nat) (o : Src) : Res := { d := BitVec.ofNat 64 (g (tyWidth ty) o.a) }
def brevRes (ty : BitVec 4) (o : Src) : Res :=
  { d := if tyWidth ty = 64 then o.a.reverse else ((lo32 o.a).reverse).setWidth 64 }

/-- PERM (R92, R95). -/
def permByte (o : Src) (i : Nat) : Byte :=
  let sel := bitsNat o.c (4 * i) 4
  let x : DWord := lo32 o.b ++ lo32 o.a
  let y := x.extractLsb' (8 * (sel % 8)) 8
  if sel < 8 then y else if hasBit y 7 then 0xFF else 0
def permRes (o : Src) : Res :=
  { d := (permByte o 3 ++ permByte o 2 ++ permByte o 1 ++ permByte o 0 : BitVec 32).setWidth 64 }

def movRes (o : Src) : Res := { d := o.a }

/-- Predicate operations (R94): SUB bit 0 negates Pa, bit 1 Pb. -/
def predRes (sub : BitVec 6) (g : Bool → Bool → Bool) (o : Src) : Res :=
  { d := boolBits (g ((o.a != 0) != hasBit sub 0) ((o.b != 0) != hasBit sub 1)) }
def notRes (o : Src) : Res := { d := boolBits (o.a == 0) }
def setRes (ty : BitVec 4) (o : Src) : Res := { d := boolBits (pat ty o.a != 0) }

/-! Class 0. -/

/-- The I form of LEA adds the extended immediate (R86). -/
def leaImmRes (ty : BitVec 4) (imm : Word) (o : Src) : Res :=
  { d := o.a + (if ty == 4 then imm.signExtend 64 else imm.setWidth 64) }

/-- IADD (R83). -/
def execIadd (f : RForm) : State → Out := aluR (Spec.bin tyInts true) f 1 (intRes f.ty f.sat addOp)

/-- IADD_IMM (R83). -/
def execIaddImm (f : IForm) : State → Out := aluI (Spec.iBin tyInts) f (intRes f.mod4 false addOp)

/-- ISUB (R83). -/
def execIsub (f : RForm) : State → Out := aluR (Spec.bin tyInts true) f 1 (intRes f.ty f.sat subOp)

/-- ISUB_IMM (R83). -/
def execIsubImm (f : IForm) : State → Out := aluI (Spec.iBin tyInts) f (intRes f.mod4 false subOp)

/-- IADD3 (R83). -/
def execIadd3 (f : RForm) : State → Out := aluR (Spec.tri tyWide true) f 1 (intRes f.ty f.sat add3Op)

/-- IADDC (R84). -/
def execIaddc (f : RForm) : State → Out := aluR Spec.iaddc f 1 (addcRes (hasBit f.sub 0) (f.c.toNat % 32))

/-- IMUL (R83). -/
def execImul (f : RForm) : State → Out := aluR (Spec.bin tyInts true) f 1 (intRes f.ty f.sat mulOp)

/-- IMUL_IMM (R83). -/
def execImulImm (f : IForm) : State → Out := aluI (Spec.iBin tyInts) f (intRes f.mod4 false mulOp)

/-- IMULH (R83). -/
def execImulh (f : RForm) : State → Out := aluR (Spec.bin tyWide false) f 1 (mulhRes f.ty)

/-- IMULH_IMM (R83). -/
def execImulhImm (f : IForm) : State → Out := aluI (Spec.iBin tyWide) f (mulhRes f.mod4)

/-- IMAD (R83). -/
def execImad (f : RForm) : State → Out := aluR (Spec.tri tyInts true) f 1 (intRes f.ty f.sat madOp)

/-- IMADW (R83). -/
def execImadw (f : RForm) : State → Out := aluR Spec.imadw f 1 (madwRes f.ty f.sat)

/-- IMIN (R83). -/
def execImin (f : RForm) : State → Out := aluR (Spec.bin tyInts false) f 1 (intRes f.ty false minOp)

/-- IMIN_IMM (R83). -/
def execIminImm (f : IForm) : State → Out := aluI (Spec.iBin tyInts) f (intRes f.mod4 false minOp)

/-- IMAX (R83). -/
def execImax (f : RForm) : State → Out := aluR (Spec.bin tyInts false) f 1 (intRes f.ty false maxOp)

/-- IMAX_IMM (R83). -/
def execImaxImm (f : IForm) : State → Out := aluI (Spec.iBin tyInts) f (intRes f.mod4 false maxOp)

/-- IABS (R83). -/
def execIabs (f : RForm) : State → Out := aluR (Spec.un [0, 2, 4, 13] true) f 1 (intRes f.ty f.sat absOp)

/-- INEG (R83). -/
def execIneg (f : RForm) : State → Out := aluR (Spec.un [0, 2, 4, 13] true) f 1 (intRes f.ty f.sat negOp)

/-- ICMP (R85). -/
def execIcmp (f : RForm) : State → Out := aluR Spec.icmp f 1 (cmpRes f.ty f.cc.toNat)

/-- ICMP_IMM (R85). -/
def execIcmpImm (cc : Fin 6) (f : IForm) : State → Out := aluI (Spec.iCmp tyInts) f (cmpRes f.mod4 cc)

/-- ISEL (R85). -/
def execIsel (f : RForm) : State → Out := aluR Spec.isel f 1 selRes

/-- LEA (R86). -/
def execLea (f : RForm) : State → Out := aluR Spec.lea f 1 (leaRes f.ty (bitsNat f.sub 0 4))

/-- LEA_IMM (R86). -/
def execLeaImm (f : IForm) : State → Out := aluI Spec.iLea f (leaImmRes f.mod4 f.imm)

/-- CLAMP (R83). -/
def execClamp (f : RForm) : State → Out := aluR (Spec.tri tyInts false) f 1 (intRes f.ty false clampOp)

/-- AND (R87). -/
def execAnd (f : RForm) : State → Out := aluR (Spec.bin tyWide false) f 1 (bitRes f.ty (· &&& ·))

/-- AND_IMM (R87). -/
def execAndImm (f : IForm) : State → Out := aluI (Spec.iBin tyWide) f (bitRes f.mod4 (· &&& ·))

/-- OR (R87). -/
def execOr (f : RForm) : State → Out := aluR (Spec.bin tyWide false) f 1 (bitRes f.ty (· ||| ·))

/-- OR_IMM (R87). -/
def execOrImm (f : IForm) : State → Out := aluI (Spec.iBin tyWide) f (bitRes f.mod4 (· ||| ·))

/-- XOR (R87). -/
def execXor (f : RForm) : State → Out := aluR (Spec.bin tyWide false) f 1 (bitRes f.ty (· ^^^ ·))

/-- XOR_IMM (R87). -/
def execXorImm (f : IForm) : State → Out := aluI (Spec.iBin tyWide) f (bitRes f.mod4 (· ^^^ ·))

/-- ANDN (R87). -/
def execAndn (f : RForm) : State → Out := aluR (Spec.bin tyWide false) f 1 (bitRes f.ty fun a b => a &&& ~~~b)

/-- ANDN_IMM (R87). -/
def execAndnImm (f : IForm) : State → Out := aluI (Spec.iBin tyWide) f (bitRes f.mod4 fun a b => a &&& ~~~b)

/-- ORN (R87). -/
def execOrn (f : RForm) : State → Out := aluR (Spec.bin tyWide false) f 1 (bitRes f.ty fun a b => a ||| ~~~b)

/-- ORN_IMM (R87). -/
def execOrnImm (f : IForm) : State → Out := aluI (Spec.iBin tyWide) f (bitRes f.mod4 fun a b => a ||| ~~~b)

/-- SHL (R88). -/
def execShl (f : RForm) : State → Out := aluR Spec.shift f 1 (shlRes f.ty)

/-- SHL_IMM (R88). -/
def execShlImm (f : IForm) : State → Out := aluI Spec.iShift f (shlRes f.mod4)

/-- SHR (R88). -/
def execShr (f : RForm) : State → Out := aluR Spec.shift f 1 (shrRes f.ty)

/-- SHR_IMM (R88). -/
def execShrImm (f : IForm) : State → Out := aluI Spec.iShift f (shrRes f.mod4)

/-- SAR (R88). -/
def execSar (f : RForm) : State → Out := aluR Spec.shift f 1 (sarRes f.ty)

/-- SAR_IMM (R88). -/
def execSarImm (f : IForm) : State → Out := aluI Spec.iShift f (sarRes f.mod4)

/-- ROL (R88). -/
def execRol (f : RForm) : State → Out := aluR Spec.shift f 1 (rolRes f.ty)

/-- ROL_IMM (R88). -/
def execRolImm (f : IForm) : State → Out := aluI Spec.iShift f (rolRes f.mod4)

/-- FSH (R89). -/
def execFsh (f : RForm) : State → Out := aluR Spec.fsh f 1 (fshRes (hasBit f.sub 0))

/-- BFX (R90). -/
def execBfx (f : RForm) : State → Out := aluR Spec.bfx f 1 (fun o => bfxRes f.ty o.b o)

/-- BFX_IMM (R90). -/
def execBfxImm (f : IForm) : State → Out := aluI Spec.iBfx f (fun o => bfxRes f.mod4 (f.imm.setWidth 64) o)

/-- BFI (R90). -/
def execBfi (f : RForm) : State → Out := aluR Spec.bfi f 1 (bfiRes f.ty)

/-- POPC (R91). -/
def execPopc (f : RForm) : State → Out := aluR Spec.count f 1 (countRes f.ty popcOf)

/-- CLZ (R91). -/
def execClz (f : RForm) : State → Out := aluR Spec.count f 1 (countRes f.ty clzOf)

/-- CTZ (R91). -/
def execCtz (f : RForm) : State → Out := aluR Spec.count f 1 (countRes f.ty ctzOf)

/-- BREV (R91). -/
def execBrev (f : RForm) : State → Out := aluR (Spec.un tyNat false) f 1 (brevRes f.ty)

/-- PERM (R92). -/
def execPerm (f : RForm) : State → Out := aluR Spec.perm f 1 permRes

/-- MOV (R93). -/
def execMov (f : RForm) : State → Out := aluR (Spec.un tyWide false) f 1 movRes

/-- MOVI (R93). -/
def execMovi (f : IForm) : State → Out := aluI Spec.iMov f movRes

/-- PAND (R94). -/
def execPand (f : RForm) : State → Out := aluR Spec.pbin f 1 (predRes f.sub (· && ·))

/-- POR (R94). -/
def execPor (f : RForm) : State → Out := aluR Spec.pbin f 1 (predRes f.sub (· || ·))

/-- PXOR (R94). -/
def execPxor (f : RForm) : State → Out := aluR Spec.pbin f 1 (predRes f.sub (· != ·))

/-- PNOT (R94). -/
def execPnot (f : RForm) : State → Out := aluR Spec.pnot f 1 notRes

/-- PSET (R94). -/
def execPset (f : RForm) : State → Out := aluR Spec.pset f 1 (setRes f.ty)

/-! Class 1 (R96): the class-0 operation, computed once from uniform registers. -/

/-- SADD (R96). -/
def execSadd (f : RForm) : State → Out := aluR (Spec.sc (Spec.bin tyWide true)) f 1 (intRes f.ty f.sat addOp)

/-- SADD_IMM (R96). -/
def execSaddImm (f : IForm) : State → Out := aluI (Spec.iSc (Spec.iBin tyWide)) f (intRes f.mod4 false addOp)

/-- SSUB (R96). -/
def execSsub (f : RForm) : State → Out := aluR (Spec.sc (Spec.bin tyWide true)) f 1 (intRes f.ty f.sat subOp)

/-- SSUB_IMM (R96). -/
def execSsubImm (f : IForm) : State → Out := aluI (Spec.iSc (Spec.iBin tyWide)) f (intRes f.mod4 false subOp)

/-- SMUL (R96). -/
def execSmul (f : RForm) : State → Out := aluR (Spec.sc (Spec.bin tyWide true)) f 1 (intRes f.ty f.sat mulOp)

/-- SMUL_IMM (R96). -/
def execSmulImm (f : IForm) : State → Out := aluI (Spec.iSc (Spec.iBin tyWide)) f (intRes f.mod4 false mulOp)

/-- SMAD (R96). -/
def execSmad (f : RForm) : State → Out := aluR (Spec.sc (Spec.tri tyWide true)) f 1 (intRes f.ty f.sat madOp)

/-- SAND (R96). -/
def execSand (f : RForm) : State → Out := aluR (Spec.sc (Spec.bin tyWide false)) f 1 (bitRes f.ty (· &&& ·))

/-- SAND_IMM (R96). -/
def execSandImm (f : IForm) : State → Out := aluI (Spec.iSc (Spec.iBin tyWide)) f (bitRes f.mod4 (· &&& ·))

/-- SOR (R96). -/
def execSor (f : RForm) : State → Out := aluR (Spec.sc (Spec.bin tyWide false)) f 1 (bitRes f.ty (· ||| ·))

/-- SOR_IMM (R96). -/
def execSorImm (f : IForm) : State → Out := aluI (Spec.iSc (Spec.iBin tyWide)) f (bitRes f.mod4 (· ||| ·))

/-- SXOR (R96). -/
def execSxor (f : RForm) : State → Out := aluR (Spec.sc (Spec.bin tyWide false)) f 1 (bitRes f.ty (· ^^^ ·))

/-- SXOR_IMM (R96). -/
def execSxorImm (f : IForm) : State → Out := aluI (Spec.iSc (Spec.iBin tyWide)) f (bitRes f.mod4 (· ^^^ ·))

/-- SSHL (R96). -/
def execSshl (f : RForm) : State → Out := aluR (Spec.sc Spec.shift) f 1 (shlRes f.ty)

/-- SSHL_IMM (R96). -/
def execSshlImm (f : IForm) : State → Out := aluI (Spec.iSc Spec.iShift) f (shlRes f.mod4)

/-- SSHR (R96). -/
def execSshr (f : RForm) : State → Out := aluR (Spec.sc Spec.shift) f 1 (shrRes f.ty)

/-- SSHR_IMM (R96). -/
def execSshrImm (f : IForm) : State → Out := aluI (Spec.iSc Spec.iShift) f (shrRes f.mod4)

/-- SSAR (R96). -/
def execSsar (f : RForm) : State → Out := aluR (Spec.sc Spec.shift) f 1 (sarRes f.ty)

/-- SSAR_IMM (R96). -/
def execSsarImm (f : IForm) : State → Out := aluI (Spec.iSc Spec.iShift) f (sarRes f.mod4)

/-- SMIN (R96). -/
def execSmin (f : RForm) : State → Out := aluR (Spec.sc (Spec.bin tyWide false)) f 1 (intRes f.ty false minOp)

/-- SMIN_IMM (R96). -/
def execSminImm (f : IForm) : State → Out := aluI (Spec.iSc (Spec.iBin tyWide)) f (intRes f.mod4 false minOp)

/-- SMAX (R96). -/
def execSmax (f : RForm) : State → Out := aluR (Spec.sc (Spec.bin tyWide false)) f 1 (intRes f.ty false maxOp)

/-- SMAX_IMM (R96). -/
def execSmaxImm (f : IForm) : State → Out := aluI (Spec.iSc (Spec.iBin tyWide)) f (intRes f.mod4 false maxOp)

/-- SCMP (R96). -/
def execScmp (f : RForm) : State → Out := aluR (Spec.sc Spec.icmp) f 1 (cmpRes f.ty f.cc.toNat)

/-- SCMP_IMM (R96). -/
def execScmpImm (cc : Fin 6) (f : IForm) : State → Out := aluI (Spec.iSc (Spec.iCmp tyInts)) f (cmpRes f.mod4 cc)

/-- SSEL (R97). -/
def execSsel (f : RForm) : State → Out := aluR (Spec.sc Spec.isel) f 1 selRes

/-- SMOV (R96). -/
def execSmov (f : RForm) : State → Out := aluR (Spec.sc (Spec.un tyWide false)) f 1 movRes

/-- SMOVI (R96). -/
def execSmovi (f : IForm) : State → Out := aluI (Spec.iSc Spec.iMov) f movRes

/-- SBFX (R96). -/
def execSbfx (f : RForm) : State → Out := aluR (Spec.sc Spec.bfx) f 1 (fun o => bfxRes f.ty o.b o)

/-- SBFX_IMM (R96). -/
def execSbfxImm (f : IForm) : State → Out := aluI (Spec.iSc Spec.iBfx) f (fun o => bfxRes f.mod4 (f.imm.setWidth 64) o)

/-- SPOPC (R96). -/
def execSpopc (f : RForm) : State → Out := aluR (Spec.sc Spec.count) f 1 (countRes f.ty popcOf)

end Sys2Proof.Machine
end

