-- ==== Sys2Proof/Machine/Transcend.lean ====
section
/-! DEFINITION. The bounds of the functions that the spec bounds and does not fix (spec/06_float_convert.md R111): the exact
value in units of `2^-p`, and which results its bound admits.  The value is computed to far more places than any source of
the formats needs to tell a bound met from one missed (log 10). -/

namespace Sys2Proof.Machine

/-- The sum of `x_k / k` over odd `k`, with alternating signs where `alt`. -/
def oddSum (alt : Bool) (next : Nat → Nat) : (fuel k x : Nat) → Int
  | 0, _, _ => 0
  | n + 1, k, x => (x / k : Nat) + (if alt then -1 else 1) * oddSum alt next n (k + 2) (next x)

/-- The alternating sum of `x`, `next k x` and on. -/
def altSum (next : Nat → Nat → Nat) : (fuel k x : Nat) → Int
  | 0, _, _ => 0
  | n + 1, k, x => x - altSum next n (k + 1) (next k x)

/-- π, as 16 arctan 1/5 - 4 arctan 1/239. -/
def piAt (p : Nat) : Nat :=
  (16 * oddSum true (· / 25) p 1 (2 ^ p / 5) - 4 * oddSum true (· / 57121) p 1 (2 ^ p / 239)).toNat

/-- (ln y) / 2 of `y = (1 + z) / (1 - z)`, z = n / d. -/
def halfLnAt (p n d : Nat) : Nat :=
  let z := n * 2 ^ p / d
  (oddSum false (fun x => x * (z * z / 2 ^ p) / 2 ^ p) p 1 z).toNat

def ln2At (p : Nat) : Nat := 2 * halfLnAt p 1 3

/-- exp(-r), sin r and cos r of a small `r ≥ 0`. -/
def expNegAt (p r : Nat) : Int := altSum (fun k x => x * r / 2 ^ p / k) p 1 (2 ^ p)
def sinSmall (p r : Nat) : Int := altSum (fun k x => x * (r * r / 2 ^ p) / 2 ^ p / (2 * k * (2 * k + 1))) p 1 r
def cosSmall (p r : Nat) : Int := altSum (fun k x => x * (r * r / 2 ^ p) / 2 ^ p / ((2 * k - 1) * (2 * k))) p 1 (2 ^ p)

/-- `x · 2^n`. -/
def shiftBy (x n : Int) : Int := if 0 ≤ n then x * 2 ^ n.toNat else x / 2 ^ (-n).toNat

/-- The places after the point for a source `m · 2^e`: more for a source near 0 and for one with a large integer part. -/
def placesOf (m : Nat) (e : Int) : Nat := 400 + 3 * (-(e + Nat.log2 m)).toNat + (e + Nat.log2 m).toNat

/-- 1/√a of `a = m · 2^e`. -/
def rsqrtAt (p m : Nat) (e : Int) : Int := isqrt (2 * p) (shiftBy (2 ^ (2 * p + 400) / m : Nat) (-e - 400)).toNat 0

/-- 2^a of `a = ± m · 2^e`, at least one unit; the ends lie beyond every format. -/
def exp2At (p : Nat) (neg : Bool) (m : Nat) (e : Int) : Int :=
  if 9 ≤ e + Nat.log2 m then (if neg then 1 else 2 ^ (p + 512))
  else
    let x := (if neg then -1 else 1) * shiftBy m (e + p)
    let g := (2 ^ p - (x % 2 ^ p).toNat) * ln2At p / 2 ^ p
    max 1 (shiftBy (expNegAt p g) (x / 2 ^ p + 1))

/-- log2 of `m · 2^e`. -/
def log2At (p m : Nat) (e : Int) : Int :=
  let one := 2 ^ Nat.log2 m
  (e + Nat.log2 m) * 2 ^ p + (halfLnAt p (m - one) (m + one) * 2 ^ p / halfLnAt p 1 3 : Nat)

/-- sin a, or cos a, of `a = ± m · 2^e`: the argument less a multiple of π/2. -/
def sinAt (cos : Bool) (p : Nat) (neg : Bool) (m : Nat) (e : Int) : Int :=
  let x := shiftBy m (e + p)
  let h : Int := (piAt p / 2 : Nat)
  let k := (2 * x + h) / (2 * h)
  let r := x - k * h
  let s := (if r < 0 then -1 else 1) * sinSmall p r.natAbs
  let c := cosSmall p r.natAbs
  let q := (k + if cos then 1 else 0) % 4
  (if neg && !cos then -1 else 1) * (if q = 0 then s else if q = 1 then c else if q = 2 then -s else -c)

/-- tanh a of `a = ± m · 2^e`. -/
def tanhAt (p : Nat) (neg : Bool) (m : Nat) (e : Int) : Int :=
  let mag : Int :=
    if 6 ≤ e + Nat.log2 m then 2 ^ p - 1
    else
      let x := 2 * shiftBy m (e + p)
      let l : Int := ln2At p
      let t := shiftBy (expNegAt p (x % l).toNat) (-(x / l))
      (2 ^ p - t) * 2 ^ p / (2 ^ p + t)
  (if neg then -1 else 1) * mag

/-- ulp(e): the spacing of the format at the value, in units of `2^-p`. -/
def Fmt.ulpAt (f : Fmt) (p : Nat) (v : Int) : Nat := 2 ^ (max ((Nat.log2 v.natAbs : Int) - p) (1 - f.bias) - f.fw + p).toNat

/-- Whether the bits lie within `tol` of the value, or at `tol` where `reach`; an infinity stands for what overflows. -/
def Fmt.within (f : Fmt) (p : Nat) (v : Int) (tol : Nat) (reach : Bool) (bits : Nat) : Bool :=
  match f.decode bits with
  | .num n m e =>
    let d := (shiftBy (if n then -(m : Int) else m) (e + p) - v).natAbs
    decide (d < tol) || (reach && d == tol)
  | .inf n => n == decide (v < 0) && decide ((2 : Int) ^ (p + f.bias + 1) < v.natAbs + tol)
  | .nan _ => false

/-- The result: `k` units in the last place bound it, or `2^-floor` where that is wider and is given.  The free bits where
they keep the bound, and else the nearest value of the format. -/
def Fmt.bounded (f : Fmt) (p : Nat) (v : Int) (k : Nat) (floor : Option Nat) (free : Nat) : Nat :=
  let bits := free % 2 ^ f.width
  let tol := max (k * f.ulpAt p v) (match floor with
    | some q => 2 ^ (p - q)
    | none => 0)
  if f.within p v tol floor.isSome bits then bits else (f.roundNum 0 false false (decide (v < 0)) v.natAbs (-p)).1

end Sys2Proof.Machine
end

