-- ==== Sys2Proof/Machine/Float.lean ====
section
/-! DEFINITION. Floating-point, packed, dot and conversion instructions (spec/06_float_convert.md). -/

namespace Sys2Proof.Machine

def bitsRes (r : Nat × Flags) : Res := { d := BitVec.ofNat 64 r.1, flags := r.2 }

/-- A source in the type's format (R105). -/
def flOf (ty : Nat) (ftz : Bool) (x : DWord) : Fl := (fmtOf ty).read ftz x.toNat

def sigInvalid (xs : List Fl) : Flags := flagIf (xs.any Fl.sigNan) flInvalid

/-- A sum of terms rounded once into a format (R73, R106). -/
def sumRes (f : Fmt) (rm : Nat) (sat ftz : Bool) (ts : List Fl) : Nat × Flags :=
  let s := sumExact rm ts
  let r := f.round rm sat ftz s.1
  (r.1, r.2 ||| flagIf s.2 flInvalid)

/-! R106. -/

def addF (f : Fmt) (rm : Nat) (sat ftz : Bool) (a b : Fl) : Nat × Flags :=
  let r := sumRes f rm sat ftz [a, b]
  (r.1, r.2 ||| sigInvalid [a, b])

def mulF (f : Fmt) (rm : Nat) (sat ftz : Bool) (a b : Fl) : Nat × Flags :=
  let r := f.round rm sat ftz (a.mul b)
  (r.1, r.2 ||| sigInvalid [a, b] ||| flagIf (mulInvalid a b) flInvalid)

def fmaF (f : Fmt) (rm : Nat) (sat ftz : Bool) (a b c : Fl) : Nat × Flags :=
  let r := sumRes f rm sat ftz [a.mul b, c]
  (r.1, r.2 ||| sigInvalid [a, b, c] ||| flagIf (mulInvalid a b) flInvalid)

/-! R107: `x` and `y` are the operands' bits. -/

/-- The bits of a source as it is read (R105). -/
def Fmt.readBits (f : Fmt) (ftz : Bool) (x : Nat) : Nat :=
  let y := x % 2 ^ f.width
  if (f.read ftz y).isZero then y / f.signBit * f.signBit else y

/-- `a` stands before `b`, -0 before +0. -/
def Fl.before (a b : Fl) : Bool := a.lt b || (!b.lt a && a.isNeg && !b.isNeg)

def minMaxF (f : Fmt) (big nanWins ftz : Bool) (x y : Nat) : Nat × Flags :=
  let p := f.readBits ftz x
  let q := f.readBits ftz y
  let a := f.decode p
  let b := f.decode q
  let fl := sigInvalid [a, b]
  if a.isNan && b.isNan then (f.nanBits, fl)
  else if a.isNan || b.isNan then (if nanWins then f.nanBits else if a.isNan then q else p, fl)
  else if big then (if a.before b then q else p, fl)
  else (if b.before a then q else p, fl)

/-! R108. -/

def fcmpRes (ty cc : Nat) (o : Src) : Res :=
  let a := flOf ty o.ftz o.a
  let b := flOf ty o.ftz o.b
  let un := a.isNan || b.isNan
  let lt := a.lt b
  let gt := b.lt a
  let eq := a.eq b
  let holds : Bool :=
    match cc with
    | 0 => eq
    | 1 => !un && !eq
    | 2 => !un && lt
    | 3 => !un && !gt
    | 4 => !un && gt
    | 5 => !un && !lt
    | 6 => un
    | 7 => !un
    | 8 => un || eq
    | 9 => un || !eq
    | 10 => un || lt
    | 11 => un || !gt
    | 12 => un || gt
    | _ => un || !lt
  let ordered := decide (2 ≤ cc) && decide (cc ≤ 5)
  { d := boolBits holds, flags := if ordered then flagIf un flInvalid else sigInvalid [a, b] }

/-! R109. -/

def fclassBit (f : Fmt) : Fl → Nat
  | .nan s => if s then 0 else 1
  | .inf n => if n then 2 else 9
  | .num n m _ =>
    if m = 0 then (if n then 5 else 6)
    else if m < 2 ^ f.fw then (if n then 4 else 7)
    else (if n then 3 else 8)

/-! R110. -/

def frndF (f : Fmt) (rm : Nat) (ftz : Bool) (a : Fl) : Nat × Flags :=
  match a with
  | .num n m e =>
    let r := if m = 0 then 0 else (cutTo rm n m e 0).1
    if 0 ≤ e then f.round rm false ftz a else (f.signed n (f.roundNum 0 false false false r 0).1, 0)
  | a => f.convert rm false ftz a

/-- FFRC: a − floor a, rounded toward −∞ and so below 1; of an integral value it is +0 (R110; log 81). -/
def ffrcF (f : Fmt) (ftz : Bool) (a : Fl) : Nat × Flags :=
  match a with
  | .nan s => (f.nanBits, flagIf s flInvalid)
  | .inf _ => (f.nanBits, flInvalid)
  | .num n m e =>
    if 0 ≤ e then (0, 0)
    else
      let p := 2 ^ (-e).toNat
      let r := m % p
      let x := if r = 0 then 0 else if n then p - r else r
      f.roundNum 3 false ftz false x e

def fldexpF (f : Fmt) (rm : Nat) (sat ftz : Bool) (a : Fl) (n : Int) : Nat × Flags :=
  match a with
  | .num s m e => f.roundNum rm sat ftz s m (e + max (-2000) (min 2000 n))
  | .inf s => (f.signed s f.infBits, 0)
  | .nan s => (f.nanBits, flagIf s flInvalid)

def fgetexpF : Fl → Nat × Flags
  | .num _ m e => if m = 0 then (0x80000000, flInvalid) else ((BitVec.ofInt 32 (e + Nat.log2 m)).toNat, 0)
  | .inf _ => (0x7FFFFFFF, flInvalid)
  | .nan _ => (0x80000000, flInvalid)

/-! R111, R112. -/

/-- A result the spec bounds and does not fix (R111, log 10): with the exact value `v` in units of `2^-p`, the free
function's bits where they keep the bound, with the flags R111 and R66 give them, and flushed under FTZ.  Within `k` units
in the last place, `.f32`'s and `.f16`'s.  An exact value of 0, FLOG2.f16's of 1, is no underflow. -/
def openF (f : Fmt) (ftz : Bool) (p : Nat) (v : Int) (k : Nat) (floor : Option Nat) (free : Nat) : Nat × Flags :=
  let x := f.bounded p v k floor free
  match f.decode x with
  | .num n m _ =>
    if m < 2 ^ f.fw && v != 0 then ((if ftz then f.signed n 0 else x), flInexact ||| flUnderflow) else (x, flInexact)
  | _ => (x, flInexact ||| flOverflow)

/-- One of the six functions, of a source of `.f32` or `.f16`. -/
def openOf (ty : Nat) (g32 : Word → Word) (g16 : BitVec 16 → BitVec 16) (x : DWord) : Nat :=
  if ty = 6 then (g16 (x.setWidth 16)).toNat else (g32 (x.setWidth 32)).toNat

/-- The bound of R111 in units in the last place: `n` of `.f32`, one of `.f16`. -/
def ulpsOf (f : Fmt) (n : Nat) : Nat := if f = f32 then n else 1

def nanInvalid (f : Fmt) : Nat × Flags := (f.nanBits, flInvalid)
def oneBits (f : Fmt) : Nat := f.bias * 2 ^ f.fw

def frcpF (f : Fmt) (rm : Nat) (sat ftz : Bool) : Fl → Nat × Flags
  | .nan s => (f.nanBits, flagIf s flInvalid)
  | .inf n => (f.signed n 0, 0)
  | .num n m e => if m = 0 then (f.signed n f.infBits, flDivZero) else f.round rm sat ftz (recipExact n m e)

def fsqrtF (f : Fmt) (rm : Nat) (ftz : Bool) : Fl → Nat × Flags
  | .nan s => (f.nanBits, flagIf s flInvalid)
  | .inf n => if n then nanInvalid f else (f.infBits, 0)
  | .num n m e => if m = 0 then (f.signed n 0, 0) else if n then nanInvalid f else f.round rm false ftz (sqrtExact m e)

def frsqF (f : Fmt) (ftz : Bool) (v : Nat) : Fl → Nat × Flags
  | .nan s => (f.nanBits, flagIf s flInvalid)
  | .inf n => if n then nanInvalid f else (0, 0)
  | .num n m e =>
    if m = 0 then (f.signed n f.infBits, flDivZero)
    else if n then nanInvalid f
    else openF f ftz (placesOf m e) (rsqrtAt (placesOf m e) m e) 1 none v

/-- The integer a value is, if it is one. -/
def integral (m : Nat) (e : Int) : Option Nat :=
  if 0 ≤ e then some (m * 2 ^ (min e 2000).toNat)
  else if m % 2 ^ (-e).toNat = 0 then some (m / 2 ^ (-e).toNat) else none

/-- Exact for a zero source (R112), and for other integral sources in `.f32` only: R111 gives these exact cases in that column, and to
`.f16` the bound (log 10). -/
def fexp2F (f : Fmt) (ftz : Bool) (v : Nat) : Fl → Nat × Flags
  | .nan s => (f.nanBits, flagIf s flInvalid)
  | .inf n => (if n then 0 else f.infBits, 0)
  | .num n m e =>
    if m = 0 then (oneBits f, 0)
    else match integral m e with
    | some k =>
      let a : Int := if n then -(min k 2000 : Nat) else (min k 2000 : Nat)
      if f = f32 then f.roundNum 0 false ftz false 1 a else openF f ftz 2400 (shiftBy 1 (a + 2400)) 1 none v
    | none => openF f ftz (placesOf m e) (exp2At (placesOf m e) n m e) (ulpsOf f 2) none v

/-- Within [0.5, 2] two units in the last place are below the 2^-22 of R111; powers of two are exact cases of `.f32` (log 10). -/
def flog2F (f : Fmt) (ftz : Bool) (v : Nat) : Fl → Nat × Flags
  | .nan s => (f.nanBits, flagIf s flInvalid)
  | .inf n => if n then nanInvalid f else (f.infBits, 0)
  | .num n m e =>
    if m = 0 then (f.signed true f.infBits, flDivZero)
    else if n then nanInvalid f
    else if f = f32 ∧ m = 2 ^ Nat.log2 m then f.round 0 false ftz (ofInt (e + Nat.log2 m))
    else openF f ftz 400 (log2At 400 m e) (ulpsOf f 2) none v

/-- FSIN, and FCOS with `cos`. -/
def fsinF (cos : Bool) (f : Fmt) (ftz : Bool) (v : Nat) : Fl → Nat × Flags
  | .nan s => (f.nanBits, flagIf s flInvalid)
  | .inf _ => nanInvalid f
  | .num n m e =>
    if m = 0 then (if cos then oneBits f else f.signed n 0, 0)
    else openF f ftz (placesOf m e) (sinAt cos (placesOf m e) n m e) (ulpsOf f 2) (some (if f = f32 then 24 else 11)) v

def ftanhF (f : Fmt) (ftz : Bool) (v : Nat) : Fl → Nat × Flags
  | .nan s => (f.nanBits, flagIf s flInvalid)
  | .inf n => (f.signed n (oneBits f), 0)
  | .num n m e =>
    if m = 0 then (f.signed n 0, 0)
    else openF f ftz (placesOf m e) (tanhAt (placesOf m e) n m e) (ulpsOf f 2) none v

/-! R113: the two halves of a packed operation. -/

def halves (g : Nat → Nat → Nat → Nat × Flags) (o : Src) : Res :=
  let part (x : DWord) (k : Nat) : Nat := bitsNat x (16 * k) 16
  let lo := g (part o.a 0) (part o.b 0) (part o.c 0)
  let hi := g (part o.a 1) (part o.b 1) (part o.c 1)
  bitsRes (lo.1 + 65536 * hi.1, lo.2 ||| hi.2)

/-! R114: the dot products. -/

def dotF (rm : Nat) (sat ftz : Bool) (as bs : List Fl) (c : Fl) : Nat × Flags :=
  let ps := List.zipWith Fl.mul as bs
  let bad := (List.zipWith mulInvalid as bs).any id
  let r := sumRes f32 rm sat ftz (ps ++ [c])
  (r.1, r.2 ||| sigInvalid (c :: (as ++ bs)) ||| flagIf bad flInvalid)

def fdot2Res (f : RForm) (o : Src) : Res :=
  let el (x : DWord) : List Fl := [0, 1].map fun k => flOf f.ty.toNat o.ftz (x.extractLsb' (16 * k) 16 |>.setWidth 64)
  bitsRes (dotF f.rm.toNat f.sat o.ftz (el o.a) (el o.b) (flOf 8 o.ftz o.c))

def fdot4Res (f : RForm) (o : Src) : Res :=
  let tb : Nat := if hasBit f.sub 0 then 19 - f.ty.toNat else f.ty.toNat
  let el (ty : Nat) (x : DWord) : List Fl :=
    [0, 1, 2, 3].map fun k => flOf ty false (x.extractLsb' (8 * k) 8 |>.setWidth 64)
  bitsRes (dotF f.rm.toNat f.sat o.ftz (el f.ty.toNat o.a) (el tb o.b) (flOf 8 o.ftz o.c))

def idot4Res (f : RForm) (o : Src) : Res :=
  let el (uns : Bool) (x : DWord) : List Int :=
    [0, 1, 2, 3].map fun k => intOf 8 (!uns) (x.extractLsb' (8 * k) 8 |>.setWidth 64)
  { d := deliver f.ty f.sat
      ((List.zipWith (· * ·) (el (hasBit f.sub 0) o.a) (el (hasBit f.sub 1) o.b)).sum + rdInt f.ty o.c) }

/-! R115, R116. -/

def isFloat (code : Nat) : Bool := [6, 7, 8, 9, 10].contains code

/-- One conversion of raw bits from type `sty` into `dty`.  `.sat` clamps a widening that changes signedness too, so that i8
-1 into n32 delivers 0: R68's clamp may also be read of narrowings and same-width changes alone (log 88, DEDUCED). -/
def cvtVal (dty sty : BitVec 4) (rm : Nat) (sat ftz : Bool) (x : DWord) : DWord × Flags :=
  if isFloat sty.toNat then
    let f := fmtOf sty.toNat
    let v := f.read ftz x.toNat
    if isFloat dty.toNat then
      if dty == sty then
        (match v with
          | .nan s => (BitVec.ofNat 64 f.nanBits, flagIf s flInvalid)
          | _ => (BitVec.ofNat 64 (f.readBits ftz x.toNat), 0))
      else
        let r := (fmtOf dty.toNat).convert rm sat ftz v
        (BitVec.ofNat 64 r.1, r.2)
    else toInt dty rm v
  else if isFloat dty.toNat then
    let r := (fmtOf dty.toNat).round rm sat ftz (ofInt (rdInt sty x))
    (BitVec.ofNat 64 r.1, r.2)
  else (deliver dty sat (rdInt sty x), 0)

def cvtRes (f : RForm) (o : Src) : Res :=
  let w := tyWidth f.sty
  let x := o.a >>> (w * bitsNat f.sub 4 2)
  let r := cvtVal f.ty f.sty f.rm.toNat f.sat o.ftz x
  { d := r.1, flags := r.2 }

/-- CVTPK (R116): each value is converted once, also into its own type (R64). -/
def cvtpkRes (f : RForm) (o : Src) : Res :=
  let one (x : DWord) : DWord × Flags :=
    let r := (fmtOf f.ty.toNat).convert f.rm.toNat f.sat o.ftz ((fmtOf f.sty.toNat).read o.ftz x.toNat)
    (BitVec.ofNat 64 r.1, r.2)
  let a := one o.a
  let b := one o.b
  let d := if f.ty == 6 || f.ty == 7 then a.1 ||| (b.1 <<< 16)
    else (o.c >>> 16) ||| (a.1 <<< 16) ||| (b.1 <<< 24)
  { d := d, flags := a.2 ||| b.2 }

/-- CVTPK's slots: C is a source in the 8-bit form only (R116). -/
def cvtpkSpec (f : RForm) : RSpec :=
  if f.ty == 6 || f.ty == 7 then { Spec.cvtpk with c := .zero } else Spec.cvtpk

/-! R117, R118. -/

/-- The elements of a block by position; a position that contributes nothing is free (log 14). -/
def blockElem (bx4 : Bool) (src : List (Nat × Nat)) (b : BxBlock) (p : Nat) : Nat :=
  match src.findIdx? (·.1 == p) with
  | some k => b.elems.getD k 0
  | none => (Config.absentElem src p).toNat % (if bx4 then 16 else 256)

def bxpackWord (bx4 pk : Bool) (src : List (Nat × Nat)) (b : BxBlock) (t : Nat) : Nat :=
  let el := blockElem bx4 src b
  if pk then
    (if bx4 then
      (if t < 4 then ((List.range 8).map fun k => el (8 * t + k) * 16 ^ k).sum else b.e0 + 256 * b.e1)
    else
      (if t < 8 then ((List.range 4).map fun k => el (4 * t + k) * 256 ^ k).sum else b.e0 + 256 * b.e1))
  else el t + 65536 * b.e0 + 2 ^ 24 * b.e1

/-- BXPACK (R117; log 14). -/
def execBxpack (f : RForm) (s : State) : Out :=
  let i : Issue := { issueOfR Spec.bxpack f 2 with extra := 4 }
  begin_ s i fun x act =>
    let bx4 := f.ty == 12
    let src := act.map fun t => (t, (x.rd t f.a f.ak false).toNat)
    let b := bxEncode bx4 (src.map fun q => flOf (f.sub.toNat % 16) x.team.ftz (BitVec.ofNat 64 q.2))
    x.deliverAll i .perThread act fun t =>
      let exact := match act.findIdx? (· == t) with
        | some k => b.exact.getD k true
        | none => true
      (regWrites t f.d f.dk false (BitVec.ofNat 64 (bxpackWord bx4 (hasBit f.sub 4) src b t)),
        flagIf b.bad flInvalid ||| flagIf (!exact) flInexact)

/-- BXUNPK (R118). -/
def execBxunpk (f : RForm) (s : State) : Out :=
  let i : Issue := { issueOfR Spec.bxunpk f 1 with extra := 2 }
  begin_ s i fun x act =>
    let bx4 := f.sub == 12
    let e := (x.rd 0 f.b f.bk false).toNat
    x.deliverAll i .perThread act fun t =>
      let sup := if bx4 then t / 8 else t / 4
      let r : Nat × Flags :=
        if act.contains sup then
          let w := (x.rd sup f.a f.ak false).toNat
          let el := if bx4 then w / 16 ^ (t % 8) % 16 else w / 256 ^ (t % 4) % 256
          (fmtOf f.ty.toNat).convert f.rm.toNat false x.team.ftz (bxDecode bx4 (e % 256) (e / 256 % 256) el)
        else nanInvalid (fmtOf f.ty.toNat)
      (regWrites t f.d f.dk false (BitVec.ofNat 64 r.1), r.2)

/-! The meanings. -/

/-- Half of a packed source (R113). -/
def halfOf (ty : Nat) (ftz : Bool) (x : Nat) : Fl := (fmtOf ty).read ftz x

/-- FADD (R106). -/
def execFadd (f : RForm) : State → Out :=
  aluR (Spec.fbin tyFl true) f 1 (fun o => bitsRes (addF (fmtOf f.ty.toNat) f.rm.toNat f.sat o.ftz (flOf f.ty.toNat o.ftz o.a) (flOf f.ty.toNat o.ftz o.b)))

/-- FADD_IMM (R106). -/
def execFaddImm (f : IForm) : State → Out :=
  aluI Spec.iFl f (fun o => bitsRes (addF (fmtOf 8) 0 false o.ftz (flOf 8 o.ftz o.a) (flOf 8 o.ftz o.b)))

/-- FSUB (R106). -/
def execFsub (f : RForm) : State → Out :=
  aluR (Spec.fbin tyFl true) f 1 (fun o => bitsRes (addF (fmtOf f.ty.toNat) f.rm.toNat f.sat o.ftz (flOf f.ty.toNat o.ftz o.a) (flOf f.ty.toNat o.ftz o.b).neg))

/-- FSUB_IMM (R106). -/
def execFsubImm (f : IForm) : State → Out :=
  aluI Spec.iFl f (fun o => bitsRes (addF (fmtOf 8) 0 false o.ftz (flOf 8 o.ftz o.a) (flOf 8 o.ftz o.b).neg))

/-- FMUL (R106). -/
def execFmul (f : RForm) : State → Out :=
  aluR (Spec.fbin tyFl true) f 1 (fun o => bitsRes (mulF (fmtOf f.ty.toNat) f.rm.toNat f.sat o.ftz (flOf f.ty.toNat o.ftz o.a) (flOf f.ty.toNat o.ftz o.b)))

/-- FMUL_IMM (R106). -/
def execFmulImm (f : IForm) : State → Out :=
  aluI Spec.iFl f (fun o => bitsRes (mulF (fmtOf 8) 0 false o.ftz (flOf 8 o.ftz o.a) (flOf 8 o.ftz o.b)))

/-- FFMA (R106). -/
def execFfma (f : RForm) : State → Out :=
  aluR (Spec.ftri tyFl) f 1 (fun o => bitsRes (fmaF (fmtOf f.ty.toNat) f.rm.toNat f.sat o.ftz (flOf f.ty.toNat o.ftz o.a) (flOf f.ty.toNat o.ftz o.b)
    (flOf f.ty.toNat o.ftz o.c)))

/-- FMIN (R107). -/
def execFmin (f : RForm) : State → Out :=
  aluR (Spec.fbin tyFl false) f 1 (fun o => bitsRes (minMaxF (fmtOf f.ty.toNat) false false o.ftz o.a.toNat o.b.toNat))

/-- FMIN_IMM (R107). -/
def execFminImm (f : IForm) : State → Out :=
  aluI Spec.iFl f (fun o => bitsRes (minMaxF (fmtOf 8) false false o.ftz o.a.toNat o.b.toNat))

/-- FMAX (R107). -/
def execFmax (f : RForm) : State → Out :=
  aluR (Spec.fbin tyFl false) f 1 (fun o => bitsRes (minMaxF (fmtOf f.ty.toNat) true false o.ftz o.a.toNat o.b.toNat))

/-- FMAX_IMM (R107). -/
def execFmaxImm (f : IForm) : State → Out :=
  aluI Spec.iFl f (fun o => bitsRes (minMaxF (fmtOf 8) true false o.ftz o.a.toNat o.b.toNat))

/-- FMINN (R107). -/
def execFminn (f : RForm) : State → Out :=
  aluR (Spec.fbin tyFl false) f 1 (fun o => bitsRes (minMaxF (fmtOf f.ty.toNat) false true o.ftz o.a.toNat o.b.toNat))

/-- FMINN_IMM (R107). -/
def execFminnImm (f : IForm) : State → Out :=
  aluI Spec.iFl f (fun o => bitsRes (minMaxF (fmtOf 8) false true o.ftz o.a.toNat o.b.toNat))

/-- FMAXN (R107). -/
def execFmaxn (f : RForm) : State → Out :=
  aluR (Spec.fbin tyFl false) f 1 (fun o => bitsRes (minMaxF (fmtOf f.ty.toNat) true true o.ftz o.a.toNat o.b.toNat))

/-- FMAXN_IMM (R107). -/
def execFmaxnImm (f : IForm) : State → Out :=
  aluI Spec.iFl f (fun o => bitsRes (minMaxF (fmtOf 8) true true o.ftz o.a.toNat o.b.toNat))

/-- FCMP (R108). -/
def execFcmp (f : RForm) : State → Out :=
  aluR Spec.fcmp f 1 (fcmpRes f.ty.toNat f.cc.toNat)

/-- FCMP_IMM (R108). -/
def execFcmpImm (cc : Fin 6) (f : IForm) : State → Out :=
  aluI (Spec.iCmp [8]) f (fcmpRes 8 cc)

/-- FCLASS (R109). -/
def execFclass (f : RForm) : State → Out :=
  aluR (Spec.fun1 tyFl false false) f 1 (fun o => { d := 1 <<< fclassBit (fmtOf f.ty.toNat) (flOf f.ty.toNat o.ftz o.a) })

/-- FRCP (R111). -/
def execFrcp (f : RForm) : State → Out :=
  aluR (Spec.fun1 [8, 6] true true) f 4 (fun o => bitsRes (frcpF (fmtOf f.ty.toNat) f.rm.toNat f.sat o.ftz (flOf f.ty.toNat o.ftz o.a)))

/-- FRSQ (R111). -/
def execFrsq (f : RForm) : State → Out :=
  aluR (Spec.fun1 [8, 6] false false) f 4 (fun o =>
    bitsRes (frsqF (fmtOf f.ty.toNat) o.ftz (openOf f.ty.toNat Config.frsq32 Config.frsq16 o.a) (flOf f.ty.toNat o.ftz o.a)))

/-- FSQRT (R111). -/
def execFsqrt (f : RForm) : State → Out :=
  aluR (Spec.fun1 [8, 6] true false) f 4 (fun o => bitsRes (fsqrtF (fmtOf f.ty.toNat) f.rm.toNat o.ftz (flOf f.ty.toNat o.ftz o.a)))

/-- FEXP2 (R111). -/
def execFexp2 (f : RForm) : State → Out :=
  aluR (Spec.fun1 [8, 6] false false) f 4 (fun o =>
    bitsRes (fexp2F (fmtOf f.ty.toNat) o.ftz (openOf f.ty.toNat Config.fexp2f32 Config.fexp2f16 o.a) (flOf f.ty.toNat o.ftz o.a)))

/-- FLOG2 (R111). -/
def execFlog2 (f : RForm) : State → Out :=
  aluR (Spec.fun1 [8, 6] false false) f 4 (fun o =>
    bitsRes (flog2F (fmtOf f.ty.toNat) o.ftz (openOf f.ty.toNat Config.flog2f32 Config.flog2f16 o.a) (flOf f.ty.toNat o.ftz o.a)))

/-- FSIN (R111). -/
def execFsin (f : RForm) : State → Out :=
  aluR (Spec.fun1 [8, 6] false false) f 4 (fun o =>
    bitsRes (fsinF false (fmtOf f.ty.toNat) o.ftz (openOf f.ty.toNat Config.fsin32 Config.fsin16 o.a) (flOf f.ty.toNat o.ftz o.a)))

/-- FCOS (R111). -/
def execFcos (f : RForm) : State → Out :=
  aluR (Spec.fun1 [8, 6] false false) f 4 (fun o =>
    bitsRes (fsinF true (fmtOf f.ty.toNat) o.ftz (openOf f.ty.toNat Config.fcos32 Config.fcos16 o.a) (flOf f.ty.toNat o.ftz o.a)))

/-- FTANH (R111). -/
def execFtanh (f : RForm) : State → Out :=
  aluR (Spec.fun1 [8, 6] false false) f 4 (fun o =>
    bitsRes (ftanhF (fmtOf f.ty.toNat) o.ftz (openOf f.ty.toNat Config.ftanh32 Config.ftanh16 o.a) (flOf f.ty.toNat o.ftz o.a)))

/-- FRND (R110). -/
def execFrnd (f : RForm) : State → Out :=
  aluR (Spec.fun1 tyFl true false) f 1 (fun o => bitsRes (frndF (fmtOf f.ty.toNat) f.rm.toNat o.ftz (flOf f.ty.toNat o.ftz o.a)))

/-- FFRC (R110). -/
def execFfrc (f : RForm) : State → Out :=
  aluR (Spec.fun1 tyFl false false) f 1 (fun o => bitsRes (ffrcF (fmtOf f.ty.toNat) o.ftz (flOf f.ty.toNat o.ftz o.a)))

/-- FLDEXP (R110). -/
def execFldexp (f : RForm) : State → Out :=
  aluR (Spec.fbin tyFl true) f 1 (fun o => bitsRes (fldexpF (fmtOf f.ty.toNat) f.rm.toNat f.sat o.ftz (flOf f.ty.toNat o.ftz o.a) (lo32 o.b).toInt))

/-- FLDEXP_IMM (R110). -/
def execFldexpImm (f : IForm) : State → Out :=
  aluI Spec.iFl f (fun o => bitsRes (fldexpF (fmtOf 8) 0 false o.ftz (flOf 8 o.ftz o.a) (lo32 o.b).toInt))

/-- FGETEXP (R110). -/
def execFgetexp (f : RForm) : State → Out :=
  aluR (Spec.fun1 tyFl false false) f 1 (fun o => bitsRes (fgetexpF (flOf f.ty.toNat o.ftz o.a)))

/-- HADD2 (R113). -/
def execHadd2 (f : RForm) : State → Out :=
  aluR (Spec.fbin tyHalf true) f 1 (fun o => halves (fun x y _ => addF (fmtOf f.ty.toNat) f.rm.toNat f.sat o.ftz (halfOf f.ty.toNat o.ftz x) (halfOf f.ty.toNat o.ftz y)) o)

/-- HMUL2 (R113). -/
def execHmul2 (f : RForm) : State → Out :=
  aluR (Spec.fbin tyHalf true) f 1 (fun o => halves (fun x y _ => mulF (fmtOf f.ty.toNat) f.rm.toNat f.sat o.ftz (halfOf f.ty.toNat o.ftz x) (halfOf f.ty.toNat o.ftz y)) o)

/-- HFMA2 (R113). -/
def execHfma2 (f : RForm) : State → Out :=
  aluR (Spec.ftri tyHalf) f 1 (fun o => halves (fun x y z => fmaF (fmtOf f.ty.toNat) f.rm.toNat f.sat o.ftz (halfOf f.ty.toNat o.ftz x) (halfOf f.ty.toNat o.ftz y)
    (halfOf f.ty.toNat o.ftz z)) o)

/-- HMIN2 (R113). -/
def execHmin2 (f : RForm) : State → Out :=
  aluR (Spec.fbin tyHalf false) f 1 (fun o => halves (fun x y _ => minMaxF (fmtOf f.ty.toNat) false false o.ftz x y) o)

/-- HMAX2 (R113). -/
def execHmax2 (f : RForm) : State → Out :=
  aluR (Spec.fbin tyHalf false) f 1 (fun o => halves (fun x y _ => minMaxF (fmtOf f.ty.toNat) true false o.ftz x y) o)

/-- FDOT2 (R114). -/
def execFdot2 (f : RForm) : State → Out :=
  aluR (Spec.ftri tyHalf) f 1 (fdot2Res f)

/-- FDOT4 (R114). -/
def execFdot4 (f : RForm) : State → Out :=
  aluR Spec.fdot4 f 1 (fdot4Res f)

/-- IDOT4 (R114). -/
def execIdot4 (f : RForm) : State → Out :=
  aluR Spec.idot4 f 1 (idot4Res f)

/-- CVT (R115). -/
def execCvt (f : RForm) : State → Out :=
  aluR Spec.cvt f 1 (cvtRes f)

/-- CVTPK (R116). -/
def execCvtpk (f : RForm) : State → Out := aluR (cvtpkSpec f) f 1 (cvtpkRes f)

end Sys2Proof.Machine
end

