-- ==== Sys2Proof/Machine/Cross.lean ====
section
/-! DEFINITION. Cross-thread instructions (spec/07_control_crossthread.md R131 to R136) and the reduction trees
(spec/04_number_formats.md R77). -/

namespace Sys2Proof.Machine

/-! SHFL (R133). -/

def shflSource (mode t : Nat) (b : Word) : Option Nat :=
  let i : Int :=
    match mode with
    | 0 => (b.toNat % 32 : Nat)
    | 1 => (t : Int) - b.toNat
    | 2 => (t : Int) + b.toNat
    | _ => (t ^^^ (b.toNat % 32) : Nat)
  if 0 ≤ i ∧ i < 32 then some i.toNat else none

/-- SHFL (R133). -/
def execShfl (f : RForm) (s : State) : Out :=
  let i : Issue := { issueOfR Spec.shfl f 1 with per := 1, extra := 2, uniform := false }
  begin_ s i fun x act =>
    let pair := is64 f.ty
    x.deliverAll i .perThread act fun t =>
      let src := match shflSource (f.sub.toNat % 4) t (lo32 (x.rd t f.b f.bk false)) with
        | some u => if act.contains u then u else t
        | none => t
      (regWrites t f.d f.dk pair (x.rd src f.a f.ak pair), 0)

/-! VOTE (R134). -/

def voteSpec (f : RForm) : RSpec :=
  { Spec.vote with d := if f.sub.extractLsb' 0 2 == (3 : BitVec 2) then .reg .one else .pred }

/-- VOTE (R134). -/
def execVote (f : RForm) (s : State) : Out :=
  let sp := voteSpec f
  let i : Issue := { issueOfR sp f 1 with extra := 2, uniform := false }
  begin_ s i fun x act =>
    let p (t : Nat) : Bool := (x.thread t).pred (f.a.toNat % 32) != hasBit f.sub 2
    let d : DWord :=
      match f.sub.toNat % 4 with
      | 0 => boolBits (act.any p)
      | 1 => boolBits (act.all p)
      | 2 => boolBits (act.all p || !act.any p)
      | _ => (maskOf (act.filter p)).setWidth 64
    x.deliverAll i (if f.dk then .once else .perThread) act fun t => (destWrites sp.d f.d f.dk 0 0 t [t] { d := d }, 0)

/-! The trees of R77: a node's value with the flags of every node it depends on. -/

abbrev Node := Option (DWord × Flags)

/-- A node with one operand passes it on, without rounding and without a flag, whatever it holds (R77; log 78). -/
def joinNodes (g : DWord → DWord → DWord × Flags) : Node → Node → Node
  | some (a, p), some (b, q) =>
    let r := g a b
    some (r.1, p ||| q ||| r.2)
  | some a, none => some a
  | none, b => b

/-- One level of REDW: neighbours are combined. -/
def pairUp (g : DWord → DWord → DWord × Flags) : List Node → List Node
  | a :: b :: r => joinNodes g a b :: pairUp g r
  | r => r

def redTree (g : DWord → DWord → DWord × Flags) (xs : List Node) : Node :=
  ((pairUp g (pairUp g (pairUp g (pairUp g (pairUp g xs))))).headD none)

/-- One level of SCANW, of stride `d`. -/
def scanLevel (g : DWord → DWord → DWord × Flags) (d : Nat) (xs : List Node) : List Node :=
  xs.mapIdx fun t x => if t < d then x else joinNodes g (xs.getD (t - d) none) x

def scanTree (g : DWord → DWord → DWord × Flags) (xs : List Node) : List Node :=
  [1, 2, 4, 8, 16].foldl (fun xs d => scanLevel g d xs) xs

/-- A node's operation (R135). -/
def redOp (f : RForm) (ftz : Bool) (a b : DWord) : DWord × Flags :=
  let op := f.sub.toNat % 8
  if isFloat f.ty.toNat then
    let fm := fmtOf f.ty.toNat
    let r := match op with
      | 0 => addF fm f.rm.toNat false ftz (flOf f.ty.toNat ftz a) (flOf f.ty.toNat ftz b)
      | 1 => minMaxF fm false false ftz a.toNat b.toNat
      | _ => minMaxF fm true false ftz a.toNat b.toNat
    (BitVec.ofNat 64 r.1, r.2)
  else
    let n (h : Int → Int → Int → Int) (sat : Bool) : DWord := deliver f.ty sat (h (rdInt f.ty a) (rdInt f.ty b) 0)
    (match op with
      | 0 => n addOp f.sat
      | 1 => n minOp false
      | 2 => n maxOp false
      | 3 => a &&& b
      | 4 => a ||| b
      | _ => a ^^^ b, 0)

/-- The identity of the op (R135). -/
def redIdentity (f : RForm) : DWord :=
  let fm := fmtOf f.ty.toNat
  let w := tyWidth f.ty
  if isFloat f.ty.toNat then
    BitVec.ofNat 64 (match f.sub.toNat % 8 with
      | 0 => fm.signed true 0
      | 1 => fm.infBits
      | _ => fm.signed true fm.infBits)
  else
    match f.sub.toNat % 8 with
    | 1 => deliver f.ty false (if tySigned f.ty then 2 ^ (w - 1) - 1 else 2 ^ w - 1)
    | 2 => deliver f.ty false (if tySigned f.ty then -(2 ^ (w - 1)) else 0)
    | 3 => deliver f.ty false (-1)
    | _ => 0

/-- The contributors' operands by position (R131, R135); a floating one is read under FTZ (R65).  One that no node combines
is passed on as it is read, a NaN with its bits and no flag (R77; log 78). -/
def leaves (f : RForm) (x : Ctx) (act : List Nat) : List Node :=
  tids.map fun t =>
    if act.contains t then
      let v := x.rd t f.a f.ak (is64 f.ty)
      let u := if tyWidth f.ty = 16 then v &&& 0xFFFF else v
      some (if isFloat f.ty.toNat then BitVec.ofNat 64 ((fmtOf f.ty.toNat).readBits x.team.ftz u.toNat) else u, 0)
    else none

/-- REDW (R135). -/
def execRedw (f : RForm) (s : State) : Out :=
  let i : Issue := { issueOfR Spec.redw f 1 with extra := 5, uniform := false }
  begin_ s i fun x act =>
    let r := (redTree (redOp f x.team.ftz) (leaves f x act)).getD (0, 0)
    x.deliverAll i (if f.dk then .once else .perThread) act fun t => (regWrites t f.d f.dk (is64 f.ty) r.1, r.2)

/-- SCANW (R135). -/
def execScanw (f : RForm) (s : State) : Out :=
  let i : Issue := { issueOfR Spec.scanw f 1 with extra := 5, uniform := false }
  begin_ s i fun x act =>
    let inc := scanTree (redOp f x.team.ftz) (leaves f x act)
    x.deliverAll i .perThread act fun t =>
      let src : Option Nat := if hasBit f.sub 3 then ((act.filter (decide <| · < t)).getLast?) else some t
      let r := match src with
        | none => (redIdentity f, 0)
        | some u => (inc.getD u none).getD (0, 0)
      (regWrites t f.d f.dk (is64 f.ty) r.1, r.2)

/-- MATCHW (R136). -/
def execMatchw (f : RForm) (s : State) : Out :=
  let i : Issue := { issueOfR Spec.matchw f 1 with per := 2, extra := 2, uniform := false }
  begin_ s i fun x act =>
    let v (t : Nat) : DWord := x.rd t f.a f.ak (is64 f.ty)
    x.deliverAll i .perThread act fun t =>
      (regWrites t f.d f.dk false ((maskOf (act.filter fun u => v u == v t)).setWidth 64), 0)

end Sys2Proof.Machine
end

