-- ==== Sys2Proof/Machine/Digest.lean ====
section
/-! DEFINITION. SHA-256, and the check of an HSS signature with L = 2, LMS_SHA256_M32_H15 and LMOTS_SHA256_N32_W4 (spec/25 R426,
R440; FIPS 180-4 and RFC 8554, which the names refer to, log 9). -/

namespace Sys2Proof.Machine

/-- The round constants. -/
def shaK : List Word :=
  [0x428A2F98, 0x71374491, 0xB5C0FBCF, 0xE9B5DBA5, 0x3956C25B, 0x59F111F1, 0x923F82A4, 0xAB1C5ED5] ++
  [0xD807AA98, 0x12835B01, 0x243185BE, 0x550C7DC3, 0x72BE5D74, 0x80DEB1FE, 0x9BDC06A7, 0xC19BF174] ++
  [0xE49B69C1, 0xEFBE4786, 0x0FC19DC6, 0x240CA1CC, 0x2DE92C6F, 0x4A7484AA, 0x5CB0A9DC, 0x76F988DA] ++
  [0x983E5152, 0xA831C66D, 0xB00327C8, 0xBF597FC7, 0xC6E00BF3, 0xD5A79147, 0x06CA6351, 0x14292967] ++
  [0x27B70A85, 0x2E1B2138, 0x4D2C6DFC, 0x53380D13, 0x650A7354, 0x766A0ABB, 0x81C2C92E, 0x92722C85] ++
  [0xA2BFE8A1, 0xA81A664B, 0xC24B8B70, 0xC76C51A3, 0xD192E819, 0xD6990624, 0xF40E3585, 0x106AA070] ++
  [0x19A4C116, 0x1E376C08, 0x2748774C, 0x34B0BCB5, 0x391C0CB3, 0x4ED8AA4A, 0x5B9CCA4F, 0x682E6FF3] ++
  [0x748F82EE, 0x78A5636F, 0x84C87814, 0x8CC70208, 0x90BEFFFA, 0xA4506CEB, 0xBEF9A3F7, 0xC67178F2]

def shaInit : List Word :=
  [0x6A09E667, 0xBB67AE85, 0x3C6EF372, 0xA54FF53A, 0x510E527F, 0x9B05688C, 0x1F83D9AB, 0x5BE0CD19]

/-- One round: the eight working words, the next constant and the next word of the schedule. -/
def shaRound (v : List Word) (q : Word × Word) : List Word :=
  let at_ (k : Nat) : Word := v.getD k 0
  let s1 := (at_ 4).rotateRight 6 ^^^ (at_ 4).rotateRight 11 ^^^ (at_ 4).rotateRight 25
  let ch := (at_ 4 &&& at_ 5) ^^^ (~~~at_ 4 &&& at_ 6)
  let t1 := at_ 7 + s1 + ch + q.1 + q.2
  let s0 := (at_ 0).rotateRight 2 ^^^ (at_ 0).rotateRight 13 ^^^ (at_ 0).rotateRight 22
  let maj := (at_ 0 &&& at_ 1) ^^^ (at_ 0 &&& at_ 2) ^^^ (at_ 1 &&& at_ 2)
  [t1 + s0 + maj, at_ 0, at_ 1, at_ 2, at_ 3 + t1, at_ 4, at_ 5, at_ 6]

/-- The message schedule: from the 16 words of a block, so many more. -/
def shaSchedule : (n : Nat) → List Word → List Word
  | 0, w => w
  | n + 1, w =>
    let x := w.getD (w.length - 15) 0
    let y := w.getD (w.length - 2) 0
    let s0 := x.rotateRight 7 ^^^ x.rotateRight 18 ^^^ (x >>> 3)
    let s1 := y.rotateRight 17 ^^^ y.rotateRight 19 ^^^ (y >>> 10)
    shaSchedule n (w ++ [w.getD (w.length - 16) 0 + s0 + w.getD (w.length - 7) 0 + s1])

def shaBlock (h : List Word) (m : List Word) : List Word :=
  List.zipWith (· + ·) h ((shaK.zip (shaSchedule 48 m)).foldl shaRound h)

/-- A value of four bytes, the most significant first. -/
def wordBE (b : List Byte) : Word := b.foldl (fun w x => (w <<< 8) ||| x.setWidth 32) 0

/-- Blocks of 64 bytes, one after another. -/
def shaBlocks : (n : Nat) → List Word → List Byte → List Word
  | 0, h, _ => h
  | n + 1, h, b => shaBlocks n (shaBlock h ((List.range 16).map fun k => wordBE ((b.drop (4 * k)).take 4))) (b.drop 64)

/-- The message with its padding: a one bit, zeros, and its length in bits. -/
def shaPad (b : List Byte) : List Byte :=
  b ++ [0x80] ++ List.replicate ((119 - b.length % 64) % 64) 0 ++ (bytesLE 8 (8 * b.length)).reverse

def sha256 (b : List Byte) : BitVec 256 :=
  let p := shaPad b
  (shaBlocks (p.length / 64) shaInit p).foldl (fun d w => (d <<< 32) ||| w.setWidth 256) 0

/-! HSS. -/

/-- A number in so many bytes, the most significant first. -/
def bytesBE (n x : Nat) : List Byte := (bytesLE n x).reverse

def shaBytes (b : List Byte) : List Byte := bytesBE 32 (sha256 b).toNat

/-- A four-bit digit of a string, and the 67 digits that are signed: those of the digest, and of its checksum. -/
def otsDigit (b : List Byte) (i : Nat) : Nat := (b.getD (i / 2) 0).toNat / (if i % 2 = 0 then 16 else 1) % 16

def otsDigits (q : List Byte) : List Nat :=
  let ds := (List.range 64).map (otsDigit q)
  ds ++ (List.range 3).map (otsDigit (bytesBE 2 (16 * (ds.map fun d => 15 - d).sum)))

/-- A chain of a one-time signature, from digit `j` on. -/
def otsChain (id : List Byte) (i : Nat) : (n j : Nat) → List Byte → List Byte
  | 0, _, v => v
  | n + 1, j, v => otsChain id i n (j + 1) (shaBytes (id ++ bytesBE 2 i ++ bytesBE 1 j ++ v))

/-- The public key that a one-time signature (its random string and 67 values) of a message leads to; `id` is the tree's identifier with
the leaf's number. -/
def otsKey (id c y msg : List Byte) : List Byte :=
  let ds := otsDigits (shaBytes (id ++ [0x81, 0x81] ++ c ++ msg))
  shaBytes (id ++ [0x80, 0x80] ++ (ds.mapIdx fun i d => otsChain id i (15 - d) d ((y.drop (32 * i)).take 32)).flatten)

/-- The root that a leaf leads to along its path. -/
def lmsRoot (tree : List Byte) : (path : List (List Byte)) → (node : Nat) → List Byte → List Byte
  | [], _, v => v
  | x :: xs, node, v =>
    lmsRoot tree xs (node / 2) (shaBytes (tree ++ bytesBE 4 (node / 2) ++ [0x83, 0x83] ++ if node % 2 = 1 then x ++ v else v ++ x))

/-- An LMS signature (2,668 bytes: the leaf, the one-time signature, the type, the path) of a message under a public key (56 bytes: the
types, the tree's identifier, the root). -/
def lmsVerify (key sig msg : List Byte) : Bool :=
  let part (n k : Nat) : List Byte := (sig.drop n).take k
  let q := (part 0 4).foldl (fun a b => 256 * a + b.toNat) 0
  let tree := (key.drop 8).take 16
  let id := tree ++ part 0 4
  let leaf := shaBytes (tree ++ bytesBE 4 (32768 + q) ++ [0x82, 0x82] ++ otsKey id (part 8 32) (part 40 2144) msg)
  key.take 8 == bytesBE 4 7 ++ bytesBE 4 3 && part 4 4 == bytesBE 4 3 && part 2184 4 == bytesBE 4 7 && decide (q < 32768)
    && lmsRoot tree ((List.range 15).map fun k => part (2188 + 32 * k) 32) (32768 + q) leaf == (key.drop 24).take 32

def hssBytes : Nat := 5396

/-- An HSS signature of two levels under a root key (60 bytes: the number of levels, an LMS key). -/
def hssVerify (root sig msg : List Byte) : Bool :=
  let part (n k : Nat) : List Byte := (sig.drop n).take k
  root.take 4 == bytesBE 4 2 && part 0 4 == bytesBE 4 1 && lmsVerify (root.drop 4) (part 4 2668) (part 2672 56)
    && lmsVerify (part 2672 56) (part 2728 2668) msg

end Sys2Proof.Machine
end

