-- ==== Sys2Proof/Machine/Cipher.lean ====
section
/-! DEFINITION. AES-256-XTS over a line of 64 bytes (spec/25 R438, R439; FIPS 197 and IEEE 1619, which the name refers to,
log 9). -/

namespace Sys2Proof.Machine

/-- A product in the field of AES, modulo x^8 + x^4 + x^3 + x + 1. -/
def fieldMul (a b : Byte) : Byte :=
  (List.range 8).foldr (fun k r => (r <<< 1) ^^^ (if r.msb then 0x1B else 0) ^^^ (if b.getLsbD k then a else 0)) 0

/-- The inverse a^254, 0 of 0. -/
def fieldInv (a : Byte) : Byte :=
  ((List.range 7).foldl (fun (p : Byte × Byte) _ => let q := fieldMul p.2 p.2; (fieldMul p.1 q, q)) (1, a)).1

def subByte (a : Byte) : Byte :=
  let i := fieldInv a
  i ^^^ i.rotateLeft 1 ^^^ i.rotateLeft 2 ^^^ i.rotateLeft 3 ^^^ i.rotateLeft 4 ^^^ 0x63

def unsubByte (a : Byte) : Byte := fieldInv (a.rotateLeft 1 ^^^ a.rotateLeft 3 ^^^ a.rotateLeft 6 ^^^ 0x05)

def xorBytes (a b : List Byte) : List Byte := List.zipWith (· ^^^ ·) a b

/-- Row `r` moves by `r` columns, to the left or back. -/
def shiftRows (back : Bool) (s : List Byte) : List Byte :=
  (List.range 16).map fun i => s.getD (i % 4 + 4 * ((i / 4 + if back then 4 - i % 4 else i % 4) % 4)) 0

/-- Each column times the circulant matrix of these coefficients. -/
def mixColumns (m : List Byte) (s : List Byte) : List Byte :=
  (List.range 16).map fun i =>
    (List.range 4).foldl (fun x k => x ^^^ fieldMul (m.getD k 0) (s.getD (i / 4 * 4 + (i + k) % 4) 0)) 0

/-- The 240 bytes of the round keys: `n` words follow those given. -/
def roundKeys : (n : Nat) → List Byte → Byte → List Byte
  | 0, ks, _ => ks
  | n + 1, ks, rc =>
    let i := ks.length / 4
    let last := ks.drop (ks.length - 4)
    let t := if i % 8 = 0 then xorBytes ((last.drop 1 ++ last.take 1).map subByte) [rc, 0, 0, 0]
      else if i % 8 = 4 then last.map subByte else last
    roundKeys n (ks ++ xorBytes t (ks.drop (ks.length - 32))) (if i % 8 = 0 then fieldMul 2 rc else rc)

def roundKey (ks : List Byte) (r : Nat) : List Byte := (ks.drop (16 * r)).take 16

/-- AES-256 of a block. -/
def aes (key s : List Byte) : List Byte :=
  let ks := roundKeys 52 key 1
  let mid := (List.range 13).foldl (fun s r => xorBytes (mixColumns [2, 3, 1, 1] (shiftRows false (s.map subByte))) (roundKey ks (r + 1)))
    (xorBytes s (roundKey ks 0))
  xorBytes (shiftRows false (mid.map subByte)) (roundKey ks 14)

/-- Its inverse. -/
def unaes (key s : List Byte) : List Byte :=
  let ks := roundKeys 52 key 1
  let mid := (List.range 13).foldl (fun s r =>
      mixColumns [14, 11, 13, 9] (xorBytes ((shiftRows true s).map unsubByte) (roundKey ks (13 - r))))
    (xorBytes s (roundKey ks 14))
  xorBytes ((shiftRows true mid).map unsubByte) (roundKey ks 0)

/-- The tweak of block `j` of a data unit, as a little-endian value. -/
def xtsTweak (key : BitVec 512) (unit : Nat) : (j : Nat) → BitVec 128
  | 0 => BitVec.ofNat 128 (natLE (aes (bytesLE 32 (key.toNat / 2 ^ 256)) (bytesLE 16 unit)))
  | j + 1 => let t := xtsTweak key unit j; (t <<< 1) ^^^ (if t.msb then 0x87 else 0)

/-- The four blocks of a line under the key pair, encrypted, or decrypted with `back`. -/
def xts (back : Bool) (key : BitVec 512) (unit : Nat) (line : List Byte) : List Byte :=
  (List.range 4).flatMap fun j =>
    let t := bytesLE 16 (xtsTweak key unit j).toNat
    let x := xorBytes ((line.drop (16 * j)).take 16) t
    xorBytes ((if back then unaes else aes) (bytesLE 32 key.toNat) x) t

end Sys2Proof.Machine
end

