-- ==== Sys2Proof/Machine/Translate.lean ====
section
/-! DEFINITION. Physical memory as its agents see it, and the translation of virtual lines
(spec/20_translation.md R337 to R349; spec/25 R439; spec/24 R409, R412). -/

namespace Sys2Proof.Machine

/-! Physical addresses (R337). -/

def State.pkgId (s : State) : Nat := bitsNat (s.mreg 0x08) 0 11

/-- The memory key of a domain physical address: package id 0, or this package's own, names this package (R337,
R409). -/
def State.domKey (s : State) (pa : Nat) : Nat :=
  let id := pa / 2 ^ 41
  if id = s.pkgId then pa % 2 ^ 41 else pa

/-- R337, R409: the address names no memory. -/
def State.absentPa (s : State) (pa : Nat) : Bool :=
  let id := pa / 2 ^ 41 % 2048
  pa / 2 ^ 40 % 2 == 1 || decide (8 ≤ pa / 2 ^ 36 % 16) || decide (48000000000 ≤ pa % 2 ^ 36)
    || decide (1536 < id) || (id != 0 && s.pkgId == 0)

/-- The package a key lies in, when it is another one than this. -/
def remotePkg (key : Nat) : Nat := if hostBase ≤ key then 0 else key / 2 ^ 41

/-! Confidential ranges (R438, R439). -/

def confReg (p r : Nat) : Nat := partBlock p + 0x400 + 8 * r

def confHits (v : DWord) (key : Nat) : Bool :=
  hasBit v 63 && decide (key < 2 ^ 41) && decide (bitsNat v 0 21 * 2 ^ 21 ≤ key)
    && decide (key < (bitsNat v 0 21 + bitsNat v 21 21) * 2 ^ 21)

/-- The key a handle names while it is live. -/
def State.keyOf (s : State) (h : BitVec 16) : Option (BitVec 512 × Nat) :=
  match s.keys.find? fun k => k.slot == bitsNat h 0 8 && k.gen == h.extractLsb' 8 8 with
  | none => none
  | some k => k.key

/-- The partition whose range register stands at an offset. -/
def confPart (off : Nat) : Option Nat :=
  if 0x100000 ≤ off ∧ off < 0x200000 ∧ 0x400 ≤ off % 0x10000 ∧ off % 0x10000 < 0x480 then some ((off - 0x100000) / 0x10000)
  else none

/-- The enabled range an address lies in: its partition and its key, `none` once the handle is destroyed.  A register that
is not listed stands at 0, a disabled range. -/
def State.confOf (s : State) (key : Nat) : Option (Nat × Option (BitVec 512 × Nat)) :=
  s.mgmt.findSome? fun q =>
    match confPart q.1 with
    | some p => if confHits q.2 key then some (p, s.keyOf (q.2.extractLsb' 42 16)) else none
    | none => none

/-- The line of an address as it is stored, decrypted under a key: the data unit is the line, and its tweak the line's
package physical address divided by 64 (R439). -/
def State.plainLine (s : State) (k : BitVec 512) (key : Nat) : List Byte :=
  xts true k (key % 2 ^ 41 / 64) (memBytes s.mem (key / 64 * 64) 64)

/-- The byte an agent of partition `part` (none: the host through BAR4, or another package) reads (R439): the owner reads
the plaintext, another agent what is stored. -/
def State.physRead (s : State) (part : Option Nat) (key : Nat) : Byte :=
  match s.confOf key with
  | none => memRead s.mem key
  | some (_, none) => 0
  | some (p, some (k, _)) => if part = some p then (s.plainLine k key).getD (key % 64) 0 else memRead s.mem key

/-- Whether an agent's store to the address is performed (R439). -/
def State.physMayWrite (s : State) (part : Option Nat) (key : Nat) : Bool :=
  match s.confOf key with
  | none => true
  | some (_, none) => false
  | some (p, some _) => part == some p

/-- Memory with one byte stored by an agent that may: in a confidential range its line is stored encrypted. -/
def State.memWith (s : State) (key : Nat) (b : Byte) : List Host.Cell :=
  match s.confOf key with
  | some (_, some (k, _)) =>
    memWrites s.mem (cellsAt (key / 64 * 64) (xts false k (key % 2 ^ 41 / 64) (setAt 0 (key % 64) b (s.plainLine k key))))
  | _ => memWrite s.mem key b

/-- One byte stored by an agent, where it may. -/
def State.physByte (s : State) (part : Option Nat) (key : Nat) (b : Byte) : State :=
  if s.physMayWrite part key then { s with mem := s.memWith key b } else s

/-- Cells written by an agent; those it may not write are dropped, and logged with code 7. -/
def State.physWrite (s : State) (part : Option Nat) (cs : List Host.Cell) : State :=
  let s1 := cs.foldl (fun s c => s.physByte part c.1 c.2) s
  match cs.find? fun c => !s.physMayWrite part c.1 with
  | some c => s1.logErr 7 (part.getD 0) 0 c.1 0
  | none => s1

/-! What a core's own accesses see: memory under the core's L1 and held stores, the latest first (R284). -/

def cellOf (cs : List Host.Cell) (a : Nat) : Option Byte := (cs.reverse.find? (·.1 == a)).map (·.2)

def Held.byteAt (h : Held) (a : Nat) : Option Byte :=
  match h.kind with
  | .store cs | .l1 cs | .rmw cs => cellOf cs a
  | _ => none

def Core.heldByte (k : Core) (a : Nat) : Option Byte := k.held.reverse.findSome? (·.byteAt a)

def State.coreRead (s : State) (k : Core) (part : Nat) (a : Nat) : Byte :=
  match k.heldByte a with
  | some b => b
  | none => s.physRead (some part) a

/-- A held atomic has yet to act on the byte: an access of the core to it waits, so that accesses to one location keep
their order (R162, R182). -/
def Core.atomicHeld (k : Core) (a n : Nat) : Bool :=
  k.held.any fun h => match h.kind with
    | .atomic _ w _ apps => apps.any fun p => decide (p.addr < a + n) && decide (a < p.addr + w)
    | _ => false

/-! Region ownership as an access meets it (R352 to R354), and when an access waits where it is checked (R353, R412, R423). -/

def rgnEn (s : State) : Bool := hasBit (s.mreg 0x20) 0

/-- The region of an address: whether it is host memory, and its number; none for an untracked one (R352). -/
def State.regionOf (s : State) (key : Nat) : Option (Bool × Nat) :=
  if hostBase ≤ key then
    (if key - hostBase < 2 ^ bitsNat (s.mreg 0x20) 1 6 then some (true, (key - hostBase) / 2 ^ 21) else none)
  else if key < 2 ^ 41 then some (false, key / 2 ^ 21) else none

/-- The key of a region's byte in the region table (R352). -/
def State.regionByte (s : State) (r : Bool × Nat) : Nat :=
  s.domKey (bitsNat (s.mreg 0x20) 12 40 * 4096 + (if r.1 then 2 ^ 20 else 0) + r.2)

/-- The byte as the home agent, which is no partition's, reads it (R439). -/
def State.tableByte (s : State) (r : Bool × Nat) : Byte := s.physRead none (s.regionByte r)

/-- OWN: 0 untracked, 1 accelerator, 2 host; 3 is treated as 2 (R352). -/
def State.owner (s : State) (key : Nat) : Nat :=
  if rgnEn s then
    match s.regionOf key with
    | none => 0
    | some r => min 2 ((s.tableByte r).toNat % 4)
  else 0

/-- A transfer of the address's region to the host is in progress, so that new device accesses wait (R354). -/
def State.leaving (s : State) (key : Nat) : Bool :=
  match s.regionOf key with
  | some r => ((s.xfers.find? fun x => x.host == r.1 && x.region == r.2).map (·.toHost)).getD false
  | none => false

/-- The address is in memory of this package whose die is down (R423). -/
def State.downKey (s : State) (key : Nat) : Bool :=
  decide (key < 2 ^ 39) && s.dies.any fun d => d.die == key / 2 ^ 36 && d.st == 0

/-- Another package cannot be reached: it is marked so, or no domain port is up (R410, R412). -/
def State.farKey (s : State) (key : Nat) : Bool :=
  remotePkg key != 0 && (s.unreachable.contains (remotePkg key) || bitsNat (s.mreg 0x50) 32 7 == 0)

/-- A device access to the address waits (R353, R354, R412, R423). -/
def State.deviceWaits (s : State) (key : Nat) : Bool :=
  s.owner key == 2 || s.leaving key || s.farKey key || s.downKey key

/-- Other accesses that waited for the region are performed first, in their order of arrival (R354). -/
def State.behind (s : State) (by_ : Asker) (key : Nat) : Bool :=
  match s.regionOf key with
  | some r => s.xfers.any fun x => x.host == r.1 && x.region == r.2 && x.owed && x.askers.head? != some by_
  | none => false

/-- An agent's access to the address waits. -/
def State.accessWaits (s : State) (by_ : Asker) (key : Nat) : Bool := s.deviceWaits key || s.behind by_ key

/-- A walk's read of a table waits, where it is made for an agent in its turn (R353, R354). -/
def State.tableWaits (s : State) (by_ : Option Asker) (key : Nat) : Bool :=
  s.deviceWaits key || match by_ with
    | some a => s.behind a key
    | none => false

/-- A copy that writes the core: its bytes come from memory. -/
def Copy.inbound (c : Copy) : Bool :=
  match c.ins with
  | .tcopy _ | .gathr _ | .acopy _ => true
  | .bcopy f => !f.mod.getLsbD 4
  | _ => false

/-! Page tables. -/

def pageShift (sz : Nat) : Nat := [12, 16, 21, 30].getD sz 12

def vpnOf (va : BitVec 57) : BitVec 45 := va.extractLsb' 12 45

/-- The VPN of the page of size `sz` that holds the address: bits 56:12 with those below the page size cleared. -/
def pageVpn (sz : Nat) (va : BitVec 57) : BitVec 45 := BitVec.ofNat 45 ((va.toNat >>> pageShift sz) <<< (pageShift sz - 12))

/-- CRC-32C of bytes (R340). -/
def crcBit (c : BitVec 32) : BitVec 32 := if c.getLsbD 0 then (c >>> 1) ^^^ 0x82F63B78 else c >>> 1

def crcByte (c : BitVec 32) (b : Byte) : BitVec 32 :=
  (List.range 8).foldl (fun c _ => crcBit c) (c ^^^ b.setWidth 32)

def crc32c (bs : List Byte) : BitVec 32 := ~~~(bs.foldl crcByte 0xFFFFFFFF)

def tdBase (s : State) (part : Nat) : Nat := bitsNat (s.mreg (partBlock part + 0x20)) 12 40 * 4096

/-- What an agent of a partition reads at a key (R439). -/
def State.ownNat (s : State) (part key n : Nat) : Nat := natLE ((List.range n).map fun k => s.physRead (some part) (key + k))

def State.readPa (s : State) (part pa n : Nat) : Nat :=
  natLE ((List.range n).map fun k => s.physRead (some part) (s.domKey (pa + k)))

/-- The 1,024-bit translation descriptor of a process (R338, R339). -/
def State.txDesc (s : State) (part proc : Nat) : BitVec 1024 :=
  BitVec.ofNat 1024 (s.readPa part (tdBase s part + 128 * proc) 128)

/-- R339. -/
def descBad (d : BitVec 1024) : Bool :=
  let b (k : Nat) : Nat := 128 * (k + 1)
  bitsNat d 2 10 != 0 || bitsNat d 52 76 != 0 || bitsNat d 640 384 != 0 || decide (2 ≤ bitsNat d 0 2)
    || [0, 1, 2, 3].any fun k =>
      bitsNat d (b k + 46) 2 != 0 || bitsNat d (b k + 94) 34 != 0 || decide (24 < bitsNat d (b k + 40) 5)
        || decide (24 < bitsNat d (b k + 88) 5) || (bitsNat d 0 2 == 1 && bitsNat d (b k) 128 != 0)
        || (hasBit d (b k + 93) && !hasBit d (b k + 45))
    || (bitsNat d 0 2 == 0 && bitsNat d 12 40 != 0)

/-- A native entry (R341) as a translation, and whether it is well formed. -/
def nativeTlb (proc sz : Nat) (e : BitVec 128) : Tlb × Bool :=
  let t : Tlb := ⟨proc, e.extractLsb' 0 45, sz, e.extractLsb' 64 40, hasBit e 104, hasBit e 105, hasBit e 106,
    hasBit e 107, hasBit e 108, hasBit e 109, hasBit e 110⟩
  let low := 2 ^ (pageShift sz - 12)
  (t, bitsNat e 48 16 == 0 && bitsNat e 111 17 == 0 && bitsNat e 46 2 == sz && t.pfn.toNat % low == 0
    && t.vpn.toNat % low == 0 && (!t.nc || t.host) && !(t.tso && t.nc))

def nativeMatches (sz : Nat) (va : BitVec 57) (e : BitVec 128) : Bool :=
  hasBit e 45 && e.extractLsb' 0 45 == pageVpn sz va

/-- The entries of one way of one generation that match (R340). -/
def State.probe (s : State) (part proc sz base lb : Nat) (va : BitVec 57) (w : Nat) : List (Tlb × Bool) :=
  let i := (crc32c (BitVec.ofNat 8 w :: bytesLE 8 (va.toNat >>> pageShift sz))).toNat % 2 ^ lb
  let a := base * 4096 + 64 * (w * 2 ^ lb + i)
  ((List.range 4).map fun k => BitVec.ofNat 128 (s.readPa part (a + 16 * k) 16)).filterMap fun e =>
    if nativeMatches sz va e then some (nativeTlb proc sz e) else none

def State.nativeFound (s : State) (part proc : Nat) (d : BitVec 1024) (va : BitVec 57) : List (Tlb × Bool) :=
  [0, 1, 2, 3].flatMap fun sz =>
    let b := 128 * (sz + 1)
    if hasBit d (b + 45) then
      [0, 1, 2].flatMap fun w =>
        s.probe part proc sz (bitsNat d b 40) (bitsNat d (b + 40) 5) va w
          ++ (if hasBit d (b + 93) then s.probe part proc sz (bitsNat d (b + 48) 40) (bitsNat d (b + 88) 5) va w else [])
    else []

/-- How a walk ends: a translation, a miss with its cause (R349), or that a table it reads is not to be had: its region,
package or die is waited for (R353, R412, R423). -/
inductive Walk where
  | found (t : Tlb)
  | miss (cause : Nat)
  | waits (key : Nat)
  deriving DecidableEq, Repr

/-- A radix leaf (R343). -/
def radixLeaf (proc sz : Nat) (va : BitVec 57) (e : DWord) : Walk :=
  let t : Tlb := ⟨proc, pageVpn sz va, sz, e.extractLsb' 12 40, true, hasBit e 1, !hasBit e 63, hasBit e 60,
    hasBit e 58, hasBit e 59, hasBit e 61⟩
  if t.pfn.toNat % 2 ^ (pageShift sz - 12) != 0 || (t.nc && !t.host) || (t.tso && t.nc) then .miss 1 else .found t

/-- The levels of a radix walk, each by the low bit of its index and the page size of a leaf there (R343). -/
def radixLevels : List (Nat × Option Nat) := [(48, none), (39, none), (30, some 3), (21, some 2), (12, some 0)]

def State.radix (s : State) (part proc : Nat) (va : BitVec 57) (by_ : Option Asker) (table : Nat) : List (Nat × Option Nat) → Walk
  | [] => .miss 0
  | (lo, leaf) :: ls =>
    let a := table * 4096 + 8 * bitsNat va lo 9
    let e := BitVec.ofNat 64 (s.readPa part a 8)
    if s.tableWaits by_ (s.domKey a) then .waits (s.domKey a)
    else if !hasBit e 0 then .miss 0
    else
      match leaf with
      | none => if hasBit e 7 then .miss 1 else s.radix part proc va by_ (bitsNat e 12 40) ls
      | some sz =>
        if hasBit e 7 || ls.isEmpty then radixLeaf proc sz va e else s.radix part proc va by_ (bitsNat e 12 40) ls

/-- The buckets that a native walk reads (R340). -/
def State.nativeKeys (s : State) (d : BitVec 1024) (va : BitVec 57) : List Nat :=
  [0, 1, 2, 3].flatMap fun sz =>
    let b := 128 * (sz + 1)
    let keys (base lb : Nat) : List Nat := [0, 1, 2].map fun w =>
      let i := (crc32c (BitVec.ofNat 8 w :: bytesLE 8 (va.toNat >>> pageShift sz))).toNat % 2 ^ lb
      s.domKey (base * 4096 + 64 * (w * 2 ^ lb + i))
    if hasBit d (b + 45) then
      keys (bitsNat d b 40) (bitsNat d (b + 40) 5)
        ++ (if hasBit d (b + 93) then keys (bitsNat d (b + 48) 40) (bitsNat d (b + 88) 5) else [])
    else []

/-- The key of a process's translation descriptor (R338). -/
def State.descKey (s : State) (part proc : Nat) : Nat := s.domKey (tdBase s part + 128 * proc)

/-- The translation that a native walk uses: the smallest page's, and where valid entries for it differ, as they may in the two
generations of a resize, any of them (R341, R342; log 20). -/
def State.chosen (s : State) (good : List Tlb) : Option Tlb :=
  match good with
  | [] => none
  | t :: ts =>
    let same := ((t :: ts).filter (·.sz == t.sz)).eraseDups
    if same.length ≤ 1 then some t else some (same.getD (Config.freeSubset s.ctr % same.length) t)

/-- The native walk, where a bucket that cannot be had is waited for. -/
def State.native (s : State) (part proc : Nat) (d : BitVec 1024) (va : BitVec 57) (by_ : Option Asker) : Walk :=
  match (s.nativeKeys d va).find? (s.tableWaits by_) with
  | some k => .waits k
  | none =>
    let es := s.nativeFound part proc d va
    match s.chosen ((es.filter (·.2)).map (·.1)) with
    | some t => .found t
    | none => .miss (if es.isEmpty then 0 else 1)

/-- A walk of the process's tables (R340 to R343), which waits its turn at each where it is made for an agent that may. -/
def State.walk (s : State) (part proc : Nat) (va : BitVec 57) (by_ : Option Asker := none) : Walk :=
  let d := s.txDesc part proc
  if s.tableWaits by_ (s.descKey part proc) then .waits (s.descKey part proc)
  else if descBad d then .miss 2
  else if bitsNat d 0 2 = 1 then s.radix part proc va by_ (bitsNat d 12 40) radixLevels
  else s.native part proc d va by_

/-- The table that a walk waits for, if it does. -/
def Walk.away : Walk → List Nat
  | .waits k => [k]
  | _ => []

/-! The translation path (R345). -/

def Tlb.hits (t : Tlb) (proc : Nat) (va : BitVec 57) : Bool := t.proc == proc && t.vpn == pageVpn t.sz va

/-- The physical key of an address under a translation, if memory is there. -/
def State.keyUnder (s : State) (t : Tlb) (va : BitVec 57) : Option Nat :=
  let pa := t.pfn.toNat * 4096 + va.toNat % 2 ^ pageShift t.sz
  if t.host then some (hostBase + pa)
  else if s.absentPa pa then none else some (s.domKey pa)

def clusterOf (c : CoreId) : Nat := 24 * c.die + c.cluster

/-- Distinct 64-byte lines. -/
def linesOf (ks : List Nat) : List Nat := (ks.map (· / 64)).eraseDups

/-- L1 lines pinned by atomics of unset heats (R280). -/
def Core.pinned (k : Core) : List Nat :=
  linesOf (k.held.flatMap fun h => match h.kind with | .l1 cs => if h.released then [] else cs.map (·.1) | _ => [])

/-- Fill, dropping the oldest entry where the cache is full: any other may have been dropped before (log 20). -/
def fill {α : Type} (cap : Nat) (x : α) (l : List α) : List α := (if cap ≤ l.length then l.drop 1 else l) ++ [x]

/-- A line comes into a core's L1 of 1,024 lines, in the place of the oldest that is not pinned, and into a cluster's L2 of
65,536 (R2, R280; log 70). -/
def Core.fillL1 (k : Core) (l : Nat) : Core :=
  if k.l1.contains l then k
  else if k.l1.length < 1024 then { k with l1 := k.l1 ++ [l] }
  else
    match k.l1.find? fun v => !k.pinned.contains v with
    | some v => { k with l1 := k.l1.erase v ++ [l] }
    | none => k

def State.fillL2 (s : State) (cl l : Nat) : State :=
  if s.l2c.contains (cl, l) then s
  else { s with l2c := (s.l2c.filter (·.1 != cl)) ++ fill 65536 (cl, l) (s.l2c.filter (·.1 == cl)) }

/-- Lines leave every cache of the package (R354). -/
def State.flushed (s : State) (p : Nat → Bool) : State :=
  { s with
    cores := s.cores.map fun k => { k with
      l1 := k.l1.filter (!p ·), code := k.code.filter fun q => !p q.1, rcache := k.rcache.filter fun e => !e.keys.any fun a => p (a / 64) }
    l2c := s.l2c.filter fun q => !p q.2 }

/-- A coalesced line's translation with the TLBs it leaves, or a miss that needs service (R345, R349).  An entry that a TLB
holds is used; entries leave the TLBs at free times, in `execCacheAge` (R346; log 20). -/
def Ctx.translate (x : Ctx) (va : BitVec 57) (by_ : Asker := .wave x.w x.pc) : Ctx × Walk :=
  let proc := x.team.proc
  let ok (t : Tlb) : Walk := if (x.s.keyUnder t va).isSome then .found t else .miss 0
  match x.core.tlb.find? (·.hits proc va) with
  | some t => (x, ok t)
  | none =>
    let x1 := x.modCore (·.count 6 1)
    let cl := clusterOf x.core.id
    match x.s.l2.find? fun e => e.1 == cl && e.2.hits proc va with
    | some e => ((x1.modCore fun k => { k with tlb := fill 384 e.2 k.tlb }).modState (·.ages x.core.id), ok e.2)
    | none =>
      match x.s.walk x.team.part proc va (some by_) with
      | .miss c => (x1, .miss c)
      | .waits k => (x1, .waits k)
      | .found t =>
        ((x1.modCore fun k => { k with tlb := fill 384 t k.tlb }).modState fun s =>
          ({ s with ctr := s.ctr + 1, l2 := (s.l2.filter (·.1 != cl)) ++ fill 8192 (cl, t) (s.l2.filter (·.1 == cl)) } : State).ages x.core.id, ok t)

/-! Rights (R344): bit 0 read, bit 1 write, bit 2 execute. -/

def Tlb.missing (t : Tlb) (need : BitVec 3) : BitVec 3 :=
  need &&& ~~~(BitVec.ofBool t.ex ++ BitVec.ofBool t.wr ++ BitVec.ofBool t.rd)

/-- What the pages of an access refuse: ACCESS with the rights that any of them lacks, then GRANTED (R32, R159, R344). -/
def refusal (need : BitVec 3) (es : List Tlb) : Option (Nat × Word) :=
  let lack := es.foldl (fun m t => m ||| t.missing need) 0
  if lack != 0 then some (6, lack.setWidth 32) else if es.any (·.gr) then some (7, 0) else none

def Tlb.refuses (t : Tlb) (need : BitVec 3) : Option (Nat × Word) := refusal need [t]

/-! Faults (R349). -/

def FaultKey.ofVa (va : BitVec 57) (fetch : Bool) : FaultKey := ⟨vpnOf va, fetch⟩

/-- A missing access joins its fault entry, or makes one and sends a request, or waits for an entry. -/
def Ctx.miss (x : Ctx) (va : BitVec 57) (fetch : Bool) (need : BitVec 3) (cause : Nat) : Ctx :=
  let key := FaultKey.ofVa va fetch
  let f : Fault349 := ⟨x.team.oid, key, x.team.proc, need, cause, va⟩
  let same (g : Fault349) : Bool := g.team == f.team && g.key == key
  if x.core.faults.any same || x.core.faultQ.any same then x
  else if x.core.faults.length < 1024 then
    (x.modCore fun k => { k with faults := k.faults ++ [f] }).modState fun s =>
      { s with cupola := s.cupola ++ [⟨x.core.id, x.team.oid, x.team.proc, va, fetch, need, cause⟩] }
  else x.modCore fun k => { k with faultQ := k.faultQ ++ [f] }

end Sys2Proof.Machine
end

