-- ==== Sys2Proof/Machine/Region.lean ====
section
/-! DEFINITION. Transfers of regions (spec/20_translation.md R352 to R354), completion records, and the fetch of a word. -/

namespace Sys2Proof.Machine

/-- A completion record (R364). -/
def recordOf (seq : Word) (status detail value : Nat) : BitVec 128 :=
  BitVec.ofNat 128 (seq.toNat + status * 2 ^ 32 + detail * 2 ^ 40 + value * 2 ^ 64)

/-- A record is to be posted in its ring (R405). -/
def State.record (s : State) (ring : RingId) (bits : BitVec 128) : State :=
  ({ s with records := s.records ++ [⟨ring, bits, false⟩] } : State).post 1 (.completionPost ring)

/-- An access that meets OWN 3 is recorded (R352). -/
def State.noteOwn (s : State) (r : Bool × Nat) : State :=
  let b := s.tableByte r
  if rgnEn s && b.toNat % 4 == 3 then s.logErr 1 0 0 0x20 b.toNat else s

/-- The home agent writes a byte of the region table (R439). -/
def State.putTable (s : State) (r : Bool × Nat) (b : Byte) : State := s.physWrite none [(s.regionByte r, b)]

/-- A transfer begins (R354): XFER is set, and its lines are written back or back-invalidated; over plain PCIe a transfer
to the accelerator posts a request to the driver, in the package's ring, and waits for its answer. -/
def State.beginXfer (s : State) (x : Xfer) : State :=
  let r := (x.host, x.region)
  let s1 := (s.noteOwn r).putTable r (s.tableByte r ||| 4)
  if x.toHost || hasBit (s.mreg 0x00) 0 then s1.later (.regionTransferDone x.host x.region)
  else
    ({ s1 with
      xfers := s1.xfers.map fun y => if y == x then { y with seq := some s1.seqNo } else y
      seqNo := s1.seqNo + 1 } : State).record .package (recordOf s1.seqNo 15 0 (x.region * 2 ^ 21))

/-- The non-owner's access starts a transfer, or joins one that device accesses already wait for; transfers of one region are
served in their order of arrival (R353). -/
def State.startXfer (s : State) (r : Bool × Nat) (toHost : Bool) (acc : Option HostAccess) (req : Option MgmtReq)
    (by_ : Option Asker := none) : State :=
  let same (x : Xfer) : Bool := x.host == r.1 && x.region == r.2
  let joins (x : Xfer) : Bool := same x && x.toHost == toHost && acc.isNone && req.isNone && !x.owed
  if s.xfers.any joins then
    { s with xfers := modWhere joins (fun x => { x with
      askers := x.askers ++ by_.toList.filter fun a => !x.askers.contains a }) s.xfers }
  else
    let x : Xfer := { host := r.1, region := r.2, toHost := toHost, acc := acc, req := req, askers := by_.toList }
    let s1 : State := { s with xfers := s.xfers ++ [x] }
    if s.xfers.any same then s1 else s1.beginXfer x

/-- A device access that waits asks for the regions it needs: those of the host, and those that are passing to it (R354). -/
def State.askFor (s : State) (keys : List Nat) (by_ : Asker) : State :=
  keys.foldl (fun s a =>
    if s.owner a = 2 || s.leaving a then
      match s.regionOf a with
      | some r => s.startXfer r false none none (some by_)
      | none => s
    else s) s

/-- A device agent acts once the memory that it reads or writes is the accelerator's, and reachable; its event comes again until
then (R353, R412, R423). -/
def State.ownFirst (s : State) (ks : List Nat) (d : Due) (go : State) : State :=
  if ks.any (s.accessWaits (.event d)) then (s.askFor ks (.event d)).post 1 d else go

/-! Fetch (R33). -/

/-- A word of instruction memory: the word, a trap, a miss, or a wait for its region, package or die (R353, R412, R423). -/
inductive Fetched where
  | word (w : DWord)
  | refused (code : Nat) (aux : Word)
  | miss (cause : Nat)
  | waits (key : Nat)
  deriving DecidableEq, Repr

/-- A word that a core fetches: as it fetched its line before, where it keeps that line, else as memory holds it; stores do not
reach what it keeps (R34; log 20). -/
def Ctx.codeWord (x : Ctx) (a : Nat) : DWord :=
  BitVec.ofNat 64 (natLE (match x.core.code.lookup (a / 64) with
    | some bs => (bs.drop (a % 64)).take 8
    | none => (List.range 8).map fun k => x.s.physRead (some x.team.part) (a + k)))

/-- The core keeps the line that it has fetched from. -/
def Ctx.keepLine (x : Ctx) (a : Nat) : Ctx :=
  if (x.core.code.lookup (a / 64)).isSome then x
  else (x.modCore fun k => { k with code := k.code ++ [(a / 64, (List.range 64).map fun j =>
    x.s.physRead (some x.team.part) (a / 64 * 64 + j))] }).modState (·.ages x.core.id)

def wordVa (w : WAddr) : BitVec 57 := BitVec.ofNat 57 (8 * w.toNat)

def Ctx.fetch (x : Ctx) (w : WAddr) (by_ : Asker := .wave x.w x.pc) : Ctx × Fetched :=
  let va := wordVa w
  match x.translate va by_ with
  | (y, .miss c) => (y, .miss c)
  | (y, .waits k) => (y, .waits k)
  | (y, .found t) =>
    match t.refuses 4 with
    | some (c, aux) => (y, .refused c aux)
    | none =>
      match y.s.keyUnder t va with
      | none => (y, .miss 0)
      | some a =>
        if y.s.accessWaits by_ a then (y, .waits a) else (y.keepLine a, .word (y.codeWord a))

end Sys2Proof.Machine
end

