-- ==== Sys2Proof/Machine/Control.lean ====
section
/-! DEFINITION. Control instructions and clause entry (spec/03 R36, R37; spec/07 R121 to R130; spec/11 R199). -/

namespace Sys2Proof.Machine

/-- Two lists of writes hold the same set. -/
def sameSet (a b : List RegWrite) : Bool := a.all b.contains && b.all a.contains

/-- A taken backward branch at word `w` by the threads `ts` (R199).  Equal sets always match; whether different sets do
is left open (log 15). -/
def Ctx.backward (x : Ctx) (ts : List Nat) : Ctx :=
  if x.team.prog then
    let d := x.wave.det
    let hit := d.ba == some x.pc && !d.stored && (sameSet d.sig d.sg || Config.falseMatch x.s.ctr)
    let cnt := if hit then d.cnt + 1 else 1
    let d1 : Detector := if hit then { d with cnt := cnt } else { d with ba := some x.pc, sg := d.sig, cnt := 1 }
    let d2 : Detector := { d1 with sig := [], stored := false, cnt := if cnt = 2 then 0 else cnt }
    let x1 := (x.modWave fun w => { w with det := d2 }).modState fun s => { s with ctr := s.ctr + 1 }
    if cnt = 2 then
      ts.foldl (fun y t =>
        (y.modThread t fun h => { h with tier := 1, demoted := y.s.cycle }).modState
          fun s => s.post 256 (.spinDemotionExpiry y.w t)) x1
    else x1
  else x

/-- The link writes of CALL: the word after it, in the pair `link` (R122); the other transfers write nothing. -/
def linkWrites (link : Option (BitVec 6)) (x : Ctx) (act : List Nat) : List RegWrite :=
  act.flatMap fun t => match link with
    | none => []
    | some d => regWrites t d false true ((x.pc + 1).setWidth 64)

/-- BRA, BRX, CALL and RET (R122): `link` is CALL's destination pair, whose writes come before the branch is taken, so that
they belong to the signature that a backward branch compares (R199; log 66). -/
def transfer (i : Issue) (link : Option (BitVec 6)) (tgt : Ctx → Nat → WAddr) (s : State) : Out :=
  begin_ s i fun x act =>
    let ws := linkWrites link x act
    if x.room (ws.map (·.logKey x.w.team x.w.wid)) then
      let x1 := x.write ws
      let x2 := (x.run.filter fun t => !act.contains t).foldl Ctx.fallThrough x1
      let x3 := act.foldl (fun y t =>
        y.modThread t fun h => { h with cb := tgt x t, pc := tgt x t + 1, mark := true }) x2
      let x4 := if act.any fun t => decide ((tgt x t).toNat ≤ x.pc.toNat) then x3.backward act else x3
      x4.close 1 0
    else x.holdFor 9

def relTarget (f : BForm) (x : Ctx) : WAddr := x.pc + f.target.signExtend 48

def uniformIssue (g : Guard) : Issue := { g := g, uniform := true }

/-- NOP (R127). -/
def execNop (f : RForm) (s : State) : Out := begin_ s (uniformIssue f.g) fun x _ => x.next.close 1 0

/-- BRA (R122). -/
def execBra (f : BForm) (s : State) : Out := transfer (uniformIssue f.g) none (fun x _ => relTarget f x) s

/-- BRX (R122). -/
def execBrx (f : RForm) (s : State) : Out :=
  let withB := hasBit f.sub 0
  let i : Issue :=
    { g := f.g, uniform := true, control := true, reads := regsOf f.a f.ak true ++ (if withB then regsOf f.b f.bk false else []) }
  transfer i none (fun x t =>
    (x.rd t f.a f.ak true).setWidth 48 + (if withB then (lo32 (x.rd t f.b f.bk false)).signExtend 48 else 0)) s

/-- CALL (R122). -/
def execCall (f : BForm) (s : State) : Out :=
  transfer { g := f.g, uniform := true, writes := regsOf f.d false true, whole := true, control := true } (some f.d) (fun x _ => relTarget f x) s

/-- RET (R122). -/
def execRet (f : RForm) (s : State) : Out :=
  transfer { g := f.g, uniform := true, control := true, reads := regsOf f.a f.ak true } none
    (fun x t => (x.rd t f.a f.ak true).setWidth 48) s

/-- Every thread of the wave that is not in the run, not exited and not parked is held at an RCV whose word address is
higher than that of this one (R125): then none is held here outside the run (log 56). -/
def Ctx.rcvDone (x : Ctx) : Bool :=
  (x.wave.eligibles.filter fun t => !x.run.contains t).all fun t =>
    (x.thread t).tier == 2 && decide (x.pc.toNat < (x.thread t).pc.toNat)

/-- RCV (R125).  A thread that is held stands at TIER 2, in the place of a TIER 1 that a spin demotion gave it, and when the RCV
completes at TIER 0: the demotion does not go on, though fewer than its 256 cycles have passed (R201; log 99, DESIGN CHOICE).  One that passes
an RCV at which it was never held keeps its TIER. -/
def execRcv (_ : RForm) (s : State) : Out :=
  begin_ s (uniformIssue .always) fun x _ =>
    if x.rcvDone then
      (x.run.foldl (fun y t =>
        (y.modThread t fun h => { h with tier := if h.tier = 2 then 0 else h.tier }).fallThrough t) x).close 1 0
    else (x.run.foldl (fun y t => y.modThread t fun h => { h with tier := 2 }) x).close 1 0 true

/-- EXIT (R126). -/
def execExit (f : RForm) (s : State) : Out :=
  begin_ s (uniformIssue f.g) fun x act =>
    let x1 := (x.run.filter fun t => !act.contains t).foldl Ctx.fallThrough x
    (act.foldl (fun y t => y.modThread t fun h => { h with life := .exited }) x1).close 1 0

/-- YIELD (R127, R203). -/
def execYield (f : RForm) (s : State) : Out :=
  begin_ s (uniformIssue f.g) fun x _ =>
    (x.run.foldl (fun y t => y.modThread t fun h => { h with yld := true }) x).next.close 1 0

/-- Every active thread takes a trap at a control instruction, which ends the run's shared PC (R123), once the undo log has
room for the records (R282). -/
def Ctx.trapControl (x : Ctx) (act : List Nat) (tr : Trap) : State :=
  if x.room (x.rcdKeys act) then
    let y := x.trapAll act fun _ => tr
    y.next.close 1 0 y.parted
  else x.holdFor 9

/-- TRAP (R128). -/
def execTrap (f : IForm) (s : State) : Out := begin_ s (uniformIssue f.g) fun x act => x.trapControl act ⟨13, 0, f.imm⟩

/-- BKPT (R128). -/
def execBkpt (f : IForm) (s : State) : Out := begin_ s (uniformIssue f.g) fun x act => x.trapControl act ⟨12, 0, f.imm⟩

/-- One thread's TRET (R129): the header at `%xcb` is fetched and checked; `%xpc` is to name one of the clause's words,
counted from the header modulo 2^48 (R33). -/
def tretThread (x : Ctx) (t : Nat) : Ctx :=
  let h := x.thread t
  let va := wordVa h.xcb
  let key := FaultKey.ofVa va true
  match h.deny with
  | some (_, m) => x.trap t ⟨6, va, m.setWidth 32⟩
  | none =>
    match x.fetch h.xcb with
    | (y, .refused c aux) => y.trap t ⟨c, va, aux⟩
    | (y, .miss c) => (y.miss va true 4 c).park t [key]
    | (y, .waits a) => y.modState (·.askFor [a] (.wave y.w y.pc))
    | (y, .word w) =>
      let hd := Header.ofWord w
      let n := (h.xpc - h.xcb).toNat
      if hd.legal && decide (1 ≤ n) && decide (n ≤ hd.count) then y.modThread t Thread.return_
      else y.trap t ⟨2, va, hi32 w⟩

/-- TRET (R129). -/
def execTret (f : RForm) (s : State) : Out :=
  begin_ s (uniformIssue f.g) fun x act =>
    let x1 := (x.run.filter fun t => !act.contains t).foldl Ctx.fallThrough x
    if x.room (x.rcdKeys act) then
      let y := act.foldl tretThread x1
      (y.log (x.rcdKeys act)).close 1 0 y.parted
    else x.holdFor 9

/-- The thread that records an MSTREAM trap: the active thread with the lowest `%tid` (R246). -/
def startSeq (x : Ctx) (tgt : WAddr) (t : Nat) (q : Seq) : Seq :=
  { q with m := List.replicate 16 0, spc := tgt, run := true, recorder := some (x.w.wid, t), word := none, stall := none }

/-- MSTART (R130; log 52).  Of two that are held at issue while a stream runs, the one whose lane next has the focus once it has ended starts
first: the spec gives no order (log 89). -/
def execMstart (f : BForm) (s : State) : Out :=
  begin_ s (uniformIssue f.g) fun x act =>
    if !x.team.mseq then
      x.trapControl act ⟨1, 0, hi32 (f.toWord 0x0A)⟩
    else if x.team.seq.run || x.wave.acquiring || x.wave.ops.any (fun o => o.spad && !o.done) then x.hold
    else
      let x1 := x.modTeam fun tm => { tm with seq := startSeq x (relTarget f x) (act.headD 0) tm.seq }
      (x1.modState fun s => s.post 1 (.streamFetch x.w.core x.w.team)).next.close 1 0

/-! Clause entry (R36, R37). -/

/-- Every counter but KC at or below its threshold; 63 never waits (R37). -/
def Wave.meetsBut (w : Wave) (h : Header) : Bool :=
  [(OpClass.ld, h.wld), (.st, h.wst), (.cp, h.wcp), (.mx, h.wmx)].all fun q => decide (w.counter q.1 ≤ q.2.toNat)

def Wave.meets (w : Wave) (h : Header) : Bool := w.meetsBut h && decide (w.counter .kc ≤ h.wkc.toNat)

/-- The header that a run enters: the one before the lowest of its threads that has yet to enter (R36). -/
def Ctx.entryCb (x : Ctx) : WAddr :=
  match x.run.filter fun t => (x.thread t).mark with
  | t :: _ => (x.thread t).cb
  | [] => x.cb

/-- The threads of the run that enter there; threads that come to one PC from different headers enter one header after
another (R36; log 67). -/
def Ctx.entering (x : Ctx) : List Nat := x.run.filter fun t => (x.thread t).mark && (x.thread t).cb == x.entryCb

/-- Threads take a trap at the header they enter: the record's PC and CB are the header's address (R31; log 68). -/
def Ctx.entryTrap (x : Ctx) (ts : List Nat) (tr : Nat → Trap) : State :=
  if x.room (x.rcdKeys ts) then
    (ts.foldl (fun y t => y.trapAt t (tr t) x.entryCb x.entryCb) x).close 1 0 (words := 0)
  else x.holdFor 9

/-- The threads among those entering that re-issue this fetch after a DENY (R350). -/
def Ctx.entryDenied (x : Ctx) : List (Nat × BitVec 3) :=
  x.entering.filterMap fun t => match (x.thread t).deny with
    | some (k, m) => if k = FaultKey.ofVa (wordVa x.entryCb) true then some (t, m) else none
    | none => none

/-- CLAUSE_ENTRY (R36, R37): the run that stands at a header is checked, waits on the thresholds, and passes, marked to yield
with its YLD bit (R203); a header that may not be fetched traps with PC and CB at the header (log 68). -/
def execClauseEntry (w : WaveId) (s : State) : Out :=
  match s.ctxAt w with
  | none => .next s
  | some x =>
    let va := wordVa x.entryCb
    match x.entering, x.entryDenied with
    | [], _ => .next s
    | _, d :: ds =>
      .next (x.entryTrap ((d :: ds).map (·.1)) fun t => ⟨6, va, (((d :: ds).lookup t).getD 0).setWidth 32⟩)
    | e :: es, [] =>
      match x.fetch x.entryCb with
      | (y, .refused c aux) => .next (y.entryTrap (e :: es) fun _ => ⟨c, va, aux⟩)
      | (y, .miss c) =>
        .next (((e :: es).foldl (fun y t => y.park t [FaultKey.ofVa va true]) (y.miss va true 4 c)).close 0 0 (words := 0))
      | (y, .waits a) => .next (((y.modWave fun w => { w with run := 0 }).modState (·.askFor [a] (.wave y.w y.pc))).state.tick 1)
      | (y, .word hw) =>
        let h := Header.ofWord hw
        if !h.legal then .next (y.entryTrap (e :: es) fun _ => ⟨2, va, hi32 hw⟩)
        else if !x.wave.meets h then
          -- the lane may turn to another wave while the run waits (R37)
          .next ((y.modWave fun w => { w with run := 0 }).state.tick 1)
        else
          let z := (e :: es).foldl (fun y t => y.modThread t fun q => { q with hdr := hw, mark := false }) y
          let z := if h.yld then x.run.foldl (fun y t => y.modThread t fun q => { q with yld := true }) z else z
          .next (((z.modWave fun w => { w.spend 1 with kcWait := false }).modCore (·.count 0 1)).state.tick 1)

/-- The header that the wave's next clause has to pass, where a legal one is found. -/
def State.nextHeader (s : State) (w : WaveId) : Option (Wave × Header) :=
  match s.ctxAt w with
  | none => none
  | some x =>
    if x.entering.isEmpty || !x.entryDenied.isEmpty then none
    else
      match (x.fetch x.entryCb).2 with
      | .word hw => if (Header.ofWord hw).legal then some (x.wave, Header.ofWord hw) else none
      | _ => none

/-- Nothing is left to ask for where a device access waits: no transfer of its region would serve it, or it stands in the queue of
one already (R353, R354). -/
def State.hasAsked (s : State) (key : Nat) (by_ : Asker) : Bool :=
  !(s.owner key == 2 || s.leaving key) || match s.regionOf key with
    | some r => s.xfers.any fun x => x.host == r.1 && x.region == r.2 && !x.toHost && x.askers.contains by_
    | none => true

/-- The wave waits at a header whose fetch waits for its region, package or die (R353, R412, R423). -/
def State.headerAway (s : State) (w : WaveId) : Bool :=
  match s.ctxAt w with
  | none => false
  | some x =>
    !x.entering.isEmpty && x.entryDenied.isEmpty &&
      match (x.fetch x.entryCb).2 with
      | .waits a => s.hasAsked a (.wave x.w x.pc)
      | _ => false

/-- The wave's next clause cannot issue: its header's thresholds are not met, or the header cannot be had (R26, R37, R198). -/
def State.waitsAtHeader (s : State) (w : WaveId) : Bool :=
  s.headerAway w ||
  match s.nextHeader w with
  | some (v, h) => !v.meets h
  | none => false

/-- The wave waits at a header for KC alone (R374). -/
def State.headerKc (s : State) (w : WaveId) : Bool :=
  match s.nextHeader w with
  | some (v, h) => !v.meets h && v.meetsBut h
  | none => false

/-- A spin demotion of 256 cycles or more ends (R201). -/
def Thread.freed (cycle : Nat) (h : Thread) : Thread :=
  if h.tier = 1 ∧ h.demoted + 256 ≤ cycle then { h with tier := 0 } else h

/-- SPIN_DEMOTION_EXPIRY (R201): the thread's demotion ends, and with it that of the threads that joined its run (log 86). -/
def execSpinDemotionExpiry (w : WaveId) (_ : Nat) (s : State) : Out :=
  .next <| s.modTeam w.core w.team fun tm => tm.modWave w.wid fun v =>
    tids.foldl (fun v t => v.modThread t (Thread.freed s.cycle)) v

/-- FAIRNESS_TIMEOUT (R202): at a clause boundary with T at or above F, the selected run is rotated. -/
def execFairnessTimeout (w : WaveId) (s : State) : Out :=
  .next <| s.modTeam w.core w.team fun tm => tm.modWave w.wid fun v =>
    if tm.prog && decide (tm.fair ≤ v.timer) && v.run == 0 then (v.rotate (v.eligibles.filter fun t => hasBit v.prev t)).level
    else v

end Sys2Proof.Machine
end

