-- ==== Sys2Proof/Machine/Memory.lean ====
section
/-! DEFINITION. Buffer records, loads, stores, atomics and the scratchpad (spec/09_memory_access.md R155 to R171;
spec/10 R175, R182, R189, R193; spec/17 R280, R283). -/

namespace Sys2Proof.Machine

/-! Buffer records (R155 to R158). -/

def bufBase (b : BufRec) : Nat := bitsNat b 0 57
def bufZ (b : BufRec) : Bool := hasBit b 57
def bufExtent (b : BufRec) : Nat := bitsNat b 64 40
def bufEsz (b : BufRec) : Nat := bitsNat b 104 3
def bufSwz (b : BufRec) : Nat := bitsNat b 107 3
def bufStride (b : BufRec) : Nat := bitsNat b 110 16

/-- R156. -/
def bufBad (b : BufRec) : Bool :=
  bitsNat b 58 6 != 0 || bitsNat b 126 2 != 0 || decide (5 ≤ bufEsz b) || decide (3 ≤ bufSwz b)
    || (bufSwz b == 0 && bufStride b != 0) || (bufSwz b != 0 && bufStride b == 0)
    || (bufSwz b == 2 && bufStride b % 2 == 1)

/-- The virtual byte address of an offset (R157). -/
def bufVa (b : BufRec) (o : Int) : BitVec 57 :=
  if bufSwz b = 0 then BitVec.ofInt 57 (bufBase b + o)
  else
    let s : Int := 128 * bufStride b
    let r := o / s
    let c := (o % s).toNat ^^^ ((r % 8).toNat * (8 * 2 ^ bufSwz b))
    BitVec.ofInt 57 (bufBase b + s * r + c)

/-- What the checks of R158 leave of one thread's access: a trap, nothing at all, or the address of each byte that is
in range. -/
inductive Checked where
  | trap (x : Trap)
  | drop
  | go (bytes : List (Option (BitVec 57)))
  deriving DecidableEq, Repr

/-- R158; `whole` is the rule of atomics and maintenance, dropped whole when out of range in any byte.  Where a chunk of a
swizzled record whose BASE is no multiple of 16 straddles the swizzle's unit, each byte goes where R157 maps its own offset
(log 83, DEDUCED: R162 also reads as contiguous bytes from the chunk's first). -/
def checkAcc (b : BufRec) (buf : Nat) (o : Int) (w : Nat) (whole : Bool) : Checked :=
  let va := BitVec.ofInt 57 (bufBase b + o)
  let c : Nat := min (2 ^ bufEsz b) w
  let inRange (k : Nat) : Bool :=
    decide (0 ≤ o + (k / c * c : Nat)) && decide (o + (k / c * c + c : Nat) ≤ bufExtent b)
  let all := (List.range w).all inRange
  if (bufBase b + o) % w ≠ 0 then .trap ⟨5, va, BitVec.ofNat 32 w⟩
  else if bufBad b || (!all && !bufZ b) then .trap ⟨4, va, BitVec.ofNat 32 buf⟩
  else if whole && !all then .drop
  else if !(List.range w).any inRange then .drop
  else .go ((List.range w).map fun k => if inRange k then some (bufVa b (o + k)) else none)

/-! Operations of a wave. -/

namespace Ctx

/-- The number of the heat that issues (R275). -/
def heatNum (x : Ctx) : BitVec 32 := match x.core.cur with | some h => h.num | none => 0

/-- Issue an operation: its counter goes up by one (R169, R173); a complete one retires in its turn. -/
def raise (x : Ctx) (o : Op) : Ctx :=
  (x.modState fun s => { s with nextId := s.nextId + 1 }).modWave fun w =>
    ({ w with ops := w.ops ++ [{ o with id := x.s.nextId, heat := x.heatNum }] } : Wave).retireAll

/-- An instruction of class `k` whose threads have all trapped, been parked or touched nothing is complete as it issues, and
retires in its turn (R169, R173; log 53). -/
def counted (x : Ctx) (k : OpClass) : Ctx := x.raise { id := 0, cls := k, done := true }

/-- R169: a counter at 62 holds the instruction. -/
def full (x : Ctx) (k : OpClass) : Bool := decide (62 ≤ x.wave.counter k)

def opRef (x : Ctx) (id : Nat) : OpRef := ⟨x.w.team, x.w.wid, id⟩

/-- Entries of the hold-back buffer in use (R283). -/
def heldUse (x : Ctx) : Nat := (x.core.held.map (·.entries)).sum

def holdRoom (x : Ctx) (n : Nat) : Bool := decide (x.heldUse + n ≤ 1024)

/-- An effect enters the hold-back buffer, behind every earlier one (R283). -/
def held (x : Ctx) (ref : OpRef) (kind : HeldKind) (entries : Nat) : Ctx :=
  x.modCore fun k => { k with held := k.held ++ [⟨x.heatNum, ref, kind, entries, false⟩] }

/-- Scratchpad accesses of the wave that no bank has served wholly. -/
def spadOpen (x : Ctx) : Bool := x.wave.ops.any fun o => o.spad && !o.done

/-- Requests of class 6 whose results have not arrived: they count as reads (R176). -/
def kcOpen (x : Ctx) : Bool := x.wave.ops.any fun o => o.cls == .kc && !o.done

/-- Reads of the wave that have no value yet: loads, atomics, and results of class-6 requests (R176); a REDB, which returns
no value, is none (log 91, DEDUCED). -/
def readsOpen (x : Ctx) : Bool := x.wave.ops.any fun o => (o.cls == .ld || o.cls == .kc) && !o.done

/-- The operations of the wave whose effects stand in the hold-back buffer, the L1 writes of its atomics among them. -/
def heldIds (x : Ctx) : List Nat :=
  x.core.held.filterMap fun h =>
    if h.ref.team = x.w.team ∧ h.ref.wid = x.w.wid ∧ h.ref.op ≠ 0 then some h.ref.op else none

/-- The events that are not performed at scope `sc` (R175, R176). -/
def unperformed (x : Ctx) (sc : Nat) : List Nat :=
  (x.wave.unperformed sc).map (·.id) ++ (if sc ≤ 2 then [] else x.heldIds)

/-- An operation that a `.rel` fence has named is not yet done with. -/
def standing (x : Ctx) (id : Nat) : Bool := x.wave.ops.any (·.id == id) || x.heldIds.contains id

/-- A later write waits behind a `.rel` fence (R176): one that is not held for every event the fence orders; a held one for
the scratchpad accesses and the results of class-6 requests among them, since the buffer keeps the order of the rest
(log 71). -/
def relWaits (x : Ctx) (held : Bool) : Bool :=
  (x.wave.ops.any fun o => !o.done && x.wave.rel.contains o.id && (!held || o.spad || o.cls == .kc))
    || (!held && x.wave.rel.any x.heldIds.contains)

/-- Lines that the core does not hold come into its L1 and into its cluster's L2 (R2). -/
def brought (x : Ctx) (lines : List Nat) : Ctx :=
  if lines.isEmpty then x
  else
    (x.modCore fun k => lines.foldl Core.fillL1 k).modState fun s =>
      (lines.foldl (fun s l => s.fillL2 (clusterOf x.core.id) l) s).ages x.core.id

/-- An access through the L1 finds its lines there, or counts a miss for each that it brings in (R288; log 70). -/
def touched (x : Ctx) (lines : List Nat) : Ctx :=
  let new := lines.filter fun l => !x.core.l1.contains l
  (x.modCore (·.count 5 new.length)).brought new

end Ctx

/-! One instruction's accesses through a record (R159, R163, R171). -/

/-- The fate of a thread: a trap, a park on the lines that miss, nothing touched, the physical key of each byte, or that a page
table it needs is waited for (R353, R412, R423). -/
inductive Fate where
  | trap (x : Trap)
  | wait (key : Nat)
  | park (ms : List (BitVec 57 × Nat))
  | drop
  | go (tso nc : Bool) (bytes : List (Option Nat))
  deriving DecidableEq, Repr

def lineOf (va : BitVec 57) : BitVec 57 := va &&& ~~~63

/-- The lines of an access: one (R158), or two where a swizzle parts the bytes of a record whose BASE is no multiple of
its unit (R157). -/
def accLines (bs : List (Option (BitVec 57))) : List (BitVec 57) := ((bs.filterMap id).map lineOf).eraseDups

/-- Translate each distinct line once (R159). -/
def Ctx.lines (x : Ctx) : List (BitVec 57) → Ctx × List (BitVec 57 × Walk)
  | [] => (x, [])
  | l :: ls =>
    let r := x.translate l
    let q := r.1.lines ls
    (q.1, (l, r.2) :: q.2)

/-- The fate of a checked access under the translations of its lines (R159, R171): a refused right, else a park on every line
that misses, else the key of each byte. -/
def fateOf (s : State) (need : BitVec 3) (va : BitVec 57) (tr : List (BitVec 57 × Walk)) : Checked → Fate
  | .trap t => .trap t
  | .drop => .drop
  | .go bs =>
    let ws := (accLines bs).map fun l => (l, (tr.lookup l).getD (.miss 0))
    let es := ws.filterMap fun q => match q.2 with | .found e => some (q.1, e) | _ => none
    match ws.flatMap (·.2.away), refusal need (es.map (·.2)) with
    | k :: _, _ => .wait k
    | [], some (c, aux) => .trap ⟨c, va, aux⟩
    | [], none =>
      match ws.filterMap fun q => match q.2 with | .miss c => some (q.1, c) | _ => none with
      | [] => .go (es.any (·.2.tso)) (es.any fun q => q.2.host && (q.2.nc || !hasBit (s.mreg 0x00) 0))
          (bs.map fun b => b.bind fun v => (es.lookup (lineOf v)).bind fun e => s.keyUnder e v)
      | ms => .park ms

/-- The page tables that the accesses wait for. -/
def Fate.away : Fate → List Nat
  | .wait k => [k]
  | _ => []

/-- The instruction waits for regions or packages (R353, R412). -/
def Ctx.askWait (x : Ctx) (keys : List Nat) : State := (x.modState (·.askFor keys (.wave x.w x.pc))).hold

/-- What an instruction's surviving threads did, or that it waits. -/
inductive Go where
  | wait (s : State)
  | done (x : Ctx)

/-- The mark of a DENY that a thread's access meets; a uniform form's fate is the wave's, so that it meets any active
thread's (R163, R350). -/
def Ctx.denyOf (x : Ctx) (i : Issue) (act : List Nat) (t : Nat) : Option (FaultKey × BitVec 3) :=
  (if i.uniform then act else [t]).findSome? fun u => (x.thread u).deny

/-- The fate of each thread's access (R158, R159, R163): a thread that re-issues after a DENY takes ACCESS (R350); each
other one is checked and its lines translated.  `addr` is the address that ACCESS and GRANTED name: through a
swizzled record, that of the offset as the record places it (R31; log 83).  A uniform form makes
one access for all its threads. -/
def Ctx.fates (x : Ctx) (i : Issue) (act : List Nat) (need : BitVec 3) (addr : Int → BitVec 57) (off : Nat → Int)
    (check : Int → Checked) : Ctx × List (Nat × Fate) :=
  let who := if i.uniform then act.take 1 else act
  let chk (t : Nat) : Checked :=
    match x.denyOf i act t with
    | some (_, m) => .trap ⟨6, addr (off t), m.setWidth 32⟩
    | none => check (off t)
  let cs := who.map fun t => (t, chk t)
  let ls := (cs.flatMap fun c => match c.2 with | .go bs => accLines bs | _ => []).eraseDups
  let r := x.lines ls
  (r.1, cs.map fun c => (c.1, fateOf x.s need (addr (off c.1)) r.2 c.2))

/-- The threads whose fate a thread's access decides: a uniform form's is every active thread's (R163). -/
def Issue.fated (i : Issue) (act : List Nat) (t : Nat) : List Nat := if i.uniform then act else [t]

def Issue.trapped (i : Issue) (act : List Nat) (fs : List (Nat × Fate)) : List Nat :=
  fs.flatMap fun q => match q.2 with | .trap _ => i.fated act q.1 | _ => []

/-- The traps and parks of the accesses that did not survive. -/
def Ctx.settleFates (y : Ctx) (i : Issue) (act : List Nat) (need : BitVec 3) (fs : List (Nat × Fate)) : Ctx :=
  fs.foldl (fun y q =>
    match q.2 with
    | .trap tr => y.trapAll (i.fated act q.1) fun _ => tr
    | .park ms => (i.fated act q.1).foldl (fun y t => y.park t ((ms.map fun m => FaultKey.ofVa m.1 false).eraseDups))
        (ms.foldl (fun y m => y.miss m.1 false need m.2) y)
    | _ => y) y

/-- The parts common to LDB, STB, ATB, REDB, LDC, CINV and CWB: the accesses meet their fates, the survivors go on with
`go`, and then the traps are taken and the missing threads parked (R171); the log has room for the traps' records, or the
instruction waits (R282). -/
def Ctx.globally (x : Ctx) (i : Issue) (act : List Nat) (need : BitVec 3) (addr : Int → BitVec 57) (off : Nat → Int)
    (check : Int → Checked) (go : Ctx → List (Nat × Fate) → Go) : State :=
  let r := x.fates i act need addr off check
  match r.2.flatMap (·.2.away), go r.1 r.2 with
  | k :: ks, _ => x.askWait (k :: ks)
  | [], .wait s => s
  | [], .done y =>
    if y.room (y.rcdKeys (i.trapped act r.2)) then (y.settleFates i act need r.2).next.close (i.cost act) (i.tops act)
    else x.holdFor 9

/-- The keys that the surviving accesses touch. -/
def fateKeys (fs : List (Nat × Fate)) : List Nat :=
  fs.flatMap fun q => match q.2 with | .go _ _ bs => bs.filterMap id | _ => []

def Fate.tso : Fate → Bool
  | .go t _ _ => t
  | _ => false

/-- The access is performed at the host, past every cache (R166, R403). -/
def Fate.nc : Fate → Bool
  | .go _ n _ => n
  | _ => false

/-- The access issues here: it neither traps nor parks (R171, R176, R200; log 96, DEDUCED). -/
def Fate.issues : Fate → Bool
  | .drop | .go _ _ _ => true
  | _ => false

def fateTso (fs : List (Nat × Fate)) : Bool := fs.any (·.2.tso)

/-! The data register (R161). -/

def dataRegs (f : MForm) (bytes : Nat) : List Reg :=
  (List.range ((bytes + 3) / 4)).map fun j => if f.dk then .s (f.d.toNat + j) else .v (f.d.toNat + j)

/-- `words` registers from D on, as one number. -/
def Ctx.dataFrom (x : Ctx) (f : MForm) (t from_ words : Nat) : Nat :=
  ((List.range words).map fun j =>
    (if f.dk then x.wave.sreg (f.d.toNat + from_ + j) else (x.thread t).reg (f.d.toNat + from_ + j)).toNat * 2 ^ (32 * j)).sum

def regWriteOf (r : Reg) (t : Nat) (w : Word) : RegWrite :=
  match r with
  | .v n => .v t n w
  | .s n => .s n w
  | .b n => .b n (w.setWidth 128)
  | .p n => .p t n (w != 0)

/-- A loaded value into its registers, extended when it is narrow (R161). -/
def loadWrites (rs : List Reg) (t bytes : Nat) (sx : Bool) (v : Nat) : List RegWrite :=
  let v1 := if bytes < 4 && sx && decide (2 ^ (8 * bytes - 1) ≤ v) then v + 2 ^ 32 - 2 ^ (8 * bytes) else v
  rs.mapIdx fun j r => regWriteOf r t (BitVec.ofNat 32 (v1 >>> (32 * j)))

def mUniform (f : MForm) : Bool := f.ak && f.dk

def accWidth (f : MForm) : Nat := 2 ^ f.width.toNat

/-- The offset of thread `t` (R157). -/
def Ctx.offset (x : Ctx) (f : MForm) (t : Nat) : Int :=
  ((lo32 (x.rd t f.a f.ak false)).toNat : Int) + f.off.toInt

/-- The registers of a class-2 word's operands (R160). -/
def issueOfM (f : MForm) (uniform : Bool) (reads writes : List Reg) (rec_ : Bool) : Issue :=
  { g := f.g, uniform := uniform
    reads := regsOf f.a f.ak false ++ reads ++ (if rec_ then [.b f.buf.toNat] else []), writes := writes }

/-- A class-2 instruction that reaches memory waits while an earlier acquiring access has no value (R170, R182), and
while its counter stands at 62 (R169). -/
def Ctx.memHeld (x : Ctx) (k : OpClass) : Bool := x.wave.acquiring || x.full k

/-! LDB (R162). -/

/-- What a `.rem` acquire waits for: another core's atomics on the line that stand in its L1, which it promotes, and its
released stores, which have reached the L1 (R189, R190). -/
def State.remWaits (s : State) (c : CoreId) (keys : List Nat) : Bool :=
  let ls := linesOf keys
  s.cores.any fun k => k.id != c && k.held.any fun h =>
    match h.kind with
    | .store cs => h.released && cs.any fun q => ls.contains (q.1 / 64)
    | .l1 cs => cs.any fun q => ls.contains (q.1 / 64)
    | _ => false

/-- The value a thread's load finds, out-of-range bytes reading as zeros (R158). -/
def Ctx.loadNat (x : Ctx) : Fate → Nat
  | .go _ _ bs => natLE (bs.map fun b => match b with | some k => x.s.coreRead x.core x.team.part k | none => 0)
  | _ => 0

def fateLoads : Fate → Bool
  | .go _ _ _ | .drop => true
  | _ => false

/-- A read that must wait: behind a held atomic of its core, for a region or package, or for a promoted release. -/
def Ctx.readWaits (x : Ctx) (keys : List Nat) (rem : Bool) : Option State :=
  if keys.any fun k => x.core.atomicHeld k 1 then some x.hold
  else if keys.any (x.s.accessWaits (.wave x.w x.pc)) then some (x.askWait keys)
  else if rem && x.s.remWaits x.core.id keys then some x.hold
  else none

/-- A load's operation, its value read now and delivered later (log 4). -/
def Ctx.loaded (x : Ctx) (pend : List Reg) (acq : Bool) (ws : List RegWrite) : Ctx :=
  let id := x.s.nextId
  (x.raise { id := id, cls := .ld, pend := pend, result := ws, acq := acq }).modState
    (·.later (.loadResult x.w id))

/-- LDB (R162, R163). -/
def execLdb (f : MForm) (s : State) : Out :=
  let w := accWidth f
  let rs := dataRegs f w
  let i := issueOfM f (mUniform f) [] rs true
  begin_ s i fun x act =>
    if x.memHeld .ld then x.hold
    else
      let b := x.wave.breg f.buf.toNat
      x.globally i act 1 (bufVa b) (x.offset f) (fun o => checkAcc b f.buf.toNat o w false) fun y fs =>
        match y.readWaits (fateKeys fs) (hasBit f.sub 3) with
        | some s1 => .wait s1
        | none =>
          let ok := fs.filter fun q => fateLoads q.2
          if ok.isEmpty then .done (y.counted .ld)
          else .done ((y.touched (linesOf (fateKeys fs))).loaded rs false (ok.flatMap fun q => loadWrites rs q.1 w (hasBit f.sub 2) (y.loadNat q.2)))

/-- LDC (R167; log 54): an access out of range in any byte gives the all-zero record. -/
def execLdc (f : MForm) (s : State) : Out :=
  let n := f.d.toNat
  let i := issueOfM f true [] [.b n] true
  begin_ s i fun x act =>
    if x.memHeld .ld then x.hold
    else
      let b := x.wave.breg f.buf.toNat
      x.globally i act 1 (bufVa b) (x.offset f) (fun o => checkAcc b f.buf.toNat o 16 true) fun y fs =>
        match y.readWaits (fateKeys fs) false with
        | some s1 => .wait s1
        | none =>
          let ok := fs.filter fun q => fateLoads q.2
          if ok.isEmpty then .done (y.counted .ld)
          else .done ((y.touched (linesOf (fateKeys fs))).loaded [.b n] false (ok.map fun q =>
            RegWrite.b n (if q.2 = .drop then 0 else BitVec.ofNat 128 (y.loadNat q.2))))

/-! STB (R162, R168). -/

/-- The cells a thread's store writes: its in-range bytes. -/
def storeCells (v : Nat) : Fate → List Host.Cell
  | .go _ _ bs => (bs.mapIdx fun k b => b.map fun a => (a, (BitVec.ofNat 8 (v >>> (8 * k)) : Byte))).filterMap id
  | _ => []

/-- A held effect of the ST class, or a wide atomic, enters the buffer. -/
def Ctx.holdOp (x : Ctx) (o : Op) (kind : Nat → HeldKind) (entries : Nat) : Ctx :=
  let id := x.s.nextId
  (x.raise { o with out := true }).held (x.opRef id) (kind id) entries

/-- STB (R162, R163). -/
def execStb (f : MForm) (s : State) : Out :=
  let w := accWidth f
  let i := issueOfM f (mUniform f) (dataRegs f w) [] true
  begin_ s i fun x act =>
    if x.memHeld .st then x.hold
    else
      let b := x.wave.breg f.buf.toNat
      x.globally i act 2 (bufVa b) (x.offset f) (fun o => checkAcc b f.buf.toNat o w false) fun y fs =>
        let cells := fs.flatMap fun q => storeCells (y.dataFrom f q.1 0 ((w + 3) / 4)) q.2
        let n := (linesOf (cells.map (·.1))).length
        if ((f.order == 2 || fateTso fs) && (y.spadOpen || y.kcOpen)) || y.relWaits true then .wait y.hold
        else if !y.holdRoom n then .wait (y.holdFor 8)
        else
          let z := if fs.any (·.2.issues) then y.modWave Wave.stored else y
          if cells.isEmpty then .done (z.counted .st) else .done (z.holdOp { id := 0, cls := .st } (fun _ => .store cells) n)

/-! Atomics (R164 to R166). -/

/-- The new word from the old one and the operand; `y` is the new value of a CAS, whose `x` is the compared one. -/
def atomNew (sub w : Nat) (old x y : Nat) : Nat :=
  let m : Nat := 2 ^ (8 * w)
  let sg (v : Nat) : Int := if 2 ^ (8 * w - 1) ≤ v then (v : Int) - m else v
  match sub with
  | 0 => (old + x) % m
  | 1 => (addF f32 0 false false (f32.read false old) (f32.read false x)).1
  | 2 => if sg x < sg old then x else old
  | 3 => if sg old < sg x then x else old
  | 4 => min old x
  | 5 => max old x
  | 6 => old &&& x
  | 7 => old ||| x
  | 8 => old ^^^ x
  | 9 => x
  | 10 => if old = x then y else old
  | 11 => if x ≤ old then 0 else old + 1
  | 12 => if old = 0 ∨ x < old then x else old - 1
  | 13 => (minMaxF f32 false false false old x).1
  | _ => (minMaxF f32 true false false old x).1

/-- The words of D that a result or operand of the width fills, and where a CAS's new value starts (R161, R164). -/
def atomWords (f : MForm) : Nat := accWidth f / 4

def Ctx.atomApp (x : Ctx) (f : MForm) (t addr : Nat) : AtomApp :=
  let n := atomWords f
  { tid := t, addr := addr, x := BitVec.ofNat 64 (x.dataFrom f t 0 n)
    y := if f.sub == 10 then BitVec.ofNat 64 (x.dataFrom f t n n) else 0 }

/-- Applications one after another through a read of the old word: what each found, and the bytes written (R165). -/
def applyAtoms (sub w : Nat) (rd : List Host.Cell → Nat → Nat) :
    List AtomApp → List Host.Cell → List (Nat × Nat) × List Host.Cell
  | [], cs => ([], cs)
  | a :: as, cs =>
    let old := rd cs a.addr
    let r := applyAtoms sub w rd as (cs ++ cellsAt a.addr (bytesLE w (atomNew sub w old a.x.toNat a.y.toNat)))
    ((a.tid, old) :: r.1, r.2)

/-- The bytes of a word under cells written since. -/
def overlayNat (base : Nat → Byte) (cs : List Host.Cell) (a w : Nat) : Nat :=
  natLE ((List.range w).map fun k => (cellOf cs (a + k)).getD (base (a + k)))

/-- The applications of the threads whose access goes on and is one of those `p` takes. -/
def Ctx.atomApps (x : Ctx) (f : MForm) (p : Fate → Bool) (fs : List (Nat × Fate)) : List AtomApp :=
  fs.filterMap fun q =>
    match q.2 with
    | .go _ n (some k :: _) => if p q.2 then some { x.atomApp f q.1 k with nc := n } else none
    | _ => none

/-- An atomic in the L1 waits while an earlier result of the same line has been released and has yet to be written back, which
it can only be once every heat that wrote the line is set (R280), and while a copy of the core waits for such results (R185). -/
def Core.l1Busy (k : Core) (keys : List Nat) : Bool :=
  (k.held.any fun h => match h.kind with | .l1 cs => h.released && cs.any fun q => (linesOf keys).contains (q.1 / 64) | _ => false)
    || k.teams.any fun t => t.copies.any fun c => c.want.any keys.contains

/-- The access is performed outside the core (R166): at cluster scope or wider, and on a page whose atomics are at system
scope or at the host (R193, R403). -/
def atomFar (f : MForm) (q : Fate) : Bool := decide (3 ≤ f.scope.toNat) || q.tso || q.nc

/-- The applications in the core's L1, at once: the log and the pins have room, or the instruction waits (R166, R280,
R282). -/
def Ctx.atomNear (x : Ctx) (f : MForm) (apps : List AtomApp) (go : Ctx → List (Nat × Nat) → Go) : Go :=
  let w := accWidth f
  let lines := linesOf (apps.map (·.addr))
  match x.readWaits (apps.flatMap fun a => (List.range w).map (a.addr + ·)) false with
  | some s1 => .wait s1
  | none =>
    let lks := lines.map LogKey.l1
    if x.core.l1Busy (apps.flatMap fun a => (List.range w).map (a.addr + ·)) then .wait x.hold
    else if decide (512 < (x.core.pinned ++ lines).eraseDups.length) then .wait x.hold
    else if !x.room lks then .wait (x.holdFor 9)
    else
      let r := applyAtoms f.sub.toNat w (fun cs a => overlayNat (x.s.coreRead x.core x.team.part) cs a w) apps []
      go (((x.log lks).touched lines).held (x.opRef x.s.nextId) (.l1 r.2) 0) r.1

/-- ATB and REDB (R165, R166): each thread's application is performed in the core's L1, or is a held effect (log 31); those
in the L1 return their old values without waiting for the held ones, and the operation is complete when all are. -/
def atomic (f : MForm) (ret : Bool) (s : State) : Out :=
  let w := accWidth f
  let n := atomWords f
  let rs := dataRegs f w
  let shape := dataRegs f (if f.sub == 10 then 2 * w else w)
  let i := issueOfM f (mUniform f) shape (if ret then rs else []) true
  let cls : OpClass := if ret then .ld else .st
  begin_ s i fun x act =>
    if x.memHeld cls then x.hold
    else
      let b := x.wave.breg f.buf.toNat
      x.globally i act 3 (bufVa b) (x.offset f) (fun o => checkAcc b f.buf.toNat o w true) fun y fs =>
        let tso := fateTso fs
        let far := y.atomApps f (atomFar f) fs
        let near := y.atomApps f (fun q => !atomFar f q) fs
        let zeros := if ret then (fs.filter fun q => q.2 = .drop).flatMap fun q => loadWrites rs q.1 w false 0 else []
        let op : Op := { id := 0, cls := cls, pend := if ret then rs else [], acq := (ret && hasBit f.order 0) || tso }
        let got (r : List (Nat × Nat)) : List RegWrite :=
          (if ret then r.flatMap fun q => loadWrites (rs.take n) q.1 w false q.2 else []) ++ zeros
        let relWait := ((hasBit f.order 1 || tso) && (y.spadOpen || y.kcOpen)) || (tso && !(y.unperformed 7).isEmpty)
        let z := if fs.any (·.2.issues) then y.modWave Wave.stored else y
        let id := y.s.nextId
        if relWait || y.relWaits near.isEmpty then .wait y.hold
        else if far.isEmpty && near.isEmpty then
          .done (if zeros.isEmpty then z.counted cls else z.loaded rs op.acq zeros)
        else if far.isEmpty then
          z.atomNear f near fun z1 r =>
            .done ((z1.raise { op with result := got r }).modState
              (·.later (if ret then .loadResult y.w id else .storePerformed y.w id)))
        else
          let lines := (linesOf (far.map (·.addr))).length
          let wide (z1 : Ctx) (r : List (Nat × Nat)) : Go :=
            let early := got r
            let z2 := z1.holdOp { op with due := if early.isEmpty then [] else [(y.s.cycle, early)], left := 1 }
              (fun id => .atomic f.sub.toNat w (if ret then some id else none) far) lines
            .done (if early.isEmpty then z2 else z2.modState (·.later (.loadResult y.w id)))
          if !y.holdRoom lines then .wait (y.holdFor 8)
          else if near.isEmpty then wide z [] else z.atomNear f near wide

/-- ATB (R165). -/
def execAtb (f : MForm) (s : State) : Out := atomic f true s

/-- REDB (R165). -/
def execRedb (f : MForm) (s : State) : Out := atomic f false s

/-! Prefetch and maintenance (R168). -/

/-- The byte that names the line, checked as an access of one byte; a malformed record is out of range (R156). -/
def checkLine (b : BufRec) (buf : Nat) (o : Int) : Checked :=
  match checkAcc b buf o 1 true with
  | .go _ => .go [some (BitVec.ofInt 57 (bufBase b + o))]
  | c => c

/-- PREF (R168): it brings lines, and the translations they take, toward the core; what would trap, miss or wait is dropped.
An offset register at or above the budget raises BUDGET as in every instruction (R19; log 72). -/
def execPref (f : MForm) (s : State) : Out :=
  let i := issueOfM f f.ak [] [] true
  begin_ s i fun x act =>
    let b := x.wave.breg f.buf.toNat
    let who := if i.uniform then act.take 1 else act
    let ls := (who.filterMap fun t =>
      match checkLine b f.buf.toNat (x.offset f t) with
      | .go bs => some (accLines bs)
      | _ => none).flatten.eraseDups
    let r := x.lines ls
    let keys := r.2.filterMap fun q => match q.2 with
      | .found t => if t.refuses 1 = none then x.s.keyUnder t q.1 else none
      | _ => none
    (r.1.brought (linesOf (keys.filter fun k => !x.s.deviceWaits k))).next.close (i.cost act) (i.tops act)

/-- CINV and CWB (R168); `inv` that the lines leave the caches inside the scope. -/
def maint (f : MForm) (inv : Bool) (s : State) : Out :=
  let i := issueOfM f f.ak [] [] true
  begin_ s i fun x act =>
    if x.memHeld .st then x.hold
    else
      let b := x.wave.breg f.buf.toNat
      x.globally i act 1 (fun o => BitVec.ofInt 57 (bufBase b + o)) (x.offset f) (checkLine b f.buf.toNat) fun y fs =>
        let n := (linesOf (fateKeys fs)).length
        if y.relWaits true then .wait y.hold
        else if !y.holdRoom n then .wait (y.holdFor 8)
        else if n = 0 then .done (y.counted .st)
        else .done (y.holdOp { id := 0, cls := .st } (fun _ => .maint (if inv then linesOf (fateKeys fs) else []) f.scope.toNat) n)

/-- CINV (R168): memory here is what every cache of it holds once released, so the writeback changes no value and the
invalidation takes the lines out of the caches; the effect is held and completes in its turn (log 17). -/
def execCinv (f : MForm) (s : State) : Out := maint f true s

/-- CWB (R168). -/
def execCwb (f : MForm) (s : State) : Out := maint f false s

/-! The scratchpad (R170). -/

/-- The checks of a scratchpad access. -/
def spadCheck (tm : Team) (a : Int) (w : Nat) : Option Trap :=
  if a % w ≠ 0 then some ⟨5, BitVec.ofInt 57 a, BitVec.ofNat 32 w⟩
  else if a < 0 ∨ (tm.sz : Int) < a + w then some ⟨4, BitVec.ofInt 57 a, 0⟩
  else none

/-- The banks of an access (R170). -/
def BankReq.banksOf (q : BankReq) : List Nat := (List.range ((q.bytes + 3) / 4)).map fun k => (q.addr / 4 + k) % 64

/-- A bank's queue is full (R170). -/
def Core.bankFull (k : Core) (bank : Nat) : Bool :=
  decide (Config.bankQueueDepth + 1 ≤ (k.teams.map fun t => (t.banks.filter fun q => q.banksOf.contains bank).length).sum)

/-- LDS, STS and ATS: the surviving threads queue their requests at the banks, in ascending thread order, one a cycle; the
lane waits while a queue that an access needs is full (log 51). -/
def spad (f : MForm) (cls : OpClass) (reads writes : List Reg) (act_ : Ctx → Nat → BankAct) (s : State) : Out :=
  let w := accWidth f
  let i := issueOfM f (mUniform f) reads writes false
  begin_ s i fun x act =>
    let rel := hasBit f.order 1
    if x.memHeld cls || (rel && (x.readsOpen || x.spadOpen)) then x.hold
    else
      let who := if i.uniform then act.take 1 else act
      let chk (t : Nat) : Option Trap := spadCheck x.team (x.offset f t) w
      let ok := who.filter fun t => (chk t).isNone
      let id := x.s.nextId
      let reqs := ok.mapIdx fun n t =>
        (⟨x.s.cycle + n, x.wave.lane, x.w.wid, id, t, (x.offset f t).toNat, w, act_ x t⟩ : BankReq)
      let bad := who.filter fun t => (chk t).isSome
      if (!reads.isEmpty && x.relWaits false) then x.hold
      else if reqs.any fun q => q.banksOf.any x.core.bankFull then x.holdFor 4
      else if !x.room (x.rcdKeys (bad.flatMap (i.fated act))) then x.holdFor 9
      else
        let x1 := if ok.isEmpty then x.counted cls
          else
            let y := x.raise { id := id, cls := cls, pend := writes, spad := true, acq := hasBit f.order 0
                               left := reqs.length }
            (y.modTeam fun tm => { tm with banks := tm.banks ++ reqs }).modState fun s =>
              reqs.foldl (fun s q => s.post (q.at_ - s.cycle + 1) (.scratchpadBankServe x.core.id (q.banksOf.headD 0))) s
        let x2 := if !reads.isEmpty && !ok.isEmpty then x1.modWave Wave.stored else x1
        let x3 := who.foldl (fun y t =>
          match chk t with
          | some tr => y.trapAll (i.fated act t) fun _ => tr
          | none => y) x2
        x3.next.close (i.cost act) (i.tops act)

/-- LDS (R170). -/
def execLds (f : MForm) (s : State) : Out :=
  let rs := dataRegs f (accWidth f)
  spad f .ld [] rs (fun _ _ => .read rs (hasBit f.sub 2)) s

/-- STS (R170). -/
def execSts (f : MForm) (s : State) : Out :=
  let w := accWidth f
  spad f .st (dataRegs f w) [] (fun x t => .write (bytesLE w (x.dataFrom f t 0 ((w + 3) / 4)))) s

/-- ATS (R165, R170). -/
def execAts (f : MForm) (s : State) : Out :=
  let w := accWidth f
  let rs := dataRegs f w
  spad f .ld (dataRegs f (if f.sub == 10 then 2 * w else w)) rs
    (fun x t => let a := x.atomApp f t 0; .atomic f.sub.toNat a.x a.y rs) s

/-! A bank serves a request (R170). -/

/-- The undo-log lines a write to scratchpad bytes touches (R280). -/
def spadKeys (team a n : Nat) : List LogKey :=
  ((List.range n).map fun k => LogKey.spad team ((a + k) / 64)).eraseDups

/-- Writes of the core itself, an inbound copy, a bank or a delivery: the log has room for their lines and for `n` entries
of return records beside them (R281, R282). -/
def Core.roomFor (k : Core) (ks : List LogKey) (n : Nat) : Bool :=
  match k.cur with
  | none => true
  | some h =>
    let new := (ks.filter fun q => !h.log.contains q).eraseDups.length + n
    new = 0 || decide (Ctx.heatLoad k.cur + Ctx.heatLoad k.old + new ≤ 3072)

def Core.room (k : Core) (ks : List LogKey) : Bool := k.roomFor ks 0

def Core.logged (k : Core) (ks : List LogKey) : Core :=
  { k with cur := k.cur.map fun h => { h with log := ks.foldl (fun l q => if l.contains q then l else l ++ [q]) h.log } }

/-- A request's effect on scratchpad, and the registers it delivers. -/
def BankReq.effect (q : BankReq) (sp : List Host.Cell) : List Host.Cell × List RegWrite :=
  let old := memNat sp q.addr q.bytes
  match q.act with
  | .read rs sx => (sp, loadWrites rs q.tid q.bytes sx old)
  | .write bs => (memWrites sp (cellsAt q.addr bs), [])
  | .atomic sub x y rs =>
    (memWrites sp (cellsAt q.addr (bytesLE q.bytes (atomNew sub q.bytes old x.toNat y.toNat))),
      loadWrites rs q.tid q.bytes false old)

def BankReq.writes (q : BankReq) : Bool := match q.act with | .read _ _ => false | _ => true

/-- One request reached the banks before another: in an earlier cycle, or in the same one from a lower lane (R170). -/
def BankReq.before (q r : BankReq) : Bool := decide (q.at_ < r.at_) || (q.at_ == r.at_ && decide (q.lane < r.lane))

/-- The request that `bank` serves now, as the first of its banks: it has reached them, none of them has served in this
cycle, and no request before it waits at one of them. -/
def bankHead (bank now : Nat) (served : List Nat) (qs : List (Nat × BankReq)) : Option (Nat × BankReq) :=
  qs.find? fun q => q.2.banksOf.headD 0 == bank && decide (q.2.at_ < now) && !(q.2.banksOf.any served.contains)
    && qs.all fun r => !(r.2.before q.2 && r.2.banksOf.any q.2.banksOf.contains)

/-- The requests at the core's banks, each with its team. -/
def Core.bankReqs (k : Core) : List (Nat × BankReq) := k.teams.flatMap fun t => t.banks.map fun q => (t.oid, q)

/-- A request's value is not delivered: its return record has been replayed (R281). -/
def BankReq.mute (q : BankReq) : BankReq :=
  { q with act := match q.act with
    | .read _ sx => .read [] sx
    | .write bs => .write bs
    | .atomic sub x y _ => .atomic sub x y [] }

/-- A request is served in cycle `now`: its value is written six cycles later, the operation has one request less to wait
for, and a store with none is complete. -/
def Op.served (now : Nat) (r : List RegWrite) (o : Op) : Op :=
  { o with
    due := if o.cls == OpClass.ld then o.due ++ [(now + 6, r)] else o.due
    left := o.left - 1
    done := o.done || (o.left == 1 && o.cls == OpClass.st) }

/-- SCRATCHPAD_BANK_SERVE (R170): a bank serves its oldest request, one each cycle, with the banks beside it that a wide
access occupies; each thread's value follows six cycles after its own last bank (log 51). -/
def execScratchpadBankServe (c : CoreId) (bank : Nat) (s : State) : Out :=
  .next <|
    let k := s.core c
    let again := s.post 1 (.scratchpadBankServe c bank)
    let served := (k.bankAt.filter (·.2 == s.cycle)).map (·.1)
    if !(k.bankReqs.any fun q => q.2.banksOf.headD 0 == bank) then s
    else if k.rollback.isSome then again
    else
      match bankHead bank s.cycle served k.bankReqs with
      | none => again
      | some (oid, q) =>
        match k.team oid with
        | none => s
        | some t =>
          let ks := if q.writes then spadKeys t.oid q.addr q.bytes else []
          if !k.room ks then again.modCore c (·.waits 9 s.cycle)
          else
            let r := q.effect t.sp
            let t1 := ({ t with sp := r.1, banks := t.banks.erase q }).modWave q.wid fun w =>
              ({ w with ops := w.ops.map fun (o : Op) => if o.id == q.op then o.served s.cycle r.2 else o } : Wave).retireAll
            let at_ := q.banksOf.foldl (fun l b => putWhere (·.1 == b) (b, s.cycle) l) k.bankAt
            let s1 := s.setCore (({ (k.logged ks) with bankAt := at_ } : Core).setTeam t1)
            let loads : Bool := match t1.wave q.wid with
              | some w => w.ops.any fun (o : Op) => o.id == q.op && o.cls == OpClass.ld
              | none => false
            if loads then s1.post 6 (.loadResult ⟨c, t.oid, q.wid⟩ q.op) else s1

end Sys2Proof.Machine
end

