-- ==== Sys2Proof/Machine/Ordering.lean ====
section
/-! DEFINITION. Counter and tag waits, fences and numbered barriers (spec/10_ordering.md R173 to R180). -/

namespace Sys2Proof.Machine

/-! Numbered barriers (R177). -/

/-- `check`: the phase completes. -/
def Bar.check (b : Bar) : Bar := if b.e ≤ b.arr && b.pend == 0 then { b with p := !b.p, arr := 0 } else b

def Bar.arrive (n : Nat) (b : Bar) : Bar := Bar.check { b with arr := min (b.arr + 1) 31, pend := b.pend + BitVec.ofNat 48 n }

def Bar.land (n : Nat) (b : Bar) : Bar := Bar.check { b with pend := b.pend - BitVec.ofNat 48 n }

def Bar.init (n : Nat) (b : Bar) : Bar := { b with e := n, arr := 0, pend := 0 }

def Team.bar (t : Team) (n : Nat) : Bar := t.bars.getD n { e := 1 }

def Team.modBar (t : Team) (n : Nat) (f : Bar → Bar) : Team := { t with bars := putAt 16 { e := 1 } n (f (t.bar n)) t.bars }

/-! Waits (R174, R180). -/

/-- WAIT (R174). -/
def execWait (f : IForm) (s : State) : Out :=
  begin_ s (uniformIssue f.g) fun x _ =>
    let met (q : OpClass × Nat) : Bool := decide (x.wave.counter q.1 ≤ bitsNat f.imm q.2 6)
    let ok := [(OpClass.ld, 24), (.st, 18), (.cp, 12), (.mx, 6)].all met
    if ok && met (.kc, 0) then x.next.close 1 0 else (x.modWave fun w => { w with kcWait := ok }).hold

/-- TWAIT (R180). -/
def execTwait (f : XForm) (s : State) : Out :=
  begin_ s { uniformIssue f.g with reads := regsOf f.a true true } fun x _ =>
    let m := x.spair f.a
    let v := x.team.tags &&& m
    let ok := m == 0 || (if hasBit f.mod 0 then v != 0 else v == m)
    if !x.wave.acquiring && ok then x.next.close 1 0 else x.hold

/-- The lowest 1 bit, or 64. -/
def lowestBit (v : DWord) : Nat := ((List.range 64).find? fun k => hasBit v k).getD 64

/-- TFIND (R180). -/
def execTfind (f : XForm) (s : State) : Out :=
  let i : Issue := { uniformIssue f.g with reads := regsOf f.a true true, writes := [.s f.d.toNat] }
  begin_ s i fun x act =>
    if x.wave.acquiring then x.hold
    else x.deliverAll i .once act fun _ =>
      ([.s f.d.toNat (BitVec.ofNat 32 (lowestBit (x.team.tags &&& x.spair f.a)))], 0)

/-! Fences (R176). -/

/-- FENCE (R176). -/
def execFence (f : XForm) (s : State) : Out :=
  begin_ s (uniformIssue f.g) fun x _ =>
    let ids := x.unperformed (f.bits 0 3)
    match f.bits 3 2 with
    | 1 => if x.readsOpen then x.hold else x.next.close 1 0
    | 2 => ((x.modWave fun w => { w with rel := w.rel.filter x.standing ++ ids }).next).close 1 0
    | _ => if ids.isEmpty then x.next.close 1 0 else x.hold

/-! Barrier instructions (R177 to R179).  An arrival stands behind the wave's earlier scratchpad accesses, so that its
phase orders them for the team (R183, R195; log 18). -/

def barrier (f : XForm) (reads : List Reg) (store : Bool) (g : Ctx → Bar → Bar) (s : State) : Out :=
  begin_ s { uniformIssue f.g with reads := reads } fun x _ =>
    if x.wave.acquiring || x.spadOpen || x.relWaits false then x.hold
    else
      let y := x.modTeam (·.modBar f.bar.toNat (g x))
      (if store then y.modWave Wave.stored else y).next.close 1 0

/-- BARINIT (R177). -/
def execBarinit (f : XForm) (s : State) : Out := barrier f [] false (fun _ => Bar.init (f.bits 0 5)) s

/-- BARA (R177). -/
def execBara (f : XForm) (s : State) : Out := barrier f [] true (fun _ => Bar.arrive 0) s

/-- BARX (R177). -/
def execBarx (f : XForm) (s : State) : Out :=
  barrier f (regsOf f.a true false) true (fun x => Bar.arrive (x.sword f.a).toNat) s

/-- The phase that is waited for has completed (R178). -/
def Ctx.phaseDone (x : Ctx) (f : XForm) : Bool := (x.team.bar f.bar.toNat).p != hasBit f.mod 0

/-- BARW (R178). -/
def execBarw (f : XForm) (s : State) : Out :=
  begin_ s (uniformIssue f.g) fun x _ =>
    if !x.wave.acquiring && x.phaseDone f then x.next.close 1 0 else x.hold

/-- BART (R179). -/
def execBart (f : XForm) (s : State) : Out :=
  let i : Issue := { uniformIssue f.g with writes := [.s f.d.toNat] }
  begin_ s i fun x act =>
    if x.wave.acquiring then x.hold
    else x.deliverAll i .once act fun _ => ([.s f.d.toNat (if x.phaseDone f then 1 else 0)], 0)

end Sys2Proof.Machine
end

