-- ==== Sys2Proof/Machine/Window.lean ====
section
/-! DEFINITION. Shape records: their fields, their checks, and where a window's elements lie
(spec/12_tensor_copies.md R209 to R215, R220, R221, R225; spec/13 R229 to R233).  A BX4 row is moved by bytes of two
elements: R210 and R211 make its extents multiples of 32. -/

namespace Sys2Proof.Machine

/-- A working copy of a record (R218): the record as read, with the start coordinates and scratchpad addresses exact. -/
structure Win where
  r : ShapeRec
  wst : List Int
  spa : Int
  sps : Int
  deriving DecidableEq, Repr

namespace Win

def fld (w : Win) (lo len : Nat) : Nat := bitsNat w.r lo len
def fmt (w : Win) : Nat := w.fld 0 4
def rank (w : Win) : Nat := w.fld 4 3
def bim (w : Win) : Nat := w.fld 8 2
def fill (w : Win) : Nat := w.fld 16 32
def base (w : Win) : Nat := w.fld 64 57
def scale (w : Win) : Nat := w.fld 128 57
def dim (w : Win) (k : Nat) : Nat := w.fld (192 + 32 * k) 32
/-- STRk, in units of 16 bytes (R210). -/
def str (w : Win) (k : Nat) : Nat := w.fld (352 + 44 * (k - 1)) 44
def wext (w : Win) (k : Nat) : Nat := w.fld (768 + 20 * k) 20
def spp (w : Win) : Nat := w.fld 1056 16
def ssw (w : Win) : Nat := w.fld 1072 2
def spf (w : Win) : Nat := w.fld 1080 4
def spcv (w : Win) : Bool := hasBit w.r 1084
def sat (w : Win) : Bool := hasBit w.r 1085

def ofRec (r : ShapeRec) : Win :=
  { r := r, wst := (List.range 5).map fun k => (r.extractLsb' (872 + 32 * k) 32).toInt
    spa := bitsNat r 1032 19, sps := bitsNat r 1088 19 }

def start (w : Win) (k : Nat) : Int := w.wst.getD k 0

def isBx (w : Win) : Bool := w.fmt == 11 || w.fmt == 12

/-- Elements to a unit: a BX4 byte holds two. -/
def per (w : Win) : Nat := if w.fmt = 12 then 2 else 1

/-- Bytes of a format's element or, for BX, of a unit.  The codes 13 to 15, which are no formats, are taken as 4 bytes where a
record that names one is judged by its row length (R215, R233; log 97, DESIGN CHOICE). -/
def fmtBytes (code : Nat) : Nat :=
  match code with
  | 0 | 1 | 9 | 10 | 11 | 12 => 1
  | 2 | 3 | 6 | 7 => 2
  | _ => 4

def memBytes (w : Win) : Nat := fmtBytes w.fmt
def spBytes (w : Win) : Nat := if w.spcv then fmtBytes w.spf else w.memBytes

/-- Extents, 1 beyond the rank (R213). -/
def ext (w : Win) (k : Nat) : Nat := if k < w.rank then w.wext k else 1

/-- Units in a row: one for each byte that a BX4 row's elements share, of which a record that R211 forbids may begin or end
in the middle; rows in a window. -/
def units (w : Win) : Nat := ((w.start 0 % (w.per : Int)).toNat + w.wext 0 + w.per - 1) / w.per
def rows (w : Win) : Nat := w.ext 1 * w.ext 2 * w.ext 3 * w.ext 4

/-- R213: WEXT0 elements in the scratchpad format. -/
def rowLen (w : Win) : Nat :=
  if w.spcv then (if w.spf = 12 then (w.wext 0 + 1) / 2 else w.wext 0 * w.spBytes) else (w.wext 0 + w.per - 1) / w.per * w.spBytes
def pitch (w : Win) : Nat := if w.spp = 0 then (w.rowLen + 15) / 16 * 16 else 16 * w.spp

/-- The 16- or 32-byte chunk permutation of row `n`, under mode 1 or 2 (R212, R213). -/
def chunk (mode n b : Nat) : Nat := if mode = 1 ∨ mode = 2 then b ^^^ (n % 8 * (8 * 2 ^ mode)) else b

/-- The coordinates c1 to c4 of row `n`; a GATHR's row takes its index as c1 (R213, R221), and its others from WST2 to WST4 also
where the record is at fault in an extent (log 97, DESIGN CHOICE). -/
def rowCoord (w : Win) (idx : Option (List Word)) (n : Nat) : List Int :=
  match idx with
  | some l => ((l.getD n 0).toNat : Int) :: [w.start 2, w.start 3, w.start 4]
  | none =>
    [w.start 1 + (n % w.ext 1 : Nat), w.start 2 + (n / w.ext 1 % w.ext 2 : Nat),
      w.start 3 + (n / (w.ext 1 * w.ext 2) % w.ext 3 : Nat), w.start 4 + (n / (w.ext 1 * w.ext 2 * w.ext 3) : Nat)]

def rowCount (w : Win) (idx : Option (List Word)) : Nat :=
  match idx with
  | some l => l.length
  | none => w.rows

/-- A row lies inside the tensor in dimensions 1 and up (R212, R229). -/
def rowInside (w : Win) (c : List Int) : Bool :=
  ([1, 2, 3, 4].filter fun k => decide (k < w.rank)).all fun k =>
    decide (0 ≤ c.getD (k - 1) 0) && decide (c.getD (k - 1) 0 < w.dim k)

/-- The byte offset of unit `u` of a row inside the tensor, and its address (R212). -/
def memVa (w : Win) (c : List Int) (u : Int) : BitVec 57 :=
  let o : Int := u * w.memBytes + (([1, 2, 3, 4].filter fun k => decide (k < w.rank)).map fun k =>
    c.getD (k - 1) 0 * (16 * w.str k : Nat)).foldl (· + ·) 0
  if w.bim = 0 then BitVec.ofInt 57 (w.base + o)
  else
    let s : Int := (16 * w.str 1 : Nat)
    let q := o / s
    BitVec.ofInt 57 (w.base + s * q + (chunk w.bim (q % 8).toNat (o % s).toNat : Nat))

/-- One unit of the window: its scratchpad address, and its memory address when it is inside (R212, R213). -/
structure Unit_ where
  sp : Nat
  va : Option (BitVec 57)
  deriving DecidableEq, Repr

def unitsOf (w : Win) (idx : Option (List Word)) : List Unit_ :=
  (List.range (w.rowCount idx)).flatMap fun n =>
    let c := w.rowCoord idx n
    let rin := w.rowInside c
    (List.range w.units).map fun (u : Nat) =>
      let c0 : Int := w.start 0 / (w.per : Int) + (u : Int)
      let inside := rin && decide (0 ≤ c0) && decide (c0 < (w.dim 0 / w.per : Nat))
      { sp := w.spa.toNat + n * w.pitch + chunk w.ssw n (u * w.spBytes)
        va := if inside then some (w.memVa c c0) else none }

/-- The scale pairs of a BX window, one for each block that it covers, in part or whole: where each lies in scratchpad and, for a block
that holds an element inside, in memory (R213, R215). -/
def pairsOf (w : Win) (idx : Option (List Word)) : List Unit_ :=
  if w.isBx then
    let nb := w.wext 0 / 32
    let s0 := w.start 0
    let end_ : Int := s0 + (w.wext 0 : Nat)
    (List.range (w.rowCount idx)).flatMap fun n =>
      let c := w.rowCoord idx n
      let at_ (k : Nat) : Int := if k < w.rank then c.getD (k - 1) 0 else 0
      let row : Int := at_ 1 + (w.dim 1 : Nat) * (at_ 2 + (w.dim 2 : Nat) * (at_ 3 + (w.dim 3 : Nat) * at_ 4))
      (List.range (((s0 % 32).toNat + w.wext 0 + 31) / 32)).map fun j =>
        let b : Int := s0 / 32 + (j : Nat)
        let inside := w.rowInside c && decide (0 < min (32 * b + 32) end_) && decide (max (32 * b) s0 < w.dim 0)
        { sp := w.sps.toNat + 2 * (n * nb + j)
          va := if inside then some (BitVec.ofInt 57 (w.scale + 2 * (b + (w.dim 0 / 32 : Nat) * row))) else none }
  else []

/-- The bytes that the copy lands (R225). -/
def footprint (w : Win) (idx : Option (List Word)) : Nat :=
  w.rowCount idx * (w.units * w.spBytes + (if w.isBx then 2 * (w.wext 0 / 32) else 0))

/-- The fill of a unit, as bits of FMT, and of a scale pair (R230). -/
def fillUnit (w : Win) : Nat :=
  if w.fmt = 12 then w.fill % 16 * 17 else w.fill % 2 ^ (8 * w.memBytes)
def fillPair (w : Win) : Nat := w.fill / 2 ^ 16

/-- Every value of the one format is a value of the other (R67). -/
def widens (src dst : Nat) : Bool := decide ((fmtOf src).ew ≤ (fmtOf dst).ew) && decide ((fmtOf src).fw ≤ (fmtOf dst).fw)

/-- A converting copy (R214): SAT is for conversions that narrow (R211). -/
def convert (src dst : Nat) (sat : Bool) (x : Nat) : Nat :=
  ((fmtOf dst).convert 0 (sat && !widens src dst) false ((fmtOf src).decode x)).1

def toSp (w : Win) (x : Nat) : Nat := if w.spcv then convert w.fmt w.spf w.sat x else x
def toMem (w : Win) (x : Nat) : Nat := if w.spcv then convert w.spf w.fmt w.sat x else x

/-! The checks of R215, each with its AUX value (R233). -/

def converts : List Nat := [6, 7, 8, 9, 10]

/-- One past the highest scratchpad byte that the window's rows place: it lies in one of the last eight rows, since a row
places its bytes as the row eight before it does, `8 * pitch` further on; nothing is placed where there is no row. -/
def spTop (w : Win) (rows : Nat) : Int :=
  let row (n : Nat) : Nat := n * w.pitch + (((List.range ((w.rowLen + 15) / 16)).map fun k =>
    chunk w.ssw n (16 * k) + min 16 (w.rowLen - 16 * k)).foldl max 0)
  if w.rowLen = 0 ∨ rows = 0 then 0
  else w.spa + ((((List.range (min 8 rows)).map fun k => row (rows - 1 - k)).foldl max 0 : Nat) : Int)

def okIf (bad : Bool) (aux : Nat) : List Nat := if bad then [aux] else []

/-- Conditions on the record's fields alone. -/
def fieldFaults (w : Win) : List Nat :=
  let rsv : List (Nat × Nat) := [(7, 1), (10, 6), (48, 16), (121, 7), (185, 7), (528, 240), (868, 4), (1051, 5),
    (1074, 6), (1086, 2), (1107, 429)]
  (rsv.filterMap fun q => if w.fld q.1 q.2 != 0 then some q.1 else none)
  ++ okIf (decide (13 ≤ w.fmt)) 0
  ++ okIf (w.rank == 0 || decide (6 ≤ w.rank)) 4
  ++ okIf (w.bim == 3 || (w.bim != 0 && w.rank == 1)) 8
  ++ okIf (w.scale != 0 && !w.isBx) 128
  ++ ([0, 1, 2, 3, 4].flatMap fun k =>
      okIf ((decide (k < w.rank) && w.dim k == 0) || (decide (w.rank ≤ k) && w.dim k != 0)
        || (k == 0 && w.isBx && w.dim 0 % 32 != 0)) (192 + 32 * k)
      ++ okIf ((decide (k < w.rank) && w.wext k == 0) || (decide (w.rank ≤ k) && w.wext k != 0)
        || (k == 0 && w.isBx && w.wext 0 % 32 != 0)) (768 + 20 * k)
      ++ okIf ((decide (w.rank ≤ k) && w.start k != 0) || (k == 0 && w.isBx && w.start 0 % 32 != 0)
        || decide (w.start k < -(2 ^ 31)) || decide (2 ^ 31 ≤ w.start k)) (872 + 32 * k))
  ++ ([1, 2, 3, 4].flatMap fun k =>
      okIf ((decide (k < w.rank) && w.str k == 0) || (decide (w.rank ≤ k) && w.str k != 0)
        || (k == 1 && w.bim == 1 && w.str 1 % 8 != 0) || (k == 1 && w.bim == 2 && w.str 1 % 16 != 0))
        (352 + 44 * (k - 1)))
  ++ okIf (w.spp != 0 && decide (16 * w.spp < w.rowLen)) 1056
  ++ okIf (w.ssw == 3 || (w.ssw == 1 && w.pitch % 128 != 0) || (w.ssw == 2 && w.pitch % 256 != 0)) 1072
  ++ okIf ((!w.spcv && w.spf != 0) || (w.spcv && !(converts.contains w.fmt && converts.contains w.spf))) 1080
  ++ okIf (w.sat && !w.spcv) 1085

/-- Conditions on where the window lies in the scratchpad (R213, R215). -/
def placeFaults (w : Win) (rows sz : Nat) : List Nat :=
  let pairs : Int := (2 * rows * (w.wext 0 / 32) : Nat)
  okIf (w.spa % 16 != 0 || decide ((sz : Int) < w.spTop rows)) 1032
  ++ okIf (if w.isBx then w.sps % 16 != 0 || (pairs != 0 && decide ((sz : Int) < w.sps + pairs)) else w.sps != 0) 1088

/-- TRED's formats and GATHR's shape (R220, R221). -/
def tredFaults (w : Win) : List Nat := okIf (!([8, 6, 7, 4, 5].contains w.fmt)) 0
def gathrFaults (w : Win) : List Nat :=
  [1, 2, 3, 4].flatMap fun k => okIf ((k == 1 || decide (k < w.rank)) && w.wext k != 1) (768 + 20 * k)

/-- TRED's combination of a memory unit and a scratchpad unit (R220): exact, then rounded once into FMT.  SAT clamps what
overflows in that rounding, of `.min` and `.max` too; an infinity stays one (log 80). -/
def combine (w : Win) (op mem sp : Nat) : Nat :=
  if w.fmt = 4 ∨ w.fmt = 5 then
    let v (x : Nat) : Int := if w.fmt = 4 then (BitVec.ofNat 32 x).toInt else x
    match op with
    | 0 => (mem + sp) % 2 ^ 32
    | 1 => if v sp < v mem then sp else mem
    | _ => if v mem < v sp then sp else mem
  else
    let f := fmtOf w.fmt
    let a := f.decode mem
    let b := (fmtOf (if w.spcv then w.spf else w.fmt)).decode sp
    let pick (x y : Fl) : Fl :=
      if x.isNan then y else if y.isNan then x
      else if op = 1 then (if y.before x then y else x) else (if x.before y then y else x)
    if op = 0 then (sumRes f 0 w.sat false [a, b]).1 else (f.round 0 w.sat false (pick a b)).1

end Win

end Sys2Proof.Machine
end

