-- ==== Sys2Proof/Machine/Copies.lean ====
section
/-! DEFINITION. Asynchronous copies: their issue, their landing, and the record cache (spec/12_tensor_copies.md R216 to
R227; spec/16 R269 to R272; spec/17 R281 to R284). -/

namespace Sys2Proof.Machine

/-! Issue (R218). -/

namespace Ctx

/-- A copy waits at issue while its counter stands at 62, while its tag is busy, and behind what orders it (R170, R176,
R218); its issue stands behind the wave's own scratchpad accesses (log 18). -/
def copyHeld (x : Ctx) (f : XForm) (cls : OpClass) (out : Bool) : Bool :=
  x.full cls || (f.tv && hasBit x.team.busy f.tag.toNat) || x.wave.acquiring || x.spadOpen || x.relWaits out

/-- The trap of every passing thread (R218), once the undo log has room for the records (R282). -/
def trapRun (x : Ctx) (i : Issue) (act : List Nat) (tr : Trap) : State :=
  if x.room (x.rcdKeys act) then
    let y := x.trapAll act fun _ => tr
    y.next.close (i.cost act) 0 (edge := i.control && y.parted)
  else x.holdFor 9

/-- The passing threads park on the pages that miss (R171, R218). -/
def parkRun (x : Ctx) (i : Issue) (act : List Nat) (ms : List (BitVec 57 × BitVec 3 × Nat)) : State :=
  let y := ms.foldl (fun y m => y.miss m.1 false m.2.1 m.2.2) x
  let z := act.foldl (fun y t => y.park t ((ms.map fun m => FaultKey.ofVa m.1 false).eraseDups)) y
  z.next.close 1 0 (edge := i.control && z.parted)

/-- A DENY mark of the passing threads (R350). -/
def denied (x : Ctx) (act : List Nat) : Option (FaultKey × BitVec 3) := act.findSome? fun t => (x.thread t).deny

end Ctx

def lowest (vs : List (BitVec 57)) : BitVec 57 :=
  match vs with
  | [] => 0
  | v :: r => r.foldl (fun a b => if b.toNat < a.toNat then b else a) v

/-- An address a copy needs, and the rights it needs there. -/
structure Need where
  va : BitVec 57
  rights : BitVec 3
  deriving DecidableEq, Repr

/-- Translate the page of each address. -/
def Ctx.pages (x : Ctx) : List (BitVec 45) → Ctx × List (BitVec 45 × Walk)
  | [] => (x, [])
  | p :: ps =>
    let r := x.translate (p ++ (0 : BitVec 12))
    let q := r.1.pages ps
    (q.1, (p, r.2) :: q.2)

def orAll (rs : List (BitVec 3)) : BitVec 3 := rs.foldl (· ||| ·) 0

/-- Translate and pin every page that the copy needs: ACCESS, then GRANTED, with the lowest address on an offending
page; a miss parks (R218, R270).  `recs` are the record's lines, which a DENY may also name (R350). -/
def Ctx.withPins (x : Ctx) (i : Issue) (act : List Nat) (recs : List (BitVec 57)) (needs : List Need)
    (go : Ctx → List Tlb → State) : State :=
  match x.denied act with
  | some (k, m) =>
    x.trapRun i act ⟨6, lowest ((recs ++ needs.map (·.va)).filter fun v => vpnOf v == k.vpn), m.setWidth 32⟩
  | none =>
    let r := x.pages (needs.map fun n => vpnOf n.va).eraseDups
    let tlbOf (n : Need) : Option Tlb := match r.2.lookup (vpnOf n.va) with | some (.found t) => some t | _ => none
    let lack := needs.filter fun n => match tlbOf n with | some t => t.missing n.rights != 0 | none => false
    let grant := needs.filter fun n => match tlbOf n with | some t => t.gr | none => false
    let a := lowest (lack.map (·.va))
    let g := lowest (grant.map (·.va))
    if !lack.isEmpty then
      let same := lack.filter fun n => tlbOf n == (lack.find? (·.va == a)).bind tlbOf
      r.1.trapRun i act ⟨6, a, (orAll (same.map fun n =>
        match tlbOf n with | some t => t.missing n.rights | none => 0)).setWidth 32⟩
    else if !grant.isEmpty then r.1.trapRun i act ⟨7, g, 0⟩
    else
      let away := r.2.flatMap (·.2.away)
      let missed := r.2.filterMap fun q =>
        match q.2 with
        | .miss c => some (lowest ((needs.filter fun n => vpnOf n.va == q.1).map (·.va)),
            orAll ((needs.filter fun n => vpnOf n.va == q.1).map (·.rights)), c)
        | _ => none
      if !away.isEmpty then x.askWait away
      else if missed.isEmpty then
        go r.1 ((r.2.filterMap fun q => match q.2 with | .found t => some t | _ => none).eraseDups)
      else r.1.parkRun i act missed

/-- The three lines of a record. -/
def recLines (ra : BitVec 57) : List (BitVec 57) := [ra, ra + 64, ra + 128]

/-- Of the lines of a record that are refused, the one whose trap is taken: the first that lacks the right, else the first
that is granted away (R32, R159). -/
def recordRefusal (bs : List (BitVec 57 × Nat × Word)) : Option (BitVec 57 × Nat × Word) :=
  match bs.find? (·.2.1 == 6) with
  | some b => some b
  | none => bs.head?

/-- Fetch the record (R209, R216, R218).  A cached entry is used where there is one, with no further check of its lines
(log 19); entries leave the cache, and their lines change, at free times in `execCacheAge` (R216). -/
def Ctx.withRecord (x : Ctx) (i : Issue) (act : List Nat) (ra : BitVec 57) (go : Ctx → ShapeRec → State) : State :=
  match x.core.rcache.find? fun e => e.proc == x.team.proc && e.ra == ra with
  | some e => go x e.rcd
  | none =>
    let r := x.lines (recLines ra)
    let away := r.2.flatMap (·.2.away)
    let bad (l : BitVec 57) : Option (Nat × Word) :=
      match r.2.lookup l with | some (.found t) => t.refuses 1 | _ => none
    let cause (l : BitVec 57) : Option Nat :=
      match r.2.lookup l with | some (.miss c) => some c | _ => none
    let onRec (k : FaultKey) : List (BitVec 57) := (recLines ra).filter fun l => vpnOf l == k.vpn
    if !away.isEmpty then x.askWait away else
    let fails := (recLines ra).any fun l => (bad l).isSome || (cause l).isSome
    match x.denied act with
    | some (k, m) =>
      if fails && !(onRec k).isEmpty then x.trapRun i act ⟨6, lowest (onRec k), m.setWidth 32⟩
      else if fails then x.trapRun i act ⟨6, ra, m.setWidth 32⟩
      else go r.1 (BitVec.ofNat 1536 (natLE ((recLines ra).flatMap fun l => lineBytes r.1 r.2 l)))
    | none =>
      match recordRefusal ((recLines ra).filterMap fun l => (bad l).map fun b => (l, b)) with
      | some (l, b) => r.1.trapRun i act ⟨b.1, l, b.2⟩
      | none =>
        let ms := (recLines ra).filterMap fun l => (cause l).map fun c => (l, (1 : BitVec 3), c)
        if !ms.isEmpty then r.1.parkRun i act ms
        else
          let keys := (recLines ra).filterMap fun l => keyOfLine r.1 r.2 l
          match r.1.readWaits (keys.flatMap fun k => (List.range 64).map (k + ·)) false with
          | some s => s
          | none =>
            let rec_ := BitVec.ofNat 1536 (natLE ((recLines ra).flatMap fun l => lineBytes r.1 r.2 l))
            go ((r.1.modCore fun k => { k with rcache := fill 64 ⟨x.team.proc, ra, rec_, keys, x.team.part⟩ k.rcache }).modState
              (·.ages x.core.id)) rec_
where
  keyOfLine (y : Ctx) (tr : List (BitVec 57 × Walk)) (l : BitVec 57) : Option Nat :=
    match tr.lookup l with
    | some (.found t) => y.s.keyUnder t l
    | _ => none
  lineBytes (y : Ctx) (tr : List (BitVec 57 × Walk)) (l : BitVec 57) : List Byte :=
    match keyOfLine y tr l with
    | some a => (List.range 64).map fun k => y.s.coreRead y.core y.team.part (a + k)
    | none => List.replicate 64 0

/-- The engine has the copy: it may move some of its elements before it lands, each time at a free time (R219; log 57). -/
def State.engine (s : State) (c : CoreId) (team copy : Nat) : State :=
  (s.later (.copyLand c team copy)).later (.copyMove c team copy)

/-- Hand a copy to its engine: the tag becomes busy, the counter goes up, and an outbound copy's entry gates it in the
hold-back buffer (R218, R224, R283). -/
def Ctx.launchCopy (x : Ctx) (i : Issue) (act : List Nat) (f : XForm) (cls : OpClass) (out : Bool) (c : Copy) : State :=
  let id := x.s.nextId
  let tag := if f.tv then some f.tag.toNat else none
  let c1 := { c with
    id := id, wid := x.w.wid, op := id, tag := tag, bar := if f.bv then some f.bar.toNat else none
    heat := x.heatNum, gate := out }
  let y := ((x.modWave Wave.stored).raise { id := id, cls := cls, out := out }).modTeam fun t =>
    { t with
      copies := t.copies ++ [c1]
      tags := if f.tv then t.tags &&& ~~~((1 : DWord) <<< f.tag.toNat) else t.tags
      busy := if f.tv then t.busy ||| ((1 : DWord) <<< f.tag.toNat) else t.busy }
  let z := if out then y.held (y.opRef id) (.copy x.w.team id) 1 else y.modState (·.engine x.w.core x.w.team id)
  z.next.close (i.cost act) 0

def issueOfX (f : XForm) (reads : List Reg) : Issue := { g := f.g, uniform := true, reads := reads }

/-! Copies that take a record (R217 to R221). -/

/-- The working copy with its MOD adjustments (R218). -/
def adjust (x : Ctx) (f : XForm) (r : ShapeRec) : Win :=
  let w := Win.ofRec r
  let k := f.bits 1 3
  let w1 := if f.mod.getLsbD 0 then { w with wst := w.wst.modify k (· + (x.sword f.b).toInt) } else w
  if f.mod.getLsbD 4 then
    let n : Int := (x.sword f.c).toNat
    { w1 with spa := w1.spa + n, sps := if w.isBx then w1.sps + n else w1.sps }
  else w1

/-- The lowest address that `n` bytes from `v` on need on each page that they touch. -/
def bytesNeeds (rights : BitVec 3) (v : BitVec 57) (n : Nat) : List Need :=
  let last := v + BitVec.ofNat 57 (n - 1)
  ⟨v, rights⟩ :: if vpnOf last = vpnOf v then [] else [⟨vpnOf last ++ (0 : BitVec 12), rights⟩]

/-- The addresses that a window's inside units and their scale pairs need. -/
def winNeeds (w : Win) (idx : Option (List Word)) (rights : BitVec 3) : List Need :=
  let of_ (n : Nat) (u : Win.Unit_) : List Need :=
    match u.va with
    | some v => bytesNeeds rights v n
    | none => []
  (w.unitsOf idx).flatMap (of_ w.memBytes) ++ (w.pairsOf idx).flatMap (of_ 2)

/-- The pages of a copy as the process maps them. -/
def needPages (x : Ctx) (needs : List Need) : List (BitVec 45 × Walk) :=
  (x.pages (needs.map fun n => vpnOf n.va).eraseDups).2

/-- Distinct pages, each counted at the size at which the process maps it (R215); one that misses counts as 4 KiB. -/
def pageCount (x : Ctx) (needs : List Need) : Nat :=
  ((needPages x needs).map fun q =>
    match q.2 with
    | .found t => (t.vpn, t.sz)
    | _ => (q.1, 0)).eraseDups.length

def leastOf (l : List Nat) : Option Nat :=
  match l with
  | [] => none
  | a :: r => some (r.foldl min a)

/-- The faults of a working copy but for its page count (R215, R233). -/
def formFaults (x : Ctx) (w : Win) (idx : Option (List Word)) (extra : List Nat) : List Nat :=
  let fields := w.fieldFaults ++ extra
  fields ++ (if fields.any fun a => a == 0 || a == 4 then [] else w.placeFaults (w.rowCount idx) x.team.sz)

/-- A fault at WEXT0 or below stands without a count of the pages, which WEXT0 reports (log 32). -/
def faultsFirst (bad : List Nat) : Bool := bad.any (decide <| · ≤ 768)

/-- The page tables that the count of the pages waits for (R353, R412, R423). -/
def countWaits (x : Ctx) (w : Win) (idx : Option (List Word)) (extra : List Nat) (rights : BitVec 3) : List Nat :=
  if faultsFirst (formFaults x w idx extra) then [] else (needPages x (winNeeds w idx rights)).flatMap (·.2.away)

/-- The RECORD fault of a working copy, if any: the least AUX of all that hold (R215, R233).  The page count, which WEXT0
reports, is taken where no fault stands at WEXT0 or below (log 32). -/
def recordFault (x : Ctx) (w : Win) (idx : Option (List Word)) (extra : List Nat) (rights : BitVec 3) : Option Nat :=
  let bad := formFaults x w idx extra
  if faultsFirst bad then leastOf bad
  else if 1024 < pageCount x (winNeeds w idx rights) then some 768
  else leastOf bad

/-- A record-taking copy from its fetch on.  GATHR's list is checked for ALIGN and BOUNDS before a line of the record is
translated, since R32 puts these causes before ACCESS and R31 a trap before a miss. -/
def recordCopy (f : XForm) (ins : Instr) (out : Bool) (rights : BitVec 3) (extra : Win → List Nat)
    (idxOf : Ctx → Except Trap (Option (List Word))) (reads : List Reg) (s : State) : Out :=
  let i := issueOfX f (regsOf f.a true true ++ reads)
  begin_ s i fun x act =>
    if x.copyHeld f .cp out then x.hold
    else
      let ra : BitVec 57 := (x.spair f.a).setWidth 57
      if ra.toNat % 64 ≠ 0 then x.trapRun i act ⟨5, ra, 64⟩
      else
        match idxOf x with
        | .error tr => x.trapRun i act tr
        | .ok idx =>
          x.withRecord i act ra fun y r =>
            let w := adjust y f r
            match countWaits y w idx (extra w) rights, recordFault y w idx (extra w) rights with
            | a :: as, _ => y.askWait (a :: as)
            | [], some a => y.trapRun i act ⟨8, ra, BitVec.ofNat 32 a⟩
            | [], none =>
              y.withPins i act (recLines ra) (winNeeds w idx rights) fun z pins =>
                if out && !z.holdRoom 1 then z.holdFor 8
                else z.launchCopy i act f .cp out
                  { id := 0, wid := 0, op := 0, ins := ins, rcd := w.r, wst := w.wst, spa := w.spa, sps := w.sps
                    idx := idx.getD [], pins := pins, len := w.footprint idx }

def shapeReads (f : XForm) : List Reg :=
  (if f.mod.getLsbD 0 then [.s f.b.toNat] else []) ++ (if f.mod.getLsbD 4 then [.s f.c.toNat] else [])

/-- TCOPY (R218, R219). -/
def execTcopy (f : XForm) (s : State) : Out :=
  recordCopy f (.tcopy f) false 1 (fun _ => []) (fun _ => .ok none) (shapeReads f) s

/-- TSTORE (R218, R219). -/
def execTstore (f : XForm) (s : State) : Out :=
  recordCopy f (.tstore f) true 2 (fun _ => []) (fun _ => .ok none) (shapeReads f) s

/-- TRED (R218, R220). -/
def execTred (f : XForm) (s : State) : Out :=
  recordCopy f (.tred f) true 2 Win.tredFaults (fun _ => .ok none) (shapeReads f) s

/-- GATHR's index list, read once at issue (R221). -/
def gathrIndices (f : XForm) (x : Ctx) : Except Trap (Option (List Word)) :=
  let b := (x.sword f.b).toNat
  let n := (x.sword f.c).toNat
  if b % 4 ≠ 0 then .error ⟨5, BitVec.ofNat 57 b, 4⟩
  else if x.team.sz < b + 4 * n ∨ 1024 < n then .error ⟨4, BitVec.ofNat 57 b, 0⟩
  else .ok (some ((List.range n).map fun j => BitVec.ofNat 32 (memNat x.team.sp (b + 4 * j) 4)))

/-- GATHR (R221). -/
def execGathr (f : XForm) (s : State) : Out :=
  recordCopy f (.gathr f) false 1 Win.gathrFaults (gathrIndices f) [.s f.b.toNat, .s f.c.toNat] s

/-! Copies through a buffer record (R222, R270). -/

/-- The 16-byte pieces of a copy: the offset into the copy, and what R158 leaves of it. -/
def pieces (b : BufRec) (buf o n : Nat) : List (Nat × Checked) :=
  (List.range (n / 16)).map fun k => (16 * k, checkAcc b buf ((o + 16 * k : Nat) : Int) 16 false)

/-- The bytes of the pieces: each by its place in the copy and its address, none for one out of range. -/
def pieceBytes (ps : List (Nat × Checked)) : List (Nat × Option (BitVec 57)) :=
  ps.flatMap fun q =>
    match q.2 with
    | .go bs => bs.mapIdx fun k v => (q.1 + k, v)
    | _ => (List.range 16).map fun k => (q.1 + k, none)

def pieceNeeds (ps : List (Nat × Checked)) (rights : BitVec 3) : List Need :=
  ((pieceBytes ps).filterMap (·.2)).map fun v => ⟨v, rights⟩

def firstTrap (ps : List (Nat × Checked)) : Option Trap :=
  ps.findSome? fun q => match q.2 with | .trap t => some t | _ => none

/-- BCOPY (R222). -/
def execBcopy (f : XForm) (s : State) : Out :=
  let m := f.bits 0 4
  let out := f.mod.getLsbD 4
  let i := issueOfX f [.b m, .s f.a.toNat, .s f.b.toNat, .s f.c.toNat]
  begin_ s i fun x act =>
    if x.copyHeld f .cp out then x.hold
    else
      let b := x.wave.breg m
      let o := (x.sword f.a).toNat
      let a := (x.sword f.b).toNat
      let n := (x.sword f.c).toNat
      let rights : BitVec 3 := if out then 2 else 1
      if (bufBase b + o) % 16 ≠ 0 ∨ a % 16 ≠ 0 ∨ n % 16 ≠ 0 then
        x.trapRun i act ⟨5, BitVec.ofNat 57 (bufBase b + o), 16⟩
      else if x.team.sz < a + n then x.trapRun i act ⟨4, BitVec.ofNat 57 a, 0⟩
      else
        let ps := pieces b m o n
        match firstTrap ps with
        | some tr => x.trapRun i act tr
        | none =>
          x.withPins i act [] (pieceNeeds ps rights) fun z pins =>
            if out && !z.holdRoom 1 then z.holdFor 8
            else z.launchCopy i act f .cp out
              { id := 0, wid := 0, op := 0, ins := .bcopy f, spa := a, buf := b, off := x.sword f.a, pins := pins
                len := n }

/-- The copies in a die's DCOPY queue (R270): every DCOPY of the die that has not landed, those still gated in a hold-back buffer
among them (log 98, DESIGN CHOICE). -/
def State.dcopies (s : State) (die : Nat) : Nat :=
  ((s.cores.filter fun k => k.id.die == die).flatMap fun k => k.teams.flatMap fun t =>
    t.copies.filter fun c => match c.ins with | .dcopy _ => true | _ => false).length

/-- DCOPY (R269, R270); its flag is an atomic, which needs the rights to read and to write (R344; log 90, DEDUCED). -/
def execDcopy (f : XForm) (s : State) : Out :=
  let m := f.bits 0 4
  let fb := f.bits 4 4
  let nf := f.mod.getLsbD 8
  let i := issueOfX f ([.b m, .s f.a.toNat, .s f.b.toNat, .s f.c.toNat]
    ++ (if nf then [] else [.b fb, .s (f.a.toNat + 1)]))
  begin_ s i fun x act =>
    if x.copyHeld f .cp true || decide (256 ≤ x.s.dcopies x.w.core.die) then x.hold
    else
      let b := x.wave.breg m
      let fr := x.wave.breg fb
      let o := (x.sword f.a).toNat
      let fo := (x.sword (f.a + 1)).toNat
      let a := (x.sword f.b).toNat
      let n := (x.sword f.c).toNat
      let ps := pieces b m o n
      let flag : Checked := if nf then .drop else checkAcc fr fb fo 4 true
      if (bufBase b + o) % 16 ≠ 0 ∨ a % 16 ≠ 0 ∨ n % 16 ≠ 0 then
        x.trapRun i act ⟨5, BitVec.ofNat 57 (bufBase b + o), 16⟩
      else if !nf && decide ((bufBase fr + fo) % 4 ≠ 0) then
        x.trapRun i act ⟨5, BitVec.ofNat 57 (bufBase fr + fo), 4⟩
      else if x.team.sz < a + n then x.trapRun i act ⟨4, BitVec.ofNat 57 a, 0⟩
      else
        match firstTrap (ps ++ [(0, flag)]) with
        | some tr => x.trapRun i act tr
        | none =>
          x.withPins i act [] (pieceNeeds ps 2 ++ pieceNeeds [(0, flag)] 3) fun z pins =>
            if !z.holdRoom 1 then z.holdFor 8
            else z.launchCopy i act f .cp true
              { id := 0, wid := 0, op := 0, ins := .dcopy f, spa := a, buf := b, off := x.sword f.a, fbuf := fr
                foff := x.sword (f.a + 1), pins := pins, len := n }

/-! ACOPY (R223). -/

/-- A tile element's bytes in scratchpad. -/
def acopyBytes (fmt : Nat) : Nat := Win.fmtBytes fmt

/-- ACOPY (R223): a tile at or above the team's ACC is ILLEGAL_OP (R146). -/
def execAcopy (f : XForm) (s : State) : Out :=
  let i := issueOfX f [.s f.a.toNat]
  begin_ s i fun x act =>
    if x.team.acc ≤ f.bits 0 3 then x.trapRun i act ⟨1, 0, hi32 (f.toWord 0x06)⟩
    else if x.copyHeld f .mx false then x.hold
    else
      let a := (x.sword f.a).toNat
      let n := 4096 * acopyBytes (f.bits 4 4)
      if a % 16 ≠ 0 then x.trapRun i act ⟨5, BitVec.ofNat 57 a, 16⟩
      else if x.team.sz < a + n then x.trapRun i act ⟨4, BitVec.ofNat 57 a, 0⟩
      else x.launchCopy i act f .mx false { id := 0, wid := 0, op := 0, ins := .acopy f, spa := a, len := n }

/-- RFENCE (R216). -/
def execRfence (f : XForm) (s : State) : Out :=
  let one := f.mod.getLsbD 0
  let i := issueOfX f (if one then regsOf f.a true true else [])
  begin_ s i fun x act =>
    let ra : BitVec 57 := (x.spair f.a).setWidth 57
    (x.modCore fun k => { k with rcache := k.rcache.filter fun e =>
      !(e.proc == x.team.proc && (!one || e.ra == ra)) }).next.close (i.cost act) 0

/-! Landing (R219, R225). -/

def Copy.win (c : Copy) : Win := ⟨c.rcd, c.wst, c.spa, c.sps⟩

def Copy.idxList (c : Copy) : Option (List Word) := match c.ins with | .gathr _ => some c.idx | _ => none

/-- A pinned byte's physical key. -/
def State.pinKey (s : State) (proc : Nat) (c : Copy) (va : BitVec 57) : Option Nat :=
  match c.pins.find? (·.hits proc va) with
  | some t => s.keyUnder t va
  | none => none

/-- What a copy's engine moves: bytes of scratchpad, bytes of memory, the words of a tile, and the memory it touches; `words` are
the words of its tile that an ACOPY keeps for the moves to come. -/
structure Moves where
  sp : List Host.Cell := []
  mem : List Host.Cell := []
  tile : Option (Nat × List Word) := none
  touched : List Nat := []
  words : List (Option Word) := []

/-- A team's tiles with the words moved. -/
def Moves.onTiles (m : Moves) (tiles : List (List Word)) : List (List Word) :=
  match m.tile with
  | some (n, ws) => putAt 8 [] n ws tiles
  | none => tiles

/-- Writes of outbound bytes. -/
def outCells (key : BitVec 57 → Option Nat) (va : BitVec 57) (bs : List Byte) : List Host.Cell :=
  (bs.mapIdx fun k b => (key (va + BitVec.ofNat 57 k)).map fun a => (a, b)).filterMap id

def inNat (rd : Nat → Byte) (key : BitVec 57 → Option Nat) (va : BitVec 57) (n : Nat) : Nat :=
  natLE ((List.range n).map fun k => match key (va + BitVec.ofNat 57 k) with | some a => rd a | none => 0)

def touchedOf (key : BitVec 57 → Option Nat) (n : Nat) (us : List Win.Unit_) : List Nat :=
  us.flatMap fun u => match u.va with
    | some v => (List.range n).filterMap fun k => key (v + BitVec.ofNat 57 k)
    | none => []

/-- The elements of a window in their order: its units, and behind them its scale pairs. -/
def Win.elems (w : Win) (idx : Option (List Word)) : List (Unit_ × Bool) :=
  ((w.unitsOf idx).map fun u => (u, false)) ++ (w.pairsOf idx).map fun u => (u, true)

def winIn (sel : Nat → Bool) (rd : Nat → Byte) (key : BitVec 57 → Option Nat) (w : Win) (idx : Option (List Word)) : Moves :=
  let es := pickBy sel (w.elems idx)
  let n (pair : Bool) : Nat := if pair then 2 else w.memBytes
  { sp := es.flatMap fun e =>
      let x := match e.1.va with | some v => inNat rd key v (n e.2) | none => if e.2 then w.fillPair else w.fillUnit
      cellsAt e.1.sp (if e.2 then bytesLE 2 x else bytesLE w.spBytes (w.toSp x))
    touched := es.flatMap fun e => touchedOf key (n e.2) [e.1] }

/-- Of two elements of one TSTORE that lie on the same bytes, the later one's are written last (R219): an element that is moved
after a later one leaves that one's bytes. -/
def winOut (sel : Nat → Bool) (moved : Nat) (sp : List Host.Cell) (key : BitVec 57 → Option Nat) (w : Win) : Moves :=
  let cells (e : Win.Unit_ × Bool) : List Host.Cell :=
    match e.1.va with
    | some v => outCells key v (if e.2 then bytesLE 2 (memNat sp e.1.sp 2) else bytesLE w.memBytes (w.toMem (memNat sp e.1.sp w.spBytes)))
    | none => []
  let all := (w.elems none).mapIdx fun i e => (i, e)
  let hidden (i : Nat) (a : Nat) : Bool :=
    decide (2 ^ i ≤ moved) && all.any fun f => decide (i < f.1) && moved.testBit f.1 && (cells f.2).any (·.1 == a)
  let es := all.filter fun e => sel e.1
  { mem := es.flatMap fun e => (cells e.2).filter fun c => !hidden e.1 c.1
    touched := es.flatMap fun e => touchedOf key (if e.2.2 then 2 else w.memBytes) [e.2.1] }

/-- TRED's combinations, one after another (R220): the elements of one move in the order of their rows and, within a row, of w0;
in what order those of several moves meet a word is free (R78, R219; log 57, DESIGN CHOICE). -/
def winRed (sel : Nat → Bool) (op : Nat) (sp : List Host.Cell) (rd : Nat → Byte) (key : BitVec 57 → Option Nat) (w : Win) : Moves :=
  let us := pickBy sel (w.unitsOf none)
  { mem := us.foldl (fun cs u => match u.va with
      | some v =>
        let old := inNat (fun a => (cellOf cs a).getD (rd a)) key v w.memBytes
        cs ++ outCells key v (bytesLE w.memBytes (w.combine op old (memNat sp u.sp w.spBytes)))
      | none => cs) []
    touched := touchedOf key w.memBytes us }

/-- The bytes of the pieces of a copy through a buffer record that `sel` takes; a piece is an element of it. -/
def bufPick (sel : Nat → Bool) (bs : List (Nat × Option (BitVec 57))) : List (Nat × Option (BitVec 57)) :=
  bs.filter fun q => sel (q.1 / 16)

def pieceTouched (key : BitVec 57 → Option Nat) (bs : List (Nat × Option (BitVec 57))) : List Nat :=
  bs.filterMap fun q => q.2.bind key

def bufIn (rd : Nat → Byte) (key : BitVec 57 → Option Nat) (a : Nat) (bs : List (Nat × Option (BitVec 57))) : Moves :=
  { sp := bs.map fun q => (a + q.1, match q.2.bind key with | some k => rd k | none => 0)
    touched := pieceTouched key bs }

def bufOut (sp : List Host.Cell) (key : BitVec 57 → Option Nat) (a : Nat) (bs : List (Nat × Option (BitVec 57))) : Moves :=
  { mem := bs.filterMap fun q => (q.2.bind key).map fun k => (k, memRead sp (a + q.1))
    touched := pieceTouched key bs }

/-- ACOPY (R223).  Its elements move as those of other copies do in the scratchpad; but it meets its tile wholly before or wholly after
any stream word: `.out` reads the tile as its first element moves, and `.in` writes it as it lands. -/
def acopyMoves (sel : Nat → Bool) (lands : Bool) (f : XForm) (tiles : List (List Word)) (sp : List Host.Cell) (a : Nat)
    (kept : List (Option Word)) : Moves :=
  let n := f.bits 0 3
  let fmt := f.bits 4 4
  let w := acopyBytes fmt
  if f.mod.getLsbD 3 then
    let ws := if kept.isEmpty then tiles.getD n [] else kept.map (·.getD 0)
    { sp := (ws.mapIdx fun k v => if sel k then cellsAt (a + w * k) (bytesLE w
        (if w = 4 then v.toNat else ((fmtOf fmt).convert (f.bits 8 2) (f.mod.getLsbD 10) false (f32.decode v.toNat)).1)) else []).flatten
      words := if lands then [] else ws.map some }
  else
    let read (k : Nat) : Word :=
      let v := memNat sp (a + w * k) w
      BitVec.ofNat 32 (if w = 4 then v else (f32.convert 0 false false ((fmtOf fmt).decode v)).1)
    let had (k : Nat) : Option Word := (kept[k]?).join
    if lands then { tile := some (n, (List.range 4096).map fun k => (had k).getD (read k)) }
    else { words := (List.range 4096).map fun k => if sel k then some (read k) else had k }

/-- What a copy's engine moves of the elements that `sel` takes, as it lands or before that, from the team's scratchpad and tiles
and from memory as it sees it: an inbound copy sees the core's held stores (R284), `rdOut` is what TRED combines with. -/
def State.movesOf (sel : Nat → Bool) (lands : Bool) (s : State) (rdOut : Nat → Byte) (k : Core) (t : Team) (c : Copy) : Moves :=
  let key := s.pinKey t.proc c
  let rdIn := s.coreRead k t.part
  let bs := bufPick sel (pieceBytes (pieces c.buf 0 c.off.toNat c.len))
  match c.ins with
  | .tcopy _ => winIn sel rdIn key c.win none
  | .gathr _ => winIn sel rdIn key c.win (some c.idx)
  | .tstore _ => winOut sel c.moved t.sp key c.win
  | .tred f => winRed sel (f.bits 5 2) t.sp rdOut key c.win
  | .bcopy f => if f.mod.getLsbD 4 then bufOut t.sp key c.spa.toNat bs else bufIn rdIn key c.spa.toNat bs
  | .dcopy _ => bufOut t.sp key c.spa.toNat bs
  | .acopy f => acopyMoves sel lands f t.tiles t.sp c.spa.toNat c.words
  | _ => {}

/-- The engine has yet to move element `i`. -/
def Copy.left (c : Copy) (i : Nat) : Bool := !c.moved.testBit i

/-- Every element that the engine has yet to move. -/
def State.moves (s : State) (rdOut : Nat → Byte) (k : Core) (t : Team) (c : Copy) : Moves := s.movesOf c.left true rdOut k t c

/-- The undo-log line of each element that a copy writes into the scratchpad, in the elements' order (R280). -/
def Copy.elemLines (c : Copy) (team : Nat) : List LogKey :=
  let spad (a : Nat) : LogKey := .spad team (a / 64)
  match c.ins with
  | .tcopy _ => (c.win.elems none).map fun e => spad e.1.sp
  | .gathr _ => (c.win.elems (some c.idx)).map fun e => spad e.1.sp
  | .bcopy f => if f.mod.getLsbD 4 then [] else (List.range (c.len / 16)).map fun k => spad (c.spa.toNat + 16 * k)
  | .acopy f => if f.mod.getLsbD 3 then (List.range 4096).map fun k => spad (c.spa.toNat + acopyBytes (f.bits 4 4) * k) else []
  | _ => []

/-- The lines of the elements that `sel` takes. -/
def Copy.linesOf (c : Copy) (team : Nat) (sel : Nat → Bool) : List LogKey := (pickBy sel (c.elemLines team)).eraseDups

/-- The lines that the rest of a copy and its landing write: those of the elements left, and those of a tile. -/
def Copy.lines (c : Copy) (team : Nat) : List LogKey :=
  c.linesOf team c.left ++ match c.ins with
    | .acopy f => if f.mod.getLsbD 3 then [] else (List.range 256).map fun k => .tile team (256 * f.bits 0 3 + k)
    | _ => []

/-- The three things that happen when a copy lands, in their order (R225). -/
def Team.landed (t : Team) (c : Copy) : Team :=
  let t1 := match c.bar with | some b => t.modBar b (Bar.land c.len) | none => t
  let t2 := match c.tag with
    | some g => { t1 with tags := t1.tags ||| ((1 : DWord) <<< g), busy := t1.busy &&& ~~~((1 : DWord) <<< g) }
    | none => t1
  ({ t2 with copies := t2.copies.filter (·.id != c.id) }).modWave c.wid fun w =>
    ({ w with ops := w.ops.map fun (o : Op) => if o.id == c.op then { o with done := true } else o } : Wave).retireAll

/-- The heat is neither open nor closed, so it is set (R275). -/
def Core.isSet (k : Core) (h : BitVec 32) : Bool :=
  let is (o : Option Heat) : Bool := match o with | some x => x.num == h | none => false
  !(is k.cur || is k.old)

/-- The operation was issued in the open heat. -/
def Core.ofOpen (k : Core) (h : BitVec 32) : Bool := match k.cur with | some x => x.num == h | none => true

/-- A delivery for an operation of a heat that is set leaves a return record of `n` entries (R281). -/
def Core.returnedSet (k : Core) (n : Nat) (r : Return) : Core :=
  { k with cur := k.cur.map fun x => { x with rets := x.rets ++ [(n, r)] } }

/-- One for an operation of an earlier heat than the open one does too (that it does so while that earlier heat is not yet
set is read from R191, log 27). -/
def Core.returned (k : Core) (h : BitVec 32) (n : Nat) (r : Return) : Core := if k.ofOpen h then k else k.returnedSet n r

def Core.copyOf (k : Core) (team copy : Nat) : Option (Team × Copy) :=
  match k.team team with
  | none => none
  | some t => (t.copies.find? (·.id == copy)).map fun c => (t, c)

/-- The flag of a DCOPY survives (R270, R271). -/
def Copy.flag (c : Copy) : Option (BitVec 57) :=
  match c.ins with
  | .dcopy f =>
    if f.mod.getLsbD 8 then none
    else match checkAcc c.fbuf 0 c.foff.toNat 4 true with
      | .go (some v :: _) => some v
      | _ => none
  | _ => none

/-- The elements whose lines the undo log holds already or has free entries for (R282). -/
def Core.logFits (k : Core) (ls : List LogKey) : Nat → Bool :=
  let had := match k.cur with | some h => h.log | none => []
  let new := ((ls.filter fun q => !had.contains q).eraseDups).take (3072 - (Ctx.heatLoad k.cur + Ctx.heatLoad k.old))
  fun i => match ls[i]? with | some q => had.contains q || new.contains q | none => true

/-- A result of an atomic of the core stands in the L1 over one of the bytes and has yet to leave: a write of the core's engines
there comes after it, in memory as in the L1 (R184, R185). -/
def Core.l1Over (k : Core) (keys : List Nat) : Bool :=
  k.held.any fun h => match h.kind with | .l1 cs => cs.any fun q => keys.contains q.1 | _ => false

/-- The team with a copy changed. -/
def Team.modCopy (t : Team) (copy : Nat) (f : Copy → Copy) : Team := { t with copies := modWhere (·.id == copy) f t.copies }

/-- The elements moved stand in the team's scratchpad and tiles and in memory, with the old lines in the undo log (R219, R280). -/
def State.moveElems (s : State) (k : Core) (t : Team) (m : Moves) (ks : List LogKey) : State × Core × Team :=
  let t1 := { t with sp := memWrites t.sp m.sp, tiles := m.onTiles t.tiles }
  (s.physWrite (some t.part) m.mem, (k.logged ks).setTeam t1, t1)

/-- The copy lands in its team, and an outbound one of a set heat leaves a return record. -/
def State.land (s : State) (k : Core) (t : Team) (c : Copy) : State :=
  let k1 := k.setTeam (t.landed c)
  s.setCore (if c.inbound then k1 else k1.returnedSet 1 (.land t.oid c.id))

/-- What the engine waits for before it moves elements: a region, package or die, a held atomic of the core whose word an
inbound copy reads (R162), or an atomic's result in the core's L1 that an outbound one writes over (R185). -/
def State.engineWaits (s : State) (k : Core) (by_ : Due) (cp : Copy) (touched : List Nat) : Bool :=
  touched.any (s.accessWaits (.event by_)) || (cp.inbound && touched.any fun a => k.atomicHeld a 1)
    || (!cp.inbound && k.l1Over touched)

/-- The copy waits, and says for what: its regions are asked for, atomics of the core on its bytes wait behind it. -/
def State.engineAsks (s : State) (c : CoreId) (team copy : Nat) (by_ : Due) (out : Bool) (touched : List Nat) : State :=
  let s1 := if touched.any (s.accessWaits (.event by_)) then s.askFor touched (.event by_) else s
  if out then s1.modTeam c team (·.modCopy copy fun y => { y with want := touched }) else s1

/-- An element of the copy is moved before its landing: some of those left, of a free choice, where nothing makes the engine wait
(R219; log 57). -/
def State.copyMove (s : State) (c : CoreId) (team copy : Nat) : State :=
  let k := s.core c
  match k.copyOf team copy with
  | none => s
  | some (t, cp) =>
    let by_ : Due := .copyMove c team copy
    let again := s.later by_
    let mask := Config.freeSubset again.ctr
    if cp.gate || cp.stage != 0 then s
    else if k.rollback.isSome || mask == 0 then again
    else
      let sel (i : Nat) : Bool := mask.testBit i && !cp.moved.testBit i
      let rd := s.physRead (some t.part)
      let m := s.movesOf sel false rd k t cp
      let ks := cp.linesOf t.oid sel
      if s.engineWaits k by_ cp m.touched || !k.roomFor ks 0 then again
      else
        let r := again.moveElems k t m ks
        r.1.setCore (r.2.1.setTeam (r.2.2.modCopy copy fun y => { y with moved := y.moved ||| mask, words := m.words }))

/-- COPY_LAND (R219, R225, R271): the engine moves every element that is left, and the copy lands; DCOPY's flag stands between its
data and its landing (log 57).  Where the undo log has no room for all of them, it moves those for which it has (R282). -/
def execCopyLand (c : CoreId) (team copy : Nat) (s : State) : Out :=
  .next <|
    let k := s.core c
    match k.copyOf team copy with
    | none => s
    | some (t, cp) =>
      let by_ : Due := .copyLand c team copy
      let again := s.post 1 by_
      if k.rollback.isSome then again
      else if cp.gate || cp.stage == 1 then s
      else if cp.stage == 2 then (if k.roomFor [] 1 then s.land k t cp else again.modCore c (·.waits 9 s.cycle))
      else
        let rd := s.physRead (some t.part)
        let m := s.moves rd k t cp
        let ks := cp.lines t.oid
        if s.engineWaits k by_ cp m.touched then again.engineAsks c team copy by_ (!cp.inbound) m.touched
        else if !k.roomFor ks (if cp.inbound then 0 else 1) then
          let ls := cp.elemLines t.oid
          let fit := k.logFits ls
          let sel (i : Nat) : Bool := decide (i < ls.length) && cp.left i && fit i
          let moved := (List.range ls.length).foldl (fun x i => if sel i then x ||| 2 ^ i else x) cp.moved
          let m := s.movesOf sel false rd k t cp
          let r := again.moveElems k t m (cp.linesOf t.oid sel)
          if ls.isEmpty then again.modCore c (·.waits 9 s.cycle)
          else
            r.1.setCore ((r.2.1.waits 9 s.cycle).setTeam (r.2.2.modCopy copy fun y => { y with moved := moved, words := m.words }))
        else
          let r := s.moveElems k t m ks
          if cp.flag.isSome then
            (r.1.setCore (r.2.1.setTeam (r.2.2.modCopy copy fun y => { y with stage := 1, want := [] }))).later (.dcopyFlagAdd c team copy)
          else r.1.land r.2.1 r.2.2 cp

/-- DCOPY_FLAG_ADD (R271). -/
def execDcopyFlagAdd (c : CoreId) (team copy : Nat) (s : State) : Out :=
  .next <|
    let k := s.core c
    match k.copyOf team copy with
    | none => s
    | some (t, cp) =>
      match cp.stage, cp.flag.bind (s.pinKey t.proc cp) with
      | 1, some a =>
        let by_ : Due := .dcopyFlagAdd c team copy
        let keys := (List.range 4).map (a + ·)
        if s.engineWaits k by_ cp keys then (s.post 1 by_).engineAsks c team copy by_ true keys
        else
          let v := natLE (keys.map (s.physRead (some t.part))) + 1
          ((s.physWrite (some t.part) (cellsAt a (bytesLE 4 (v % 2 ^ 32)))).setCore
            (k.setTeam (t.modCopy copy fun y => { y with stage := 2, want := [] }))).post 1 (.copyLand c team copy)
      | _, _ => s

end Sys2Proof.Machine
end

