-- ==== Sys2Proof/Machine/Shoot.lean ====
section
/-! DEFINITION. The device's own changes of page tables, and shootdowns (spec/19 R328, R329, R333; spec/20 R340 to R343,
R346, R347). -/

namespace Sys2Proof.Machine

/-! Entries of the page tables (R340, R341, R343). -/

/-- The physical addresses of the entries that a generation may hold for an address, in probing order (R340). -/
def entryPlaces (va : BitVec 57) (sz base lb : Nat) : List Nat :=
  [0, 1, 2].flatMap fun w =>
    let i := (crc32c (BitVec.ofNat 8 w :: bytesLE 8 (va.toNat >>> pageShift sz))).toNat % 2 ^ lb
    (List.range 4).map fun k => base * 4096 + 64 * (w * 2 ^ lb + i) + 16 * k

/-- Places of both generations of a size's table, the current one first. -/
def State.nativePlaces (s : State) (part proc sz : Nat) (va : BitVec 57) (both : Bool) : List Nat :=
  let d := s.txDesc part proc
  let b := 128 * (sz + 1)
  if hasBit d (b + 45) then
    entryPlaces va sz (bitsNat d b 40) (bitsNat d (b + 40) 5)
      ++ (if both && hasBit d (b + 93) then entryPlaces va sz (bitsNat d (b + 48) 40) (bitsNat d (b + 88) 5) else [])
  else []

/-- The address of the radix entry at the leaf level of a page size, while the tables above it exist. -/
def State.radixPlace (s : State) (part : Nat) (sz : Nat) (va : BitVec 57) (table : Nat) :
    List (Nat × Option Nat) → Option Nat
  | [] => none
  | (lo, leaf) :: ls =>
    let a := table * 4096 + 8 * bitsNat va lo 9
    if leaf = some sz then some a
    else
      let e := BitVec.ofNat 64 (s.readPa part a 8)
      if hasBit e 0 && !hasBit e 7 then s.radixPlace part sz va (bitsNat e 12 40) ls else none

def State.isRadix (s : State) (part proc : Nat) : Bool := bitsNat (s.txDesc part proc) 0 2 == 1

/-- The entries that map an address at a page size, each by its physical address and whether it is a radix entry: in a resize both
generations may hold one (R342). -/
def State.entriesOf (s : State) (part proc sz : Nat) (va : BitVec 57) : List (Nat × Bool) :=
  let d := s.txDesc part proc
  if descBad d then []
  else if s.isRadix part proc then
    match s.radixPlace part sz va (bitsNat d 12 40) radixLevels with
    | some a => if s.readPa part a 8 % 2 = 1 then [(a, true)] else []
    | none => []
  else
    ((s.nativePlaces part proc sz va true).filter fun a => nativeMatches sz va (BitVec.ofNat 128 (s.readPa part a 16))).map
      fun a => (a, false)

/-- Set or clear one bit of an entry, as one atomic update. -/
def State.setEntryBit (s : State) (part : Nat) (e : Nat × Bool) (radixBit nativeBit : Nat) (v : Bool) : State :=
  let n := if e.2 then 8 else 16
  let k := if e.2 then radixBit else nativeBit
  let old := s.readPa part e.1 n
  let new := if v then (if old.testBit k then old else old + 2 ^ k) else (if old.testBit k then old - 2 ^ k else old)
  s.physWrite (some part) (cellsAt (s.domKey e.1) (bytesLE n new))

/-- A page becomes GRANTED in a process's tables (R328). -/
def State.markGranted (s : State) (part proc sz : Nat) (va : BitVec 57) : State :=
  (s.entriesOf part proc sz va).foldl (fun s e => s.setEntryBit part e 60 107 true) s

/-- A grant that fails leaves the sender's mapping as it was (R328). -/
def State.unmarkGranted (s : State) (part proc sz : Nat) (va : BitVec 57) : State :=
  (s.entriesOf part proc sz va).foldl (fun s e => s.setEntryBit part e 60 107 false) s

/-- A page's mapping is removed. -/
def State.unmapPage (s : State) (part proc sz : Nat) (va : BitVec 57) : State :=
  (s.entriesOf part proc sz va).foldl (fun s e => s.setEntryBit part e 0 45 false) s

/-- A page is mapped in a free place of the process's tables; where they have none, the first access to the page misses
and the service cores map it (log 22). -/
def State.mapPage (s : State) (part proc sz : Nat) (va : BitVec 57) (pa : Nat) (rights : BitVec 3) : State :=
  let d := s.txDesc part proc
  let pfn := pa / 4096
  if descBad d then s
  else if s.isRadix part proc then
    match s.radixPlace part sz va (bitsNat d 12 40) radixLevels with
    | some a =>
      let e := 1 + (if hasBit rights 1 then 2 else 0) + (if sz = 0 then 0 else 128) + pfn * 4096
        + (if hasBit rights 2 then 0 else 2 ^ 63)
      s.physWrite (some part) (cellsAt (s.domKey a) (bytesLE 8 e))
    | none => s
  else
    match (s.nativePlaces part proc sz va false).find? fun a => !(s.readPa part a 16).testBit 45 with
    | some a =>
      let e := (pageVpn sz va).toNat + 2 ^ 45 + sz * 2 ^ 46 + pfn * 2 ^ 64 + rights.toNat * 2 ^ 104
      s.physWrite (some part) (cellsAt (s.domKey a) (bytesLE 16 e))
    | none => s

/-! Shootdowns (R347). -/

def pageBytes (sz : Nat) : Nat := 2 ^ pageShift sz

/-- A shootdown covers an entry: it is the process's, and overlaps the range. -/
def Shoot.covers (x : Shoot) (t : Tlb) : Bool :=
  let lo := t.vpn.toNat * 4096
  t.proc == x.proc && (x.all ||
    (decide (lo < x.va.toNat + x.np * pageBytes x.sz) && decide (x.va.toNat < lo + pageBytes t.sz)))

/-- An operation's atomic results stand in the core's L1 and have yet to reach memory. -/
def Core.inL1 (k : Core) (r : OpRef) : Bool := k.held.any fun h => h.ref == r && match h.kind with | .l1 _ => true | _ => false

/-- The inbound copies that a rollback of the core would start again, through the translations that they hold (R272, R291). -/
def Core.restartable (k : Core) (proc : Nat) : List OpRef :=
  ((k.old.toList ++ k.cur.toList).flatMap fun h => (h.snap ++ h.admitted).filter (·.proc == proc)).flatMap fun t =>
    (t.copies.filter Copy.inbound).map fun c => ⟨t.oid, c.wid, c.op⟩

/-- Accesses of a core's waves of the process that may have been translated and are not yet performed at their home (R329):
every load, store, atomic and copy that is not complete, each atomic whose result still stands in the L1, and each copy that an unset
heat may bring back. -/
def Core.inFlight (k : Core) (proc : Nat) : List OpRef :=
  ((k.teams.filter fun t => t.proc == proc).flatMap fun t => t.waves.flatMap fun w =>
    (w.ops.filter fun o => !o.done && (o.cls == .ld || o.cls == .st || o.cls == .cp)).map fun o => ⟨t.oid, w.wid, o.id⟩)
  ++ ((k.held.map (·.ref)).filter k.inL1).eraseDups ++ k.restartable proc

def State.pcluHas (s : State) (p : Nat) (c : CoreId) : Bool :=
  (bitsNat (s.mreg (partBlock p + 0x100 + 8 * c.die)) 0 24).testBit c.cluster

/-- A shootdown reaches every cluster of the partition: matching entries go, with the records of the process and the code that the core
keeps by translations of before, and each core is to acknowledge. -/
def State.startShoot (s : State) (part : Nat) (x : Shoot) : State :=
  let id := s.nextId
  let ks := s.cores.filter fun k => s.pcluHas part k.id && !k.inReset
  let y := { x with id := id, acks := ks.map fun k => (k.id, k.inFlight x.proc) }
  let s1 : State := { s with
    nextId := id + 1
    shoots := s.shoots ++ [y]
    cores := s.cores.map fun k => if s.pcluHas part k.id then { k with
      tlb := k.tlb.filter fun t => !x.covers t, rcache := k.rcache.filter (·.proc != x.proc), code := [] } else k
    l2 := s.l2.filter fun e => !(s.pcluHas part ⟨e.1 / 24, e.1 % 24, 0⟩ && x.covers e.2) }
  match ks with
  | [] => s1.later (.shootdownAck ⟨0, 0, 0⟩ id)
  | _ => ks.foldl (fun s k => s.later (.shootdownAck k.id id)) s1

/-- The device's own change of a page's mapping, or of its GRANTED bit where the grant has failed, and the shootdown that it takes
(R328, R333, R346); where the table is not to be had, it waits (R353, R412, R423). -/
def State.tableEdit (s : State) (unmap : Bool) (part : Nat) (x : Shoot) : State :=
  let d : Due := .tableEdit unmap part x
  s.ownFirst (s.walk part x.proc x.va (some (.event d))).away d <|
    (if unmap then s.unmapPage part x.proc x.sz x.va else s.unmarkGranted part x.proc x.sz x.va).startShoot part x

end Sys2Proof.Machine
end

