-- ==== Sys2Proof/Machine/Objects.lean ====
section
/-! DEFINITION. The object table, handles, references, wait sets, and the results of class-6 requests
(spec/18_kernel_objects.md R296 to R315; spec/15 R256; spec/25 R417; spec/21 R441). -/

namespace Sys2Proof.Machine

/-! Partitions and dies (R262, R356, R420, R441). -/

def pcluReg (p d : Nat) : Nat := partBlock p + 0x100 + 8 * d

def State.pclu (s : State) (p d : Nat) : Nat := bitsNat (s.mreg (pcluReg p d)) 0 24

/-- The partition that holds a cluster. -/
def State.clusterPart (s : State) (d c : Nat) : Option Nat :=
  (List.range 16).find? fun p => (s.pclu p d).testBit c

/-- The clusters of a partition on a die, in ascending order. -/
def State.clusters (s : State) (p d : Nat) : List Nat := (List.range 24).filter fun c => (s.pclu p d).testBit c

def State.die (s : State) (d : Nat) : Die := (s.dies.find? (·.die == d)).getD { die := d }

def State.setDie (s : State) (x : Die) : State := { s with dies := putWhere (·.die == x.die) x s.dies }

def State.modDie (s : State) (d : Nat) (f : Die → Die) : State := s.setDie (f (s.die d))

def State.live (s : State) (d : Nat) : Bool := decide (d < 8) && (s.die d).st == 2

/-- The live dies on which the partition has a cluster. -/
def State.partDies (s : State) (p : Nat) : List Nat := (List.range 8).filter fun d => s.live d && s.pclu p d != 0

/-! Records (R296 to R300): the object table in memory, under the object caches of the dies. -/

def objHome (i : Nat) : Nat := i / 2 ^ 21

/-- The registers of a partition's range of ids on a die (R297), and whether an id lies in it. -/
def oidLo (p d : Nat) : Nat := partBlock p + 0x200 + 16 * d
def oidHi (p d : Nat) : Nat := partBlock p + 0x208 + 16 * d

def State.inRange (s : State) (p i : Nat) : Bool :=
  let k := i % 2 ^ 21
  k != 0 && decide (bitsNat (s.mreg (oidLo p (objHome i))) 0 21 ≤ k)
    && decide (k ≤ bitsNat (s.mreg (oidHi p (objHome i))) 0 21)

/-- The memory key of an id's record (R296). -/
def State.objKey (s : State) (i : Nat) : Nat := s.domKey (bitsNat (s.mreg (dieBlock (objHome i))) 0 52 + 64 * (i % 2 ^ 21))

/-- The partition in whose range of ids an object lies (R297). -/
def State.idPart (s : State) (i : Nat) : Option Nat := (List.range 16).find? fun p => s.inRange p i

/-- The record in memory, as an agent of its partition reads it (R439). -/
def State.recordAt (s : State) (i : Nat) : BitVec 512 :=
  BitVec.ofNat 512 (natLE ((List.range 64).map fun k => s.physRead (s.idPart i) (s.objKey i + k)))

/-- The record as its Crucible fetches it from the table, one of a live object (R297, R298); id 0 of a die names none. -/
def State.fetched (s : State) (i : Nat) : BitVec 512 :=
  if i % 2 ^ 21 = 0 ∨ (s.physRead (s.idPart i) (s.objKey i)).toNat % 16 = 0 then 0 else s.recordAt i

/-- The record that the Crucible serves with: that of its cache, else of the table (R296, R422). -/
def State.obj (s : State) (i : Nat) : BitVec 512 := (s.objs.lookup i).getD (s.fetched i)

/-- The memory that reading these records takes. -/
def State.recordKeys (s : State) (is : List Nat) : List Nat := (is.filter fun i => (s.objs.lookup i).isNone).map s.objKey

/-- The live records of a die's object table in memory. -/
def State.tableRecords (s : State) (d : Nat) : List (Nat × BitVec 512) :=
  let base := s.objKey (d * 2 ^ 21)
  let ids := ((s.mem.filter fun c => decide (base ≤ c.1) && decide (c.1 < base + 2 ^ 27)).map fun c =>
    d * 2 ^ 21 + (c.1 - base) / 64).eraseDups
  (ids.map fun i => (i, s.fetched i)).filter fun o => bitsNat o.2 0 4 != 0

/-- Every live record: those in the caches, and those that only the tables hold. -/
def State.liveObjs (s : State) : List (Nat × BitVec 512) :=
  s.objs ++ ((List.range 8).flatMap s.tableRecords).filter fun o => (s.objs.lookup o.1).isNone

/-- A die's object cache of 32,768 records takes one, in the place of the oldest that has been written back where it is full (R2). -/
def State.cached (s : State) (i : Nat) (r : BitVec 512) : List (Nat × BitVec 512) :=
  let os := s.objs.filter (·.1 != i)
  let full : Bool := decide (32768 ≤ (os.filter fun o => objHome o.1 == objHome i).length)
  (if full then
    match os.find? fun o => objHome o.1 == objHome i && !s.dirty.contains o.1 with
    | some o => os.erase o
    | none => os
  else os) ++ [(i, r)]

/-- A record is written back, as an agent of its partition writes (R439); one that is no object's leaves the cache. -/
def State.writeBack (s : State) (i : Nat) (r : BitVec 512) : State :=
  ({ s with
    objs := if bitsNat r 0 4 = 0 then s.objs.filter (·.1 != i) else s.objs
    dirty := s.dirty.filter (· != i) } : State).physWrite (some (bitsNat r 48 8)) (cellsAt (s.objKey i) (bytesLE 64 r.toNat))

/-- The Crucible changes a record: it writes it back at once, which R296 leaves to it, or where the table's memory is not to be had,
when it is (R353, R412, R423; log 48). -/
def State.putObj (s : State) (i : Nat) (r : BitVec 512) : State :=
  let s1 : State := { s with objs := s.cached i r }
  if s.deviceWaits (s.objKey i) then ({ s1 with dirty := s1.dirty.filter (· != i) ++ [i] } : State).postOnce (.recordBack i)
  else s1.writeBack i r

/-- A record that waited to be written back. -/
def State.recordBack (s : State) (i : Nat) : State :=
  if !s.dirty.contains i then s
  else s.ownFirst [s.objKey i] (.recordBack i) (s.writeBack i (s.obj i))

/-- A field of a record. -/
def fld (r : BitVec 512) (lo len : Nat) : Nat := bitsNat r lo len

def withFld (r : BitVec 512) (lo len v : Nat) : BitVec 512 := setBits r lo (BitVec.ofNat len v)

def State.modObj (s : State) (i : Nat) (f : BitVec 512 → BitVec 512) : State := s.putObj i (f (s.obj i))

def State.setFld (s : State) (i lo len v : Nat) : State := s.modObj i fun r => withFld r lo len v

def objKind (r : BitVec 512) : Nat := fld r 0 4
def objState (r : BitVec 512) : Nat := fld r 4 4
def objOwner (r : BitVec 512) : Nat := fld r 8 24
def objRefs (r : BitVec 512) : Nat := fld r 32 16
def objPart (r : BitVec 512) : Nat := fld r 48 8

/-- A new record's header (R299). -/
def header (kind state owner refs part : Nat) : BitVec 512 :=
  withFld (withFld (withFld (withFld (withFld 0 0 4 kind) 4 4 state) 8 24 owner) 32 16 refs) 48 8 part

def State.setObjState (s : State) (i v : Nat) : State := s.setFld i 4 4 v

def kPROC : Nat := 1
def kTEAM : Nat := 2
def kPORT : Nat := 3
def kWSET : Nat := 4
def kTIMER : Nat := 5
def kGRAPH : Nat := 6
def kWORK : Nat := 7
def kNAME : Nat := 8

/-- A PROC that is not LIVE (R302, R310). -/
def State.dying (s : State) (proc : Nat) : Bool := objKind (s.obj proc) == kPROC && objState (s.obj proc) == 2

/-! Ids (R297). -/

/-- No object has the id; and an id that a KNAME holds is not free (R322). -/
def State.idFree (s : State) (i : Nat) : Bool :=
  objKind (s.obj i) == 0 && !s.reqs.any fun q => match q.keep with | some (_, k) => k == i | none => false

/-- The first free id of a partition's range, from `i` on. -/
def State.freeFrom (s : State) (p : Nat) : (fuel i : Nat) → Option Nat
  | 0, _ => none
  | n + 1, i => if !s.inRange p i then none else if s.idFree i then some i else s.freeFrom p n (i + 1)

/-- The lowest free id of the partition's range on a die. -/
def State.freeId (s : State) (p d : Nat) : Option Nat :=
  let lo := max 1 (bitsNat (s.mreg (oidLo p d)) 0 21)
  s.freeFrom p (2 ^ 21 - lo) (d * 2 ^ 21 + lo)

/-! Handles (R301). -/

def rSEND : Nat := 0
def rRECV : Nat := 1
def rWAIT : Nat := 2
def rARM : Nat := 3
def rCLAIM : Nat := 4
def rDUP : Nat := 5
def rINFO : Nat := 6
def rADMIN : Nat := 7

/-- The address of a handle-table entry. -/
def State.handleKey (s : State) (proc x : Nat) : Nat := fld (s.obj proc) 64 57 % 2 ^ 41 + 8 * x

/-- It is read and written as an agent of the process's partition does (R439). -/
def State.handleEntry (s : State) (proc x : Nat) : DWord :=
  BitVec.ofNat 64 (s.ownNat (objPart (s.obj proc)) (s.handleKey proc x) 8)

def State.putHandle (s : State) (proc x : Nat) (e : DWord) : State :=
  s.physWrite (some (objPart (s.obj proc))) (cellsAt (s.handleKey proc x) (bytesLE 8 e.toNat))

def State.htSize (s : State) (proc : Nat) : Nat := fld (s.obj proc) 128 24

/-- The entry of a valid handle of the process: object id, rights, kind. -/
def State.handle (s : State) (proc : Nat) (h : Word) : Option (Nat × Nat × Nat) :=
  let x := bitsNat h 8 24
  let e := s.handleEntry proc x
  if x != 0 && decide (x < s.htSize proc) && bitsNat e 40 4 != 0 && e.extractLsb' 24 8 == h.extractLsb' 0 8 then
    some (bitsNat e 0 24, bitsNat e 32 8, bitsNat e 40 4)
  else none

/-- An entry that a KNAME holds. -/
def State.handleKept (s : State) (proc x : Nat) : Bool :=
  s.reqs.any fun q => q.proc == proc && match q.keep with | some (k, _) => k == x | none => false

/-- The lowest free entry of a handle table, from `x` on. -/
def State.freeEntry (s : State) (proc : Nat) : (fuel x : Nat) → Option Nat
  | 0, _ => none
  | n + 1, x =>
    if bitsNat (s.handleEntry proc x) 40 4 = 0 && !s.handleKept proc x then some x else s.freeEntry proc n (x + 1)

def State.freeHandle (s : State) (proc : Nat) : Option Nat := s.freeEntry proc (s.htSize proc - 1) 1

/-- The memory that looking for a free entry reads, a region of it at a time, and that taking it writes. -/
def State.newHandleKeys (s : State) (proc : Nat) : List Nat :=
  let last := (s.freeHandle proc).getD (s.htSize proc - 1)
  s.recordKeys [proc] ++ (List.range (8 * last / 2 ^ 21 + 1)).map (fun k => s.handleKey proc (1 + k * 2 ^ 18)) ++ [s.handleKey proc last]

/-- References rise by one. -/
def State.addRef (s : State) (i : Nat) : State := s.setFld i 32 16 (objRefs (s.obj i) + 1)

/-- A new handle in entry `x`, with the entry's generation (R307); the object gains a reference. -/
def State.newHandle (s : State) (proc x obj rights : Nat) : State × Word :=
  let gen := bitsNat (s.handleEntry proc x) 24 8
  let k := objKind (s.obj obj)
  ((s.addRef obj).putHandle proc x (BitVec.ofNat 64 (obj + gen * 2 ^ 24 + rights * 2 ^ 32 + k * 2 ^ 40)),
    BitVec.ofNat 32 (gen + x * 256))

/-! Requests and their answers (R256, R305, R306, R315). -/

def State.req (s : State) (id : Nat) : Option Req := s.reqs.find? (·.id == id)

def State.modReq (s : State) (id : Nat) (f : Req → Req) : State := { s with reqs := modWhere (·.id == id) f s.reqs }

def State.dropReqs (s : State) (p : Req → Bool) : State := { s with reqs := s.reqs.filter fun q => !p q }

/-- The status codes of R306. -/
def stOK : Nat := 0
def stFULL : Nat := 1
def stEMPTY : Nat := 2
def stTIMEOUT : Nat := 3
def stBADHANDLE : Nat := 4
def stNORIGHTS : Nat := 5
def stABSENT : Nat := 6
def stUNAVAILABLE : Nat := 7
def stPOISON : Nat := 8
def stCLASH : Nat := 9

/-- A request is answered: the status word with its detail, the value of s(D+1), and scratchpad bytes; the result sets
out for the team. -/
def State.answerWith (s : State) (id : Nat) (status value : Word) (cells : List Host.Cell) : State :=
  (s.modReq id fun q => { q with stage := .answered status value cells, keep := none }).later (.kernelResultDelivery id)

def State.answer (s : State) (id code detail : Nat) : State :=
  s.answerWith id (BitVec.ofNat 32 (code + 256 * detail)) 0 []

def State.answerOk (s : State) (id : Nat) (value : Word) (cells : List Host.Cell) : State :=
  s.answerWith id 0 value cells

/-! Wait sets (R311). -/

/-- A member that is ready. -/
def objReady (r : BitVec 512) : Bool :=
  match objKind r with
  | 2 => objState r == 4 || objState r == 5
  | 3 => fld r 80 9 != 0
  | 5 => objState r == 3
  | _ => false

/-- The timer whose fire is reported goes on (R302). -/
def State.fireReported (s : State) (i : Nat) : State :=
  if objState (s.obj i) = 3 then s.setObjState i (if fld (s.obj i) 128 64 = 0 then 1 else 2) else s

/-- The index of the next report: the first ready member at or after NEXT. -/
def reportIndex (r : BitVec 512) : Option Nat :=
  ((List.range 64).map fun k => (fld r 216 6 + k) % 64).find? fun i => hasBit r (64 + i) && hasBit r (128 + i)

/-- The object bound at an index of a wait set. -/
def State.memberAt (s : State) (w i : Nat) : Option Nat :=
  (s.liveObjs.find? fun o => (objKind o.2 == 2 || objKind o.2 == 3 || objKind o.2 == 5)
    && fld o.2 448 24 == w && fld o.2 472 6 == i && fld o.2 448 32 != 0).map (·.1)

/-- KWAIT's report: the index, and the wait set moved past it; a timer's READY bit falls with its report. -/
def State.report (s : State) (w : Nat) : Option (Nat × State) :=
  match reportIndex (s.obj w) with
  | none => none
  | some i =>
    let s1 := (s.setFld w 216 6 ((i + 1) % 64)).setFld w 192 24 0
    match s.memberAt w i with
    | some m =>
      if objKind (s.obj m) = 5 then some (i, (s1.fireReported m).setFld w (64 + i) 1 0) else some (i, s1)
    | none => some (i, s1)

/-- A KWAIT that waits at a wait set. -/
def Req.waitsAt (q : Req) (w : Nat) : Bool :=
  q.stage == .pending w && match q.ask with | .kwait _ _ => true | _ => false

/-- The KWAIT that waits at a wait set. -/
def State.waiter (s : State) (w : Nat) : Option Req := s.reqs.find? fun q => q.waitsAt w && q.wdl.isNone

/-- A member's READY bit follows the member; a waiter is answered when one becomes ready. -/
def State.follow (s : State) (i : Nat) : State :=
  let r := s.obj i
  if fld r 448 32 = 0 then s
  else
    let w := fld r 448 24
    let s1 := s.setFld w (64 + fld r 472 6) 1 (if objReady r then 1 else 0)
    match s1.waiter w with
    | none => s1
    | some q =>
      match s1.report w with
      | none => s1
      | some (k, s2) => s2.answer q.id stOK k

/-- A member's binding is dropped (R301, R307). -/
def State.unbound (s : State) (i : Nat) : State :=
  let w := fld (s.obj i) 448 24
  let k := fld (s.obj i) 472 6
  ((s.setFld w (64 + k) 1 0).setFld w (128 + k) 1 0).setFld i 448 32 0

/-! Freeing (R301). -/

/-- The record's KIND becomes 0, and the id is reported to Cupola; a KWAIT at a wait set that is freed goes on to its deadline
(R301, R311). -/
def State.erase (s : State) (i : Nat) : State :=
  let r := s.obj i
  let orphan (q : Req) : Req := if q.waitsAt i && q.wdl.isNone then { q with wdl := some (fld r 224 64) } else q
  { s.setFld i 0 4 0 with freedIds := s.freedIds ++ [i], reqs := if objKind r = kWSET then s.reqs.map orphan else s.reqs }

/-- The window address of a grant slot (R309). -/
def slotVa (r : BitVec 512) (slot sz : Nat) : BitVec 57 := BitVec.ofNat 57 (fld r 192 57 + slot * pageBytes sz)

/-- The shootdown of one page. -/
def pageShoot (proc : Nat) (sz : Nat) (va : BitVec 57) (for_ : ShootFor) : Shoot :=
  { id := 0, proc, all := false, sz, np := 1, va, for_ }

/-- A grant slot is freed: its mapping goes, and a shootdown precedes the clearing of its GUSED bit (R333). -/
def State.freeSlot (s : State) (g : GSlot) : State :=
  s.tableEdit true g.part (pageShoot g.proc g.page.sz g.va (.slot g.port g.slot))

/-- A slot of a freed port: its mapping goes, and its page returns to Cupola behind the shootdown (R333). -/
def State.returnSlot (s : State) (g : GSlot) : State :=
  s.tableEdit true g.part (pageShoot g.proc g.page.sz g.va (.page (some g.page)))

/-- The freeing of a grant slot is under way. -/
def State.slotGoing (s : State) (g : GSlot) : Bool :=
  (s.shoots.any fun x => x.for_ == .slot g.port g.slot)
    || s.agenda.any fun e => match e.2 with | .tableEdit _ _ x => x.for_ == .slot g.port g.slot | _ => false

/-- A shootdown for a slot of a freed port is for no slot. -/
def Shoot.leaves (i : Nat) (x : Shoot) : Shoot :=
  match x.for_ with
  | .slot p _ => if p = i then { x with for_ := .page none } else x
  | _ => x

/-- An onward send of the slot's page is past step 3 (R328, R333). -/
def State.goesOnward (s : State) (g : GSlot) : Bool :=
  s.grants.any fun x => x.marked && x.proc == g.proc && x.page.sz == g.page.sz && x.va == g.va

/-- A freed port's messages are discarded and the pages that they carry return to Cupola; its occupied grant slots are freed,
one that is being freed for an onward grant as that goes, and one whose onward grant is past step 3 with that grant (R301, R333). -/
def State.dropPort (s : State) (i : Nat) : State :=
  let gone := ((s.ports.filter (·.port == i)).flatMap (·.msgs)).filterMap fun m => if m.req.isNone then m.page else none
  let mine := s.gslots.filter (·.port == i)
  let s1 := (mine.filter fun g => !s.slotGoing g && !s.goesOnward g).foldl State.returnSlot s
  { s1 with
    ports := s1.ports.filter (·.port != i)
    gslots := (s1.gslots.filter fun g => g.port != i || (s.goesOnward g && !s.slotGoing g)).map fun g => if g.port = i then { g with port := 0 } else g
    freedPages := s1.freedPages ++ gone
    shoots := s1.shoots.map (Shoot.leaves i)
    agenda := s1.agenda.map fun e => match e.2 with | .tableEdit u p x => (e.1, .tableEdit u p (x.leaves i)) | _ => e }

/-- A freed name leaves the directory and the package's cache (R321, R322). -/
def State.dropName (s : State) (i : Nat) : State :=
  { s with
    dir := s.dir.filter fun e => !(e.pkg == 0 && e.nameId == i)
    names := s.names.filter fun e => !(e.pkg == 0 && e.nameId == i) }

/-- References fall by one, and an object that has none left is freed, with what its freeing drops in turn: a binding's
wait set, a name's port.  A LIVE PROC stays. -/
def State.dropRef : (fuel : Nat) → Nat → State → State
  | 0, _, s => s
  | n + 1, i, s =>
    let r := s.obj i
    let s1 := s.setFld i 32 16 (objRefs r - 1)
    if 1 < objRefs r || (objKind r == kPROC && objState r == 1) then s1
    else
      let bound := fld r 448 32 != 0 && (objKind r == kPORT || objKind r == kTIMER || objKind r == kTEAM)
      let s2 := if bound then s1.unbound i else s1
      let s3 := (if objKind r = kPORT then s2.dropPort i else s2).erase i
      let s3 := if bound then State.dropRef n (fld r 448 24) s3 else s3
      if objKind r = kNAME then State.dropRef n (fld r 64 24) (s3.dropName i)
      else s3

/-- Four steps suffice: a name, its port, the port's wait set. -/
def State.deref (s : State) (i : Nat) : State := State.dropRef 4 i s

/-- A PROC that is DYING with no reference is freed, whichever comes last (R301). -/
def State.freeIfDead (s : State) (i : Nat) : State :=
  if s.dying i && objRefs (s.obj i) == 0 then s.erase i else s

end Sys2Proof.Machine
end

