-- ==== Sys2Proof/Machine/HeatOps.lean ====
section
/-! DEFINITION. Opening and closing a heat (spec/17_heats_rollback.md R275 to R279). -/

namespace Sys2Proof.Machine

/-- D (R278). -/
def heatD : Nat := 224

/-- K of a partition (R279). -/
def State.heatK (s : State) (part : Nat) : Nat := 64 * bitsNat (s.mreg (partBlock part + 0x8)) 0 5

/-- A heat opens on a core that has a resident team, with a snapshot of its teams (R275, R280). -/
def State.openHeat (s : State) (c : CoreId) : State :=
  let k := s.core c
  match k.teams, k.cur with
  | t :: _, none =>
    let num := match k.hmax with | some n => n + 1 | none => 0
    let len := s.heatK t.part
    (s.setCore { k with
      cur := some { num := num, opened := s.cycle, k := len, snap := k.teams }, hmax := some num }).post len (.heatCloseTimeout c)
  | _, _ => s

def Core.holdRoom (k : Core) : Bool := decide ((k.held.map (·.entries)).sum < 1024)

/-- Heat `h` is `num` or an earlier one, in the core's numbering, which wraps (R275). -/
def heatUpTo (h num : BitVec 32) : Bool := decide ((num - h).toNat < 2 ^ 31)

/-- A counter export enters the hold-back buffer once an entry is free, behind the effects of its own heat and before those
of a later one; it is released where its heat is set (R283, R289). -/
def Core.putExports (k : Core) : Core :=
  match k.exports with
  | [] => k
  | e :: es =>
    if k.holdRoom then
      let own (h : Held) : Bool := heatUpTo h.heat e.1
      let free := k.isSet e.1
      let k1 := if free then k.count 7 1 else k
      { k1 with exports := es, held := k.held.filter own ++ [⟨e.1, ⟨0, 0, 0⟩, .perf e.2, 1, free⟩] ++ k.held.filter fun h => !own h }
    else k

/-- The open heat closes and the next one opens in the same cycle (R276), with the export of its counters behind its effects
(R283, R289); it is set after D cycles (R278). -/
def State.closeHeat (s : State) (c : CoreId) : State :=
  let k := s.core c
  match k.cur with
  | none => s
  | some h =>
    let k1 := { k with
      old := some { h with closed := some s.cycle }, cur := none, closeReq := false
      exports := k.exports ++ [(h.num, k.perf)] }
    ((s.setCore k1.putExports).openHeat c).post (heatD + 1) (.heatSet c)

/-- A close under items 2 to 4 of R276 waits until the previous heat is set (R277). -/
def State.requestClose (s : State) (c : CoreId) : State :=
  if (s.core c).old.isNone then s.closeHeat c else s.modCore c fun k => { k with closeReq := true }

/-- An effect of a team as such enters the hold-back buffer (R283). -/
def Core.holdTeam (k : Core) (team : Nat) (kind : HeldKind) : Core :=
  { k with held := k.held ++ [⟨match k.cur with | some h => h.num | none => 0, ⟨team, 0, 0⟩, kind, 1, false⟩] }

end Sys2Proof.Machine
end

