-- ==== Sys2Proof/Machine/Stream.lean ====
section
/-! DEFINITION. The matrix sequencer and its engine (spec/14_matrix_stream.md R235 to R249; spec/04 R71 to R76). -/

namespace Sys2Proof.Machine

/-! The sequencer in hand. -/

structure SeqCtx where
  s : State
  c : CoreId
  core : Core
  team : Team

/-- The focused sequencer, while it runs a stream. -/
def State.seqCtx (s : State) : Option SeqCtx :=
  match s.focus with
  | .seq c oid =>
    match (s.core c).team oid with
    | some t => if t.seq.run then some ⟨s, c, s.core c, t⟩ else none
    | none => none
  | _ => none

namespace SeqCtx

def modSeq (x : SeqCtx) (f : Seq → Seq) : SeqCtx := { x with team := { x.team with seq := f x.team.seq } }

def state (x : SeqCtx) : State := x.s.setCore (x.core.setTeam x.team)

/-- The word in hand is done: the sequencer goes on at `spc`, in `n` cycles. -/
def goto (x : SeqCtx) (spc : WAddr) (n : Nat) : State :=
  (((x.modSeq fun q => { q with spc := spc, word := none }).state).tick n).post 0 (.streamFetch x.c x.team.oid)

def advance (x : SeqCtx) : State := x.goto (x.team.seq.spc + 1) 1

/-- The word waits, with SPC on it. -/
def wait (x : SeqCtx) : State := x.state.tick 1

def m (x : SeqCtx) (n : BitVec 4) : Word := x.team.seq.m.getD n.toNat 0

end SeqCtx

/-- Who records an MSTREAM (R246): the recorder, or the lowest unexited thread of the lowest wave that has not ended. -/
def Team.recorder (t : Team) : Option (Nat × Nat) :=
  let live (w : Wave) : Option (Nat × Nat) :=
    (tids.find? fun k => (w.thread k).life != .exited).map fun k => (w.wid, k)
  let first := t.waves.findSome? live
  match t.seq.recorder with
  | some (w, k) =>
    match t.wave w with
    | some v => if (v.thread k).life != .exited then some (w, k) else first
    | none => first
  | none => first

/-- MSTREAM (R246): the stream stops, and its recorder has a trap to take; with none, the team faults. -/
def State.mstream (s : State) (c : CoreId) (t : Team) (aux : Word) : State :=
  let t1 := { t with seq := { t.seq with run := false, word := none, stall := none } }
  let va := wordVa t.seq.spc
  match t.recorder with
  | some (w, k) =>
    (s.modCore c (·.setTeam (t1.modWave w (·.modThread k fun h => { h with mtraps := h.mtraps ++ [(va, aux)] })))).post 1
      (.mstreamTrapTake c t.oid)
  | none => (s.modCore c (·.setTeam (t1.faulted 10))).post 1 (.swapOut c t.oid)

/-- Begin a stream word.  With no running sequencer in focus nothing changes (log 2). -/
def beginSeq (s : State) (go : SeqCtx → State) : Out :=
  match s.seqCtx with
  | none => .next s
  | some x => .next (go x)

/-! Engine words (R236, R238). -/

/-- A scratchpad range of an engine word: its address and size. -/
abbrev Range := Nat × Nat

def rangeBad (sz : Nat) (r : Range) : Bool := r.1 % 16 != 0 || decide (sz < r.1 + r.2)

/-- The sequencer has an engine word ready (R236). -/
def Team.engineReady (t : Team) : Bool :=
  t.leave.isNone && t.seq.run && match t.seq.word with
    | none => false
    | some w => match decodeWord 4 w with
      | .ok (.mma _) | .ok (.mzero _) | .ok (.mload _) | .ok (.mdrain _) => true
      | _ => false

/-- The engine is not for the team's next word now: it is busy, or it took this team's word last and another sequencer has one
ready, so that it takes them alternately (R236). -/
def Core.engineHeld (k : Core) (oid : Nat) : Bool :=
  k.teams.any fun t => t.seq.busy || (t.oid != oid && t.engineReady && k.engineLast == some oid)

/-- An engine word starts: it waits for its own stream's earlier engine word, so that its effects and its MSTREAM alike come as if
that one had completed first (R236); a bad tile or range raises MSTREAM before any effect; it waits for the engine; it reads its stream
registers, and the engine is busy for `n` cycles (R238, R246, R248). -/
def engineWord (i : Instr) (aux : Word) (acc : BitVec 3) (n : Nat) (ranges : SeqCtx → List Range) (s : State) : Out :=
  beginSeq s fun x =>
    if x.team.seq.busy then x.wait
    else if x.team.acc ≤ acc.toNat || (ranges x).any (rangeBad x.team.sz) then x.s.mstream x.c x.team aux
    else if x.core.engineHeld x.team.oid then x.wait
    else
      let y : SeqCtx := { x with core := { x.core with engineLast := some x.team.oid } }
      (((y.modSeq fun q => { q with engine := some (i, q.m), seen := x.team.sp }).goto (x.team.seq.spc + 1) 1)).post (n - 1)
        (.engineWordComplete x.c x.team.oid)

def Team.tile (t : Team) (n : BitVec 3) : List Word := t.tiles.getD n.toNat []

def Team.setTile (t : Team) (n : BitVec 3) (ws : List Word) : Team := { t with tiles := putAt 8 [] n.toNat ws t.tiles }

/-! Operands (R239, R240). -/

def isBxCode (c : Nat) : Bool := c == 11 || c == 12

/-- The K of a format (R239). -/
def mmaK (c : Nat) : Nat :=
  match c with
  | 6 | 7 | 8 => 32
  | 12 => 128
  | _ => 64

def operandBytes (c : Nat) : Nat := if c = 8 then 8192 else 4096

/-- The bits of element `i` of a dense operand (R70, R240). -/
def elemBits (sp : List Host.Cell) (c base i : Nat) : Nat :=
  if c = 12 then (memRead sp (base + i / 2)).toNat / 16 ^ (i % 2) % 16
  else memNat sp (base + Win.fmtBytes c * i) (Win.fmtBytes c)

/-- An element's exact value; `row` and `k` place it in its block (R71, R240). -/
def elemVal (sp : List Host.Cell) (c base scale i row k : Nat) : Fl :=
  let v := elemBits sp c base i
  if isBxCode c then
    let p := memNat sp (scale + 2 * (row * (mmaK c / 32) + k / 32)) 2
    bxDecode (c == 12) (p % 256) (p / 256) v
  else (fmtOf c).decode v

/-- The BF16 slices of an FP32 operand (R76). -/
def slices (x : Fl) : Fl × Fl × Fl :=
  match x with
  | .num _ _ _ =>
    let bf (rm : Nat) (y : Fl) : Fl := bf16.decode (bf16.convert rm false false y).1
    let sub (a b : Fl) : Fl := (sumExact 0 [a, b.neg]).1
    let hi := bf 1 x
    let mid := bf 1 (sub x hi)
    (hi, mid, bf 0 (sub (sub x hi) mid))
  | _ => (x, .num false 0 0, .num false 0 0)

/-- The products of one pair of elements (R75, R76). -/
def products (x3 : Bool) (a b : Fl) : List Fl :=
  if x3 then
    let p := slices a
    let q := slices b
    [p.1.mul q.1, p.1.mul q.2.1, p.2.1.mul q.1, p.1.mul q.2.2, p.2.1.mul q.2.1, p.2.2.mul q.1]
  else [a.mul b]

/-- One element of an MMA's result (R241). -/
def mmaElem (f : MSForm) (sp : List Host.Cell) (ma mb sa sb : Nat) (old : Word) (i j : Nat) : Word :=
  let fa := f.fmta.toNat
  let fb := f.fmtb.toNat
  let k := mmaK fa
  let ia (n : Nat) : Nat := if f.imm.getLsbD 0 then 64 * n + i else k * i + n
  let ib (n : Nat) : Nat := if f.imm.getLsbD 1 then k * j + n else 64 * n + j
  let z := f.imm.getLsbD 2
  if fa ≤ 1 then
    let v (c x : Nat) : Int := intOf 8 (c == 0) (BitVec.ofNat 64 x)
    let sum := ((List.range k).map fun n => v fa (elemBits sp fa ma (ia n)) * v fb (elemBits sp fb mb (ib n))).foldl (· + ·) 0
    BitVec.ofInt 32 ((if z then 0 else (old.toNat : Int)) + sum)
  else
    let ts := (List.range k).flatMap fun n =>
      products (fa == 8) (elemVal sp fa ma sa (ia n) i n) (elemVal sp fb mb sb (ib n) j n)
    BitVec.ofNat 32 (sumRes f32 0 false false (if z then ts else f32.decode old.toNat :: ts)).1

/-- The scratchpad ranges of an MMA. -/
def mmaRanges (f : MSForm) (x : SeqCtx) : List Range :=
  let fa := f.fmta.toNat
  let fb := f.fmtb.toNat
  [((x.m f.m1).toNat, operandBytes fa), ((x.m f.m2).toNat, operandBytes fb)]
  ++ (if isBxCode fa then [((x.m (f.imm.extractLsb' 4 4)).toNat, 4 * mmaK fa)] else [])
  ++ (if isBxCode fb then [((x.m (f.imm.extractLsb' 8 4)).toNat, 4 * mmaK fb)] else [])

/-- What an MMA does (R241). -/
def mmaAct (f : MSForm) (x : SeqCtx) : Team :=
  let old := x.team.tile f.acc
  x.team.setTile f.acc ((List.range 4096).map fun n =>
    mmaElem f x.team.sp (x.m f.m1).toNat (x.m f.m2).toNat (x.m (f.imm.extractLsb' 4 4)).toNat
      (x.m (f.imm.extractLsb' 8 4)).toNat (old.getD n 0) (n / 64) (n % 64))

/-- MMA (R239 to R241). -/
def execMma (f : MSForm) (s : State) : Out :=
  engineWord (.mma f) (hi32 (f.toWord 0x01)) f.acc (if f.fmta == 8 then 384 else 64) (mmaRanges f) s

/-- MZERO (R242). -/
def execMzero (f : MSForm) (s : State) : Out := engineWord (.mzero f) (hi32 (f.toWord 0x02)) f.acc 4 (fun _ => []) s

/-- What an MLOAD does (R242). -/
def mloadAct (f : MSForm) (x : SeqCtx) : Team :=
  let c := f.fmta.toNat
  let w := Win.fmtBytes c
  x.team.setTile f.acc ((List.range 4096).map fun n =>
    let v := memNat x.team.sp ((x.m f.m1).toNat + w * n) w
    BitVec.ofNat 32 (if w = 4 then v else (f32.convert 0 false false ((fmtOf c).decode v)).1))

/-- MLOAD (R242). -/
def execMload (f : MSForm) (s : State) : Out :=
  let w := Win.fmtBytes f.fmta.toNat
  engineWord (.mload f) (hi32 (f.toWord 0x03)) f.acc (if w = 4 then 64 else 32) (fun x => [((x.m f.m1).toNat, 4096 * w)]) s

/-- The bytes of a drained result, and of its scale pairs (R243): `el r k` is word `k` of row `r`. -/
def drainCells (c rm : Nat) (sat : Bool) (base scale : Nat) (el : Nat → Nat → Word) : List Host.Cell :=
  if isBxCode c then
    let bx4 := c == 12
    (List.range 64).flatMap fun r => (List.range 2).flatMap fun b =>
      let blk := bxEncode bx4 ((List.range 32).map fun k => f32.decode (el r (32 * b + k)).toNat)
      let e (k : Nat) : Nat := blk.elems.getD k 0
      (if bx4 then
        cellsAt (base + 32 * r + 16 * b) ((List.range 16).map fun k => BitVec.ofNat 8 (e (2 * k) + 16 * e (2 * k + 1)))
      else cellsAt (base + 64 * r + 32 * b) ((List.range 32).map fun k => BitVec.ofNat 8 (e k)))
      ++ cellsAt (scale + 4 * r + 2 * b) [BitVec.ofNat 8 blk.e0, BitVec.ofNat 8 blk.e1]
  else
    let w := Win.fmtBytes c
    (List.range 64).flatMap fun r => (List.range 64).flatMap fun k =>
      let v := (el r k).toNat
      cellsAt (base + w * (64 * r + k)) (bytesLE w (if w = 4 then v else ((fmtOf c).convert rm sat false (f32.decode v)).1))

def drainBytes (c : Nat) : Nat := if c = 12 then 2048 else 4096 * Win.fmtBytes c

def drainRanges (f : MSForm) (x : SeqCtx) : List Range :=
  let one (c : Nat) (d sc : BitVec 4) : List Range :=
    ((x.m d).toNat, drainBytes c) :: if isBxCode c then [((x.m sc).toNat, 256)] else []
  one f.fmta.toNat f.m1 (f.imm.extractLsb' 0 4) ++ (if f.imm.getLsbD 11 then one f.fmtb.toNat f.m2 f.m3 else [])

/-- What an MDRAIN does (R243): the output wholly before the transposed output. -/
def mdrainAct (f : MSForm) (x : SeqCtx) : Team :=
  let xt := f.imm.getLsbD 11
  let rm := bitsNat f.imm 4 2
  let sat := f.imm.getLsbD 6
  let tile := x.team.tile f.acc
  let a := drainCells f.fmta.toNat rm sat (x.m f.m1).toNat (x.m (f.imm.extractLsb' 0 4)).toNat
    fun r k => tile.getD (64 * r + k) 0
  let b := if xt then drainCells f.fmtb.toNat rm sat (x.m f.m2).toNat (x.m f.m3).toNat
    fun r k => tile.getD (64 * k + r) 0 else []
  { x.team with sp := memWrites (memWrites x.team.sp a) b }

/-- MDRAIN (R243). -/
def execMdrain (f : MSForm) (s : State) : Out :=
  engineWord (.mdrain f) (hi32 (f.toWord 0x04)) f.acc (if f.imm.getLsbD 11 then 128 else 64) (drainRanges f) s

/-- The scratchpad elements of an engine word's operands: the first address of a run, how many there are, and their bytes. -/
def engineReads (x : SeqCtx) : Instr → List (Nat × Nat × Nat)
  | .mma f =>
    let run (c a : Nat) : Nat × Nat × Nat := (a, operandBytes c / Win.fmtBytes c, Win.fmtBytes c)
    [run f.fmta.toNat (x.m f.m1).toNat, run f.fmtb.toNat (x.m f.m2).toNat]
      ++ ((mmaRanges f x).drop 2).map fun r => (r.1, r.2 / 2, 2)
  | .mload f => [((x.m f.m1).toNat, 4096, Win.fmtBytes f.fmta.toNat)]
  | _ => []

/-- Those of its outputs. -/
def engineWrites (x : SeqCtx) : Instr → List (Nat × Nat × Nat)
  | .mdrain f =>
    let one (c : Nat) (d sc : BitVec 4) : List (Nat × Nat × Nat) :=
      ((x.m d).toNat, drainBytes c / Win.fmtBytes c, Win.fmtBytes c) :: if isBxCode c then [((x.m sc).toNat, 128, 2)] else []
    one f.fmta.toNat f.m1 (f.imm.extractLsb' 0 4) ++ (if f.imm.getLsbD 11 then one f.fmtb.toNat f.m2 f.m3 else [])
  | _ => []

/-- Of such elements, those that another agent has changed since the word started, of a free choice, as `from_` holds them: the word
met them before the change, as it may (R192, R238; log 73). -/
def racedCells (mask : Nat) (old now from_ : List Host.Cell) (runs : List (Nat × Nat × Nat)) : List Host.Cell :=
  runs.flatMap fun r => (List.range r.2.1).flatMap fun k =>
    let a := r.1 + r.2.2 * k
    if memNat old a r.2.2 != memNat now a r.2.2 && mask.testBit a then cellsAt a (Machine.memBytes from_ a r.2.2) else []

/-- The effects of a word in the engine, of the operands as the team's scratchpad holds them. -/
def engineAct (x : SeqCtx) : Instr → Team
  | .mma f => mmaAct f x
  | .mzero f => x.team.setTile f.acc (List.replicate 4096 0)
  | .mload f => mloadAct f x
  | .mdrain f => mdrainAct f x
  | _ => x.team

/-- They occur on the scratchpad as it stands, where nobody has written to it since the word started; else each element that changed
is read, or written, before the change or after it (R238; log 73). -/
def engineEffect (mask : Nat) (x : SeqCtx) (i : Instr) : Team :=
  let sp := x.team.sp
  let seen := x.team.seq.seen
  if seen == sp then engineAct x i
  else
    let t := engineAct { x with team := { x.team with sp := memWrites sp (racedCells mask seen sp seen (engineReads x i)) } } i
    { t with sp := if (engineReads x i).isEmpty then memWrites t.sp (racedCells mask seen sp sp (engineWrites x i)) else sp }

/-- The undo-log lines that they touch (R280). -/
def engineKeys (x : SeqCtx) : Instr → List LogKey
  | .mma f | .mzero f | .mload f => (List.range 256).map fun k => LogKey.tile x.team.oid (256 * f.acc.toNat + k)
  | .mdrain f => (drainRanges f x).flatMap fun r => spadKeys x.team.oid r.1 r.2
  | _ => []

/-! Sequencer words (R244, R245). -/

/-- MBARW (R245). -/
def execMbarw (f : MSForm) (s : State) : Out :=
  beginSeq s fun x =>
    if (x.team.bar (bitsNat f.imm 0 4)).p != f.imm.getLsbD 4 then x.advance else x.wait

/-- MBARA (R245). -/
def execMbara (f : MSForm) (s : State) : Out :=
  beginSeq s fun x =>
    if x.team.seq.busy then x.wait
    else ({ x with team := x.team.modBar (bitsNat f.imm 0 4) (Bar.arrive 0) } : SeqCtx).advance

def mtarget (x : SeqCtx) (f : MSForm) : WAddr := x.team.seq.spc + f.imm.signExtend 48

/-- MLOOP (R244). -/
def execMloop (f : MSForm) (s : State) : Out :=
  beginSeq s fun x =>
    let v := x.m f.m1 - 1
    (x.modSeq fun q => { q with m := putAt 16 0 f.m1.toNat v q.m }).goto
      (if v = 0 then x.team.seq.spc + 1 else mtarget x f) 1

/-- MJMP (R244). -/
def execMjmp (f : MSForm) (s : State) : Out := beginSeq s fun x => x.goto (mtarget x f) 1

/-- MADDI (R244). -/
def execMaddi (f : MSForm) (s : State) : Out :=
  beginSeq s fun x => (x.modSeq fun q => { q with m := putAt 16 0 f.m1.toNat (x.m f.m2 + f.imm) q.m }).advance

/-- MEND (R244). -/
def execMend (_ : MSForm) (s : State) : Out :=
  beginSeq s fun x =>
    if x.team.seq.busy then x.wait
    else ((x.modSeq fun q => { q with run := false, word := none }).state).tick 1

/-- MNOP (R244). -/
def execMnop (_ : MSForm) (s : State) : Out := beginSeq s fun x => x.advance

/-! Events of the stream. -/

/-- ENGINE_WORD_COMPLETE (R236, R238): the word's effects occur, once the undo log has room for them, with the stream
registers that it read in its first cycle; the core's MXW counter counts it (R288).  A strike abandons it (R249). -/
def execEngineWordComplete (c : CoreId) (team : Nat) (s : State) : Out :=
  .next <|
    let k := s.core c
    match k.team team with
    | none => s
    | some t =>
      match t.seq.engine with
      | none => s
      | some (i, ms) =>
        let x : SeqCtx := ⟨s, c, k, { t with seq := { t.seq with m := ms } }⟩
        let ks := engineKeys x i
        if k.rollback.isSome then s
        else if !k.room ks then (s.post 1 (.engineWordComplete c team)).modCore c (·.waits 9 s.cycle)
        else
          let u := engineEffect (Config.freeSubset s.ctr) x i
          ({ s with ctr := s.ctr + 1 } : State).setCore
            (((k.logged ks).count 3 1).setTeam { u with seq := { t.seq with engine := none, seen := [] } })

/-- STREAM_FETCH (R235): the next stream word, through translation; a miss stalls the sequencer, a fetch that is refused
raises MSTREAM with AUX 0, once the stream's earlier engine word has completed (R236, R246). -/
def execStreamFetch (c : CoreId) (team : Nat) (s : State) : Out :=
  .next <|
    match (s.core c).team team with
    | none => s
    | some t =>
      if t.seq.run && t.seq.word.isNone && t.seq.stall.isNone && t.leave.isNone then
        let x : Ctx := ⟨s, ⟨c, team, 0⟩, s.core c, t, { wid := 0 }, [], 0, 0⟩
        let put (y : Ctx) (q : Seq) : State := y.s.setCore (y.core.setTeam { t with seq := q })
        match x.fetch t.seq.spc (.event (.streamFetch c team)) with
        | (y, .word w) => put y { t.seq with word := some w }
        | (y, .refused _ _) =>
          if t.seq.busy then (put y t.seq).post 1 (.streamFetch c team) else (put y t.seq).mstream c t 0
        | (y, .waits a) => ((put y t.seq).askFor [a] (.event (.streamFetch c team))).post 1 (.streamFetch c team)
        | (y, .miss cause) =>
          let va := wordVa t.seq.spc
          put (y.miss va true 4 cause) { t.seq with stall := some (FaultKey.ofVa va true) }
      else s

/-- A wave's eligible threads with an MSTREAM to take. -/
def Wave.mtrapped (w : Wave) : List Nat := w.eligibles.filter fun t => !(w.thread t).mtraps.isEmpty

/-- They take it at this boundary, and a second one beside it as the double trap that it is (R29, R246); a HEATC whose whole run they were holds nobody (R287). -/
def takeMtraps (x : Ctx) : Ctx :=
  (x.wave.eligibles.foldl (fun y t =>
    (y.thread t).mtraps.foldl (fun z m => z.trapAt t ⟨10, m.1, m.2⟩ (z.thread t).pc (z.thread t).cb) y) x).modWave fun w => { w with heatWait := if w.members.isEmpty then none else w.heatWait }

/-- MSTREAM_TRAP_TAKE (R246). -/
def execMstreamTrapTake (c : CoreId) (team : Nat) (s : State) : Out :=
  .next <|
    match (s.core c).team team with
    | none => s
    | some t =>
      let due (w : Wave) : Bool := !w.mtrapped.isEmpty
      match t.waves.find? due with
      | none => s
      | some w =>
        let x : Ctx := ⟨s, ⟨c, team, w.wid⟩, s.core c, t, w, w.members, 0, 0⟩
        if x.room (x.rcdKeys w.mtrapped) then (takeMtraps x).state
        else (s.post 1 (.mstreamTrapTake c team)).modCore c (·.waits 9 s.cycle)

end Sys2Proof.Machine
end

