-- ==== Sys2Proof/Machine/Teams.lean ====
section
/-! DEFINITION. Teams: their creation and run queues, admission, retirement, swap and migration, and the replies to
their faults (spec/08_teams_roles.md R140 to R153; spec/16 R264 to R268; spec/18 R302, R303; spec/20 R349 to R351;
spec/21 R367 to R375). -/

namespace Sys2Proof.Machine

/-! The team descriptor (R140, R141). -/

/-- The number of the lowest check of R141 that a descriptor fails. -/
def descFault (d : Rec256) : Option Nat :=
  let nr := descNR d
  let used := List.range nr
  let unused := (List.range 4).filter fun k => decide (nr ≤ k)
  let bad : List Bool := [
    bitsNat d 13 3 != 0 || bitsNat d 184 8 != 0 || bitsNat d 217 39 != 0
      || (List.range 4).any fun k => bitsNat (descRole d k) 6 2 != 0,
    used.any fun k => bitsNat (descRole d k) 4 2 == 3,
    unused.any fun k => descRole d k != 0 || descEntry d k != 0,
    (used.map fun k => bitsNat (descRole d k) 0 4 + 1).sum != descNW d,
    decide (8 < bitsNat d 6 4),
    decide (bitsNat d 16 16 < 64),
    decide (393216 < descScr d),
    !hasBit d 216 && bitsNat d 192 24 != 0]
  (bad.findIdx? id).map (· + 1)

/-- What the device reads in a process's address space on its own account: the bytes, while every page is mapped with the
read right and not granted away. -/
def State.vread (s : State) (part proc : Nat) (va : BitVec 57) (n : Nat) : Option (List Byte) :=
  (List.range n).mapM fun k =>
    let a := va + BitVec.ofNat 57 k
    match s.walk part proc a with
    | .found t => if (t.refuses 1).isSome then none else (s.keyUnder t a).map (s.physRead (some part))
    | _ => none

/-- A descriptor or block read as one value (R6). -/
def State.vreadNat (s : State) (part proc : Nat) (va : BitVec 57) (n : Nat) : Option Nat := (s.vread part proc va n).map natLE

/-- The translations of the first and last byte of such a read. -/
def State.vends (s : State) (part proc : Nat) (va : BitVec 57) (n : Nat) (by_ : Option Asker) : List (Walk × BitVec 57) :=
  [0, n - 1].map fun k => let a := va + BitVec.ofNat 57 k; (s.walk part proc a by_, a)

/-- The read is not allowed there, or comes to no memory. -/
def State.barredEnd (s : State) (q : Walk × BitVec 57) : Bool :=
  match q.1 with
  | .found t => (t.refuses 1).isSome || (s.keyUnder t q.2).isNone
  | .miss _ => true
  | .waits _ => false

def State.endKeys (s : State) (q : Walk × BitVec 57) : List Nat :=
  match q.1 with
  | .found t => (s.keyUnder t q.2).toList
  | .miss _ => []
  | .waits k => [k]

/-- The memory that such a read of at most a page's bytes touches, or the page table that it waits for; nothing behind a page
that does not allow the read, which then comes to no data (R363). -/
def State.vkeys (s : State) (part proc : Nat) (va : BitVec 57) (n : Nat) (by_ : Option Asker := none) : List Nat :=
  let ends := s.vends part proc va n by_
  if ends.any s.barredEnd then [] else ends.flatMap s.endKeys

/-! A team's start state (R14, R143, R145, R147). -/

def freshThread (pbase : WAddr) (entry : BitVec 24) : Thread :=
  let cb := pbase + entry.setWidth 48
  { cb := cb, pc := cb + 1, mark := true }

/-- The role of each wave, in order (R14). -/
def waveRoles (d : Rec256) : List Nat :=
  (List.range (descNR d)).flatMap fun k => List.replicate (bitsNat (descRole d k) 0 4 + 1) k

def freshTeam (oid part proc : Nat) (d : Rec256) (pbase : WAddr) (x y z : Nat) (args : List Word) (bufs : List BufRec)
    (grid : Nat) : Team :=
  let pad {α : Type} (n : Nat) (v : α) (l : List α) : List α := (l ++ List.replicate n v).take n
  { oid := oid, proc := proc, part := part, desc := d, pbase := pbase, grid := grid, fresh := true
    x := BitVec.ofNat 32 x, y := BitVec.ofNat 32 y, z := BitVec.ofNat 32 z
    sz := 256 * ((descScr d + 255) / 256)
    bars := List.replicate 16 { e := descNW d }
    waves := (waveRoles d).mapIdx fun i k =>
      { wid := i, role := k, budget := 16 * 2 ^ bitsNat (descRole d k) 4 2
        threads := List.replicate 32 (freshThread pbase (descEntry d k))
        s := pad 64 0 args, b := pad 16 0 bufs } }

/-! Where a team is. -/

def State.coreOf (s : State) (oid : Nat) : Option Core := s.cores.find? fun k => (k.team oid).isSome

/-- The team on its core, or in its image. -/
def State.onTeam (s : State) (oid : Nat) (f : Team → Team) : State :=
  match s.coreOf oid with
  | some k => s.setCore (k.modTeam oid f)
  | none => { s with images := s.images.map fun i => if i.team.oid == oid then { i with team := f i.team } else i }

def State.image (s : State) (oid : Nat) : Option Image := s.images.find? (·.team.oid == oid)

/-- LOC (R300). -/
def locOf (c : CoreId) : Nat := c.die * 512 + c.cluster * 16 + c.core

/-! Run queues (R303). -/

def State.queued (s : State) (d c : Nat) : List QEnt := s.runq.filter fun q => q.die == d && q.cluster == c

/-- The cluster of the partition on the die with the fewest queued entries, the lowest on a tie (R367). -/
def State.queueFor (s : State) (part d : Nat) : Option Nat :=
  match s.clusters part d with
  | [] => none
  | c :: cs => some (cs.foldl (fun b c => if (s.queued d c).length < (s.queued d b).length then c else b) c)

def State.queueRoom (s : State) (part d : Nat) : Bool :=
  match s.queueFor part d with
  | some c => decide ((s.queued d c).length < 4096)
  | none => false

/-- A team enters a run queue of its die; as a member it is no longer ready (R311). -/
def State.enqueue (s : State) (part d oid : Nat) : State :=
  match s.queueFor part d with
  | none => s
  | some c =>
    ((({ s with runq := s.runq ++ [⟨d, c, oid, fld (s.obj oid) 64 3, 0⟩] } : State).setObjState oid 1).follow oid).post 1
      (.teamAdmit ⟨d, c, 0⟩ oid)

def bucketReg (p k : Nat) : Nat := partBlock p + 0x1000 + 16 * k

/-- The ticks of a bucket run, from when anything can change it (R366). -/
def State.tickBucket (s : State) (part k : Nat) : State :=
  if s.agenda.any fun e => e.2 == .bucketTick part k then s else s.post (s.cyclesIn (micros 1)) (.bucketTick part k)

/-- A team is created, QUEUED, with its internal references to itself and to its PROC (R301, R302). -/
def State.createTeam (s : State) (t : Team) (d pri aff : Nat) (descVa : BitVec 57) : State :=
  let r0 := header kTEAM 1 t.proc 1 t.part
  let r1 := withFld (withFld (withFld (withFld r0 64 3 pri) 192 57 descVa.toNat) 256 48 t.pbase.toNat) 320 16 aff
  let r2 := withFld r1 128 57 (fld (s.obj t.proc) 192 57)
  let s1 := ((s.putObj t.oid r2).addRef t.proc).setFld t.proc 272 16 (fld (s.obj t.proc) 272 16 + 1)
  (({ s1 with images := s1.images ++ [({ team := t, die := d } : Image)] } : State).enqueue t.part d t.oid).tickBucket t.part
    (fld (s.obj t.proc) 288 8)

/-- A SWAPPED or FAULTED team returns to the queue of the die where it last ran, once that die is live, with no core reset in
hand, and a queue has room (R303, R375, R421). -/
def State.requeue (s : State) (oid : Nat) : State :=
  match s.image oid with
  | some i =>
    let room := s.live i.die && (s.die i.die).reset.isNone && s.queueRoom i.team.part i.die
    let s1 : State := { s with
      images := modWhere (·.team.oid == oid) (fun i => { i with auto := false, held := false, due := !room }) s.images }
    if room then s1.enqueue i.team.part i.die oid else s1
  | none => s

/-! Launches hand their teams to the run queues (R297, R367). -/

/-- One team of a range is created, while an id is free and a queue has room. -/
def State.feedOne (s : State) (g : Grid) (r : Range367) : Option (State × Range367) :=
  if r.hi ≤ r.next || !s.queueRoom g.part r.die || !s.live r.die then none
  else
    match s.freeId g.part r.die with
    | none => none
    | some id =>
      let l := r.next
      let t := freshTeam id g.part g.proc g.desc g.pbase (l % g.x) (l / g.x % g.y) (l / (g.x * g.y)) g.args g.bufs g.id
      some (s.createTeam t r.die g.pri g.aff g.descVa, { r with next := l + 1 })

def State.feedRange (g : Grid) : (fuel : Nat) → State → Range367 → State × Range367
  | 0, s, r => (s, r)
  | n + 1, s, r =>
    match s.feedOne g r with
    | some (s1, r1) => State.feedRange g n s1 r1
    | none => (s, r)

def State.feedRanges (g : Grid) : List Range367 → State → State × List Range367
  | [], s => (s, [])
  | r :: rs, s =>
    let a := State.feedRange g (min (r.hi - r.next) 98304) s r
    let b := State.feedRanges g rs a.1
    (b.1, a.2 :: b.2)

/-- Saved teams that wait for room in a queue enter one, and every launch that has teams to create creates those that it can,
in the launches' order. -/
def State.feed (s0 : State) : State :=
  let s := ((s0.images.filter (·.due)).map (·.team.oid)).foldl State.requeue s0
  s.grids.foldl (fun s g =>
    if !g.started || g.ranges.all fun r => r.hi ≤ r.next then s
    else
      let r := State.feedRanges g g.ranges s
      { r.1 with grids := modWhere (·.id == g.id) (fun x => { x with ranges := r.2 }) r.1.grids }) s

/-! Placement on a core (R20, R144, R145). -/

/-- A wave's slot is free once it has ended, LD and KC are 0 and no result is outstanding (R151). -/
def Wave.holdsSlot (w : Wave) : Bool :=
  !(w.ended && w.counter .ld == 0 && w.counter .kc == 0 && w.pending.isEmpty)

/-- Units of a lane that a budget takes (R20). -/
def unitsOf (budget : Nat) : Nat := budget / 16

/-- Lane units in use: lane, first unit, number of units. -/
def Core.laneUse (k : Core) : List (Nat × Nat × Nat) :=
  (k.teams.filter fun t => !t.inSlot).flatMap fun t => (t.waves.filter Wave.holdsSlot).map fun w => (w.lane, w.unit, unitsOf w.budget)

/-- A free slot for a budget, units aligned: on the first lane that serves no wave, else the first that has room (the
core's choice among its lanes, log 28). -/
def findSlot (use : List (Nat × Nat × Nat)) (budget : Nat) : Option (Nat × Nat) :=
  let n := unitsOf budget
  match (List.range 128).find? fun l => !use.any fun q => q.1 == l with
  | some l => some (l, 0)
  | none =>
    ((List.range 128).flatMap fun l => (List.range (4 / n)).map fun u => (l, n * u)).find? fun p =>
      !use.any fun q => q.1 == p.1 && decide (q.2.1 < p.2 + n) && decide (p.2 < q.2.1 + q.2.2)

/-- Slots for the waves of a team; an ended wave that holds none takes none. -/
def placeWaves (use : List (Nat × Nat × Nat)) : List Wave → Option (List Wave)
  | [] => some []
  | w :: ws =>
    if !w.holdsSlot then (placeWaves use ws).map (w :: ·)
    else
      match findSlot use w.budget with
      | none => none
      | some (l, u) => (placeWaves (use ++ [(l, u, unitsOf w.budget)]) ws).map ({ w with lane := l, unit := u } :: ·)

/-- The lowest contiguous run of free scratchpad rows (R145). -/
def findRows (ts : List Team) (n : Nat) : Option Nat :=
  if n = 0 then some 0
  else
    let free (a : Nat) : Bool :=
      decide (a + n ≤ 1536) && ts.all fun t => t.sz == 0 || decide (t.row + t.sz / 256 ≤ a) || decide (a + n ≤ t.row)
    leastOf ((0 :: ts.map fun t => t.row + t.sz / 256).filter free)

/-- The team as the core would hold it, if it fits (R144). -/
def Core.fits (k : Core) (t : Team) : Option Team :=
  let ts := k.teams.filter fun u => !u.inSlot
  if 8 ≤ ts.length || decide (8 < (ts.map Team.acc).sum + t.acc)
      || (t.mseq && decide (2 ≤ (ts.filter Team.mseq).length)) then none
  else
    match findRows ts (t.sz / 256), placeWaves k.laneUse t.waves with
    | some r, some ws => some { t with row := r, waves := ws }
    | _, _ => none

/-- How many such teams the core would hold at once. -/
def Core.capacity : (fuel : Nat) → Core → Team → Nat
  | 0, _, _ => 0
  | n + 1, k, t =>
    match k.fits t with
    | none => 0
    | some u => 1 + Core.capacity n { k with teams := k.teams ++ [u] } t

def coresOf (d c : Nat) : List CoreId := (List.range 16).map fun k => ⟨d, c, k⟩

/-- A cluster admits teams: its die is live and not about to be reset, and it is not gated (R262, R421, R437). -/
def State.clusterOpen (s : State) (d c : Nat) : Bool := s.live d && (s.die d).reset.isNone && !hasBit (s.mreg (dieBlock d + 0x38)) c

/-- A core admits teams (R421, R434). -/
def State.coreOpen (s : State) (c : CoreId) : Bool :=
  let k := s.core c
  s.clusterOpen c.die c.cluster && !k.inReset && !k.withdrawn && k.rollback.isNone

/-- The partition's enabled cores of a die. -/
def State.partCores (s : State) (part d : Nat) : List CoreId := (s.clusters part d).flatMap (coresOf d)

/-! Admission (R144, R302, R303, R369). -/

/-- A team starts, or resumes, with what it holds: the detector and the timer are empty (R206), tiles that have not been
written hold free values (R146). -/
def Team.started (ctr : Nat) (t : Team) : Team :=
  let t1 := if t.fresh then
      { t with tiles := (List.range t.acc).map fun k => (List.range 4096).map (Config.freeTile ctr k) }
    else t
  { t1 with
    fresh := false, leave := none, blocked := none
    seq := { t1.seq with word := none, engine := none, stall := none }
    waves := t1.waves.map fun w => { w with det := {}, timer := 0, run := 0, prev := 0, kcWait := false, heatWait := none } }

/-- A resident team goes on: its stream is fetched, an MSTREAM it has to take is taken, and one whose waves have all
ended retires. -/
def State.goOn (s : State) (c : CoreId) (t : Team) : State :=
  let s1 := if t.seq.run && t.seq.stall.isNone then s.post 1 (.streamFetch c t.oid) else s
  let s2 := if t.waves.any fun w => w.threads.any fun h => !h.mtraps.isEmpty then s1.post 1 (.mstreamTrapTake c t.oid) else s1
  if t.waves.all (·.ended) && t.leave.isNone then
    (s2.modTeam c t.oid fun u => { u with leave := some .retire }).post 1 (.teamRetire c t.oid)
  else s2

/-- A placed team becomes resident; its start state is kept until the heat of its admission is set (R291).  The core fetches code
afresh, so that the team sees every store to it that was performed before its launch (R34). -/
def State.seat (s : State) (c : CoreId) (t : Team) : State :=
  let u := t.started s.ctr
  let k := s.core c
  let k1 := { k with
    rcache := k.rcache.filter (·.proc != t.proc), code := []
    teams := k.teams ++ [u], cur := k.cur.map fun h => { h with admitted := h.admitted ++ [u] } }
  let s1 := ({ s with
    ctr := s.ctr + 1
    images := s.images.filter fun i => i.team.oid != t.oid
    runq := s.runq.filter fun q => q.oid != t.oid } : State).setCore k1
  ((((s1.openHeat c).setObjState t.oid 2).setFld t.oid 80 12 (locOf c))).goOn c u

/-- A queue entry stands before another: a higher priority, or an earlier entry of the same (R303). -/
def qBefore (es : List QEnt) (a b : QEnt) : Bool :=
  decide (b.pri < a.pri) || (a.pri == b.pri && decide (es.idxOf a < es.idxOf b))

/-- The teams of a pre-empted context are not admitted while it drains (R377). -/
def State.draining (s : State) (proc : Nat) : Bool := s.preempts.any fun p => p.proc == proc && !p.done

def State.gridOf (s : State) (id : Nat) : Option Grid := if id = 0 then none else s.grids.find? (·.id == id)

/-- A launch takes its place by its number, which rises with acceptance. -/
def insertGrid (g : Grid) : List Grid → List Grid
  | [] => [g]
  | h :: hs => if g.id < h.id then g :: h :: hs else h :: insertGrid g hs

/-- Accepted persistent launches whose common admission is still to come, in the order of acceptance (R369): one that ORD holds
back, one that has teams to create, and one whose teams wait in a queue. -/
def State.waitingPers (s : State) : List Grid :=
  (s.grids.filter fun g => g.pers && (!g.started || (g.ranges.any fun r => decide (r.next < r.hi))
    || s.images.any fun i => i.team.grid == g.id && s.runq.any fun q => q.oid == i.team.oid)).foldr insertGrid []

/-- A persistent launch that waits keeps the cores of its dies from the teams of other launches, but behind one that ORD still
holds back (log 36). -/
def State.persBars (s : State) (t : Team) (d : Nat) : Bool :=
  match ((s.waitingPers.filter (·.part == t.part)).takeWhile (·.started)).filter fun g => g.ranges.any fun r => r.die == d with
  | g :: _ => g.id != t.grid
  | [] => false

/-- The core admits the team, by the order of its cluster's queue (R303): its cluster is the partition's (R356); it fits; no entry before it that may be admitted
fits; and none of its priority or above that entered before it and has been skipped 16 times waits. -/
def State.admits (s : State) (c : CoreId) (e : QEnt) : Option Team :=
  let es := s.queued c.die c.cluster
  let may (q : QEnt) : Option Team :=
    match s.image q.oid with
    | some i =>
      if !(s.clusters i.team.part c.die).contains c.cluster || s.draining i.team.proc || s.persBars i.team c.die || ((s.gridOf i.team.grid).map (·.pers)).getD false then none
      else (s.core c).fits i.team
    | none => none
  if !s.coreOpen c || es.any fun q => qBefore es q e && ((may q).isSome || (16 ≤ q.skips && decide (es.idxOf q < es.idxOf e))) then none
  else may e

/-- Skips counted when an entry is admitted (R303). -/
def countSkips (es : List QEnt) (e : QEnt) (q : QEnt) : QEnt :=
  if q.die == e.die && q.cluster == e.cluster && q.oid != e.oid && decide (es.idxOf q < es.idxOf e)
    && decide (e.pri ≤ q.pri) then { q with skips := q.skips + 1 } else q

/-- A core takes a queued team; where it is one of the entry's cluster, skips are counted (R303). -/
def State.seatFrom (s : State) (e : QEnt) (c : CoreId) (t : Team) : State :=
  let es := s.queued c.die c.cluster
  ({ s with runq := s.runq.map fun q => if e.cluster = c.cluster then countSkips es e q else q } : State).seat c t

/-- Place every team of a list on the cores of its die, the first that fits. -/
def State.seatAll : List Image → State → Option State
  | [], s => some s
  | i :: is, s =>
    match s.runq.find? (·.oid == i.team.oid), (s.partCores i.team.part i.die).findSome? fun c =>
        if s.coreOpen c then ((s.core c).fits i.team).map fun t => (c, t) else none with
    | some e, some (c, t) => State.seatAll is (s.seatFrom e c t)
    | _, _ => none

/-- The teams of a persistent grid are to be swapped in together: one is leaving its core by a swap, or stands saved without
having faulted (R259). -/
def State.gridOut (s : State) (g : Nat) : Bool :=
  (s.cores.any fun k => k.teams.any fun t => t.grid == g && match t.leave with | some (.swap _) => true | _ => false)
    || s.images.any fun i => i.team.grid == g && !i.moving && objState (s.obj i.team.oid) != 4

/-- A persistent launch is admitted whole, while it is the first of its partition that waits: every team is created, all that
are not on a core or FAULTED wait in a queue, none is still being swapped out, and all are placed at once (R259, R369).  A
FAULTED team that has been resumed joins those that have run on. -/
def State.seatGrid (s : State) (g : Grid) : Option State :=
  let is := s.images.filter fun i => i.team.grid == g.id && objState (s.obj i.team.oid) != 4
  if ((s.waitingPers.find? (·.part == g.part)).map (·.id)) != some g.id || g.ranges.any (fun r => r.next < r.hi)
      || s.cores.any (fun k => k.teams.any fun t => t.grid == g.id && match t.leave with | some (.swap _) => true | _ => false)
      || is.any (fun i => s.draining i.team.proc || i.moving || !s.runq.any fun q => q.oid == i.team.oid) then none
  else State.seatAll is s

/-- TEAM_ADMIT (R144, R302, R303, R369): a core takes a queued team, if it may; else the next core of the cluster tries. -/
def execTeamAdmit (c : CoreId) (team : Nat) (s : State) : Out :=
  .next <|
    match s.runq.find? (·.oid == team), s.image team with
    | some e, some i =>
      let retry := s.post 1 (.teamAdmit ⟨e.die, e.cluster, (c.core + 1) % 16⟩ team)
      match s.gridOf i.team.grid with
      | some g =>
        if g.pers then (match s.seatGrid g with | some s1 => s1.feed | none => retry)
        else plain e retry
      | none => plain e retry
    | _, _ => s
where
  plain (e : QEnt) (retry : State) : State :=
    if e.die = c.die ∧ e.cluster = c.cluster then
      match s.admits c e with
      | some t => (s.seatFrom e c t).feed
      | none => retry
    else retry

/-! A team leaves its core. -/

/-- The fault request of a key (R349). -/
def Fault349.request (c : CoreId) (f : Fault349) : CupolaReq := ⟨c, f.team, f.proc, f.va, f.key.fetch, f.need, f.cause⟩

def Core.dropFaults (k : Core) (p : Fault349 → Bool) : Core := { k with faults := k.faults.filter fun f => !p f }

/-- Keys that wait take the entries that are free, in arrival order, and their requests are sent (R349). -/
def State.sendFaults (s : State) (c : CoreId) : State :=
  let k := s.core c
  let next := k.faultQ.take (1024 - k.faults.length)
  ({ s with cupola := s.cupola ++ next.map (Fault349.request c) } : State).setCore
    { k with faults := k.faults ++ next, faultQ := k.faultQ.drop next.length }

/-- A team's requests that still wait for an entry are sent, and its entries are freed (R350). -/
def State.freeFaults (s : State) (c : CoreId) (team : Nat) : State :=
  let k := s.core c
  let mine := k.faultQ.filter (·.team == team)
  (({ s with cupola := s.cupola ++ mine.map (Fault349.request c) } : State).setCore
    { k.dropFaults (·.team == team) with faultQ := k.faultQ.filter (·.team != team) }).sendFaults c

/-- The core's record cache keeps nothing for a team that leaves or comes (R216, R265). -/
def Core.forget (k : Core) (team : Nat) : Core :=
  match k.team team with
  | some t => { k with rcache := k.rcache.filter (·.proc != t.proc) }
  | none => k

/-- The team is off the core, with its entries of the record cache (R216); with the last one the core has no heat (R275,
R289); and its landing slot is free (R266). -/
def State.vacate (s : State) (c : CoreId) (team : Nat) : State :=
  let k := s.core c
  let k1 := { (k.forget team) with teams := k.teams.filter (·.oid != team) }
  ({ s with landings := s.landings.filter fun l => !(l.team == team && l.die == c.die && l.cluster == c.cluster) } : State).setCore
    (if k1.teams.isEmpty then { k1 with cur := none, old := none, closeReq := false } else k1)

/-- Nothing of the team is under way in the core: copies have landed, the engine word is complete, and loads and
scratchpad accesses have their values; a held atomic performs after it leaves the core (R150, R227, R378). -/
def Team.quiet (t : Team) : Bool :=
  t.copies.isEmpty && !t.seq.busy && t.banks.isEmpty && t.waves.all fun w => w.ops.all fun o =>
    o.done || o.cls == .kc || (o.out && (o.cls == .st || o.cls == .ld))

/-- What a swap does not keep: spin demotions, the detector, the timer, a fetched word or a pending fetch, waits at issue
(R206, R248, R377).  A YIELD or YLD mark (R153, R203), which R206 names neither as kept nor as lost, is kept, and is spent at the first
boundary of a run after the team resumes (log 100, DESIGN CHOICE). -/
def Team.saved (t : Team) : Team :=
  { t with
    inSlot := false, leave := none, blocked := none
    seq := { t.seq with word := none, stall := none }
    waves := t.waves.map fun w => { w with
      det := {}, timer := 0, run := 0, prev := 0, kcWait := false, heatWait := none
      threads := w.threads.map fun h => if h.tier = 1 then { h with tier := 0 } else h } }

/-- SWAP_OUT (R150, R153, R276, R378): once nothing is under way the image enters the hold-back buffer, and the heat
closes. -/
def execSwapOut (c : CoreId) (team : Nat) (s : State) : Out :=
  .next <|
    let k := s.core c
    match k.team team with
    | none => s
    | some t =>
      let again := s.post 1 (.swapOut c team)
      let goes := match t.leave with | some (.swap _) | some (.fault _) => true | _ => false
      if !goes || k.held.any (fun h => h.kind == .image team) then s
      else if k.rollback.isSome then again
      else if !t.quiet then again
      else if !k.holdRoom then again
      else (((s.setCore (k.holdTeam team (.image team))).freeFaults c team).requestClose c)

/-- A forced swap of a team takes every team of its persistent grid (R259); one that is leaving already goes on. -/
def State.forceSwap (s : State) (c : CoreId) (t : Team) (after : AfterSwap) : State :=
  let pers := ((s.gridOf t.grid).map (·.pers)).getD false
  let one (s : State) (k : Core) (u : Team) : State :=
    if u.leave.isNone && (u.oid == t.oid || (pers && u.grid == t.grid)) then
      (s.modTeam k.id u.oid fun v => { v with leave := some (.swap after) }).post 1 (.swapOut k.id u.oid)
    else s
  if pers then s.cores.foldl (fun s k => k.teams.foldl (fun s u => one s k u) s) s
  else match (s.core c).team t.oid with
    | some u => one s (s.core c) u
    | none => s

/-- The team's KWAIT waits at its wait set, whose WAITER names the team (R311, R374). -/
def State.kwaiting (s : State) (team : Nat) : Bool :=
  s.reqs.any fun q => q.team == team && match q.ask, q.stage with
    | .kwait _ _, .pending w => q.wdl.isSome || fld (s.obj w) 192 24 == team
    | _, _ => false

/-- Every team of the context that was resident is saved (R377). -/
def State.allSaved (s : State) (proc : Nat) : Bool := s.cores.all fun k => k.teams.all fun t => t.proc != proc

/-- The swap-out image leaves the core (R302): the team is SWAPPED, or FAULTED and ready as a member (R150).  A team that the Runner
swapped out, as blocked or with the blocked one of its persistent grid (R259, R374), enters a run queue again at once where no KWAIT of
its own waits, else when that KWAIT completes; R259 and R374 leave open when the blocked one's fellows do (log 102, DESIGN CHOICE). -/
def State.departImage (s : State) (c : CoreId) (team : Nat) : State :=
  match (s.core c).team team with
  | none => s
  | some t =>
    let auto := t.leave == some (.swap .wait) && s.kwaiting team
    let s1 := { (s.vacate c team) with images := s.images ++ [({ team := t.saved, die := c.die, auto := auto } : Image)] }
    let s2 := (s1.setFld team 80 12 0).setFld team 67 5 t.fps.toNat
    match t.leave with
    | some (.fault code) => ((s2.setObjState team 4).setFld team 72 8 code).follow team
    | some (.swap a) =>
      let s3 := s2.setObjState team 3
      match a with
      | .requeue => s3.requeue team
      | .wait => if s3.kwaiting team then s3 else s3.requeue team
      | .stay => s3
      | .preempt => { s3 with images := modWhere (·.team.oid == team) (fun i => { i with held := true }) s3.images }
    | _ => s2.setObjState team 3

/-- BLOCKED_SWAP (R374): the Runner swaps out a team that has been blocked for SWT microseconds without a break, while
its cluster's run queue holds a team; with a team of a persistent grid goes every team of the grid (R259). -/
def execBlockedSwap (c : CoreId) (team : Nat) (s : State) : Out :=
  .next <|
    match (s.core c).team team with
    | none => s
    | some t =>
      let swt := bitsNat (s.mreg (partBlock t.part)) 0 10
      match t.blocked with
      | none => s
      | some since =>
        if swt = 0 || t.leave.isSome then s
        else if decide (since + micros swt ≤ s.wall) && !(s.queued c.die c.cluster).isEmpty then
          s.forceSwap c t .wait
        else s.post 1 (.blockedSwap c team)

/-- The watch over the teams that are blocked starts again, as SWT now stands. -/
def State.watchBlocked (s : State) : State :=
  let s1 : State := { s with agenda := s.agenda.filter fun e => match e.2 with | .blockedSwap _ _ => false | _ => true }
  s.cores.foldl (fun s k => k.teams.foldl (fun s t => if t.blocked.isSome then s.post 1 (.blockedSwap k.id t.oid) else s) s) s1

/-! Retirement (R152). -/

/-- A launch's range counts a retired team, and the Runner reports a range that has wholly retired (R367). -/
def State.countRetired (s : State) (grid d : Nat) : State :=
  match s.gridOf grid with
  | none => s
  | some g =>
    let rs := g.ranges.map fun r => if r.die == d then { r with left := r.left - 1 } else r
    let s1 := { s with grids := modWhere (·.id == grid) (fun x => { x with ranges := rs }) s.grids }
    if rs.any fun r => r.die == d && r.left == 0 then s1.later (.runnerRangeReport grid d) else s1

/-- The range a team counts to: the one that holds its index. -/
def Grid.dieOf (g : Grid) (t : Team) : Nat :=
  let l := t.x.toNat + g.x * (t.y.toNat + g.y * t.z.toNat)
  ((g.ranges.find? fun r => decide (l < r.hi)).map (·.die)).getD 0

/-- The TEAM's internal references and its PROC's are dropped, and the team is ready as a member (R301, R302). -/
def State.endTeam (s0 : State) (team proc : Nat) (state : Nat) : State :=
  let s : State := { s0 with preempts := s0.preempts.map fun x => { x with teams := x.teams.filter (· != team) } }
  let s1 := (s.setObjState team state).follow team
  let s2 := (s1.deref team).setFld proc 272 16 (fld (s1.obj proc) 272 16 - 1)
  (s2.deref proc).freeIfDead proc

/-- The report of a retired team leaves the core: its resources are released together, and it is counted (R152). -/
def State.departReport (s : State) (c : CoreId) (team : Nat) : State :=
  match (s.core c).team team with
  | none => s
  | some t =>
    let d := match s.gridOf t.grid with | some g => g.dieOf t | none => c.die
    let s1 := ((s.vacate c team).setFld team 80 12 0).setFld team 67 5 t.fps.toNat
    (((s1.endTeam team t.proc 5).dropReqs (·.team == team)).countRetired t.grid d).feed

/-- TEAM_RETIRE (R152): the stream has stopped at a word's end, every operation has performed and every held effect has
left; then the completion report is held, and the heat closes (R276). -/
def execTeamRetire (c : CoreId) (team : Nat) (s : State) : Out :=
  .next <|
    let k := s.core c
    match k.team team with
    | none => s
    | some t =>
      let again := s.post 1 (.teamRetire c team)
      let busy := !t.copies.isEmpty || t.seq.busy || !t.banks.isEmpty
        || t.waves.any fun w => w.ops.any fun o => !o.done
      if t.leave != some .retire || k.held.any (fun h => h.kind == .report team) then s
      else if k.rollback.isSome then again
      else if busy || k.held.any (fun h => h.ref.team == team) then again
      else if !k.holdRoom then again
      else ((s.setCore ((k.holdTeam team (.report team)).modTeam team fun u =>
        { u with seq := { u.seq with run := false, word := none } })).freeFaults c team).requestClose c

/-! MIGR (R264 to R268). -/

/-- The die that homes a key: package memory only (R261). -/
def homeDie (key : Nat) : Option Nat := if key < 2 ^ 39 then some (key / 2 ^ 36) else none

/-- A cluster takes landing teams: it is open, and one of its cores at least has not been withdrawn (R266, R434, R437). -/
def State.lands (s : State) (d c : Nat) : Bool := s.clusterOpen d c && (coresOf d c).any fun k => !(s.core k).withdrawn

/-- A free landing slot of a die in the partition: of several, which R265 leaves open, that of the lowest cluster and slot
(log 103, DESIGN CHOICE). -/
def State.freeLanding (s : State) (part d : Nat) : Option Landing :=
  ((s.clusters part d).flatMap fun c => [(c, 0), (c, 1)]).findSome? fun q =>
    if s.landings.any (fun l => l.die == d && l.cluster == q.1 && l.slot == q.2) || !s.lands d q.1 then none
    else some ⟨d, q.1, q.2, 0⟩

/-- The core that a landing slot's lane stands beside: the one of the slot's number, or the first that has not been withdrawn
(the slots stand apart from the cluster's cores, R266; log 59). -/
def State.slotCore (s : State) (l : Landing) : CoreId :=
  let own : CoreId := ⟨l.die, l.cluster, l.slot⟩
  if (s.core own).withdrawn then ((coresOf l.die l.cluster).find? fun c => !(s.core c).withdrawn).getD own else own

/-- The landing slot that the team holds on its way. -/
def State.reserved (s : State) (team : Nat) (from_ : CoreId) : Option Landing :=
  s.landings.find? fun l => l.team == team && !(l.die == from_.die && l.cluster == from_.cluster)

def State.unreserve (s : State) (team : Nat) (from_ : CoreId) : State :=
  { s with landings := s.landings.filter fun l => !(l.team == team && !(l.die == from_.die && l.cluster == from_.cluster)) }

/-- MIGR as an `.ar` fence of system scope (R267): the results of class-6 requests that ship outstanding hold back the later
events of the wave. -/
def Wave.fenced (w : Wave) : Wave :=
  { w with ops := w.ops.map fun (o : Op) => if o.cls == .kc && !o.done then { o with acq := true } else o }

/-- MIGR (R265, R267): the shipment enters the hold-back buffer in the MIGR's own heat, which a free entry is waited for. -/
def execMigr (f : RForm) (s : State) : Out :=
  let i : Issue := { uniformIssue f.g with control := true, reads := regsOf f.a true true }
  begin_ s i fun x act =>
    let va : BitVec 57 := (x.spair f.a).setWidth 57
    let free (y : Ctx) : Ctx := y.modState (·.unreserve y.w.team y.w.core)
    let migrate (y : Ctx) (aux : Nat) : State := (free y).trapRun i act ⟨11, va, BitVec.ofNat 32 aux⟩
    if x.team.nw ≠ 1 then migrate x x.team.nw
    else
      match x.denied act with
      | some (_, m) => (free x).trapRun i act ⟨6, va, m.setWidth 32⟩
      | none =>
        match x.translate va with
        | (y, .miss c) => (free y).parkRun i act [(va, 1, c)]
        | (_, .waits k) => (free x).askWait [k]
        | (y, .found t) =>
          match t.refuses 1 with
          | some (c, aux) => (free y).trapRun i act ⟨c, va, aux⟩
          | none =>
            let home := (y.s.keyUnder t va).bind homeDie
            if home = some y.w.core.die then (free y).next.close 1 0 true
            else
              match home with
              | none => migrate y 1
              | some d =>
                let slot := match y.s.reserved y.w.team y.w.core with
                  | some l => if l.die = d then some l else y.s.freeLanding y.team.part d
                  | none => y.s.freeLanding y.team.part d
                match slot with
                | none => migrate y 1
                | some l =>
                  if y.team.acc ≠ 0 || y.team.mseq || decide (16384 < y.team.sz) || !y.s.live d then migrate y 1
                  else
                    let z := (free y).modState fun s => { s with landings := s.landings ++ [{ l with team := y.w.team }] }
                    let waits := [OpClass.ld, .st, .cp].any fun k => z.wave.counter k != 0
                    if waits then z.hold
                    else if !z.holdRoom 1 then z.holdFor 8
                    else
                      let z1 := (((z.next.modTeam fun tm => { tm with leave := some .migrate }).modWave Wave.fenced).modCore
                        (·.holdTeam y.w.team (.ship y.w.team)))
                      (z1.modState (·.post 0 (.migrShip y.w.core y.w.team))).close 1 0 true

/-- MIGR_SHIP (R265, R276): the team's state is a held effect, and the heat that holds it closes. -/
def execMigrShip (c : CoreId) (team : Nat) (s : State) : Out :=
  .next <|
    let k := s.core c
    match k.team team with
    | none => s
    | some t =>
      if t.leave != some .migrate then s
      else if k.rollback.isSome then s.post 1 (.migrShip c team)
      else
        match k.held.find? (fun h => h.kind == .ship team) with
        | none => ((s.setCore (k.holdTeam team (.ship team))).freeFaults c team).requestClose c
        | some h =>
          if (k.cur.map (·.num)) = some h.heat then (s.freeFaults c team).requestClose c else s.freeFaults c team

/-- The shipment leaves the core. -/
def State.departShip (s : State) (c : CoreId) (team : Nat) : State :=
  match (s.core c).team team with
  | none => s
  | some t =>
    ({ (s.vacate c team) with images := s.images ++ [({ team := t.saved, die := c.die, moving := true } : Image)] } : State).later (.migrArrival team)

/-- MIGR_ARRIVAL (R265, R266): the wave resumes in its landing slot; where the slot's cluster no longer takes teams or is no longer
the partition's, or the rest of its persistent grid is out (R259, R356, R434, R437), the team stands saved and returns to a run queue of that die. -/
def execMigrArrival (team : Nat) (s : State) : Out :=
  .next <|
    match s.image team, s.landings.find? (·.team == team) with
    | some i, some l =>
      if !i.moving then s
      else
        let c := s.slotCore l
        if s.lands l.die l.cluster && (s.clusters i.team.part l.die).contains l.cluster && !(pers i.team && s.gridOut i.team.grid) then
          if (s.core c).rollback.isSome then s.post 1 (.migrArrival team)
          else
            s.seat c { i.team with
              inSlot := true, row := 0
              waves := i.team.waves.map fun w => { w with lane := 128 + l.slot, unit := 0 } }
        else
          (({ s with
            landings := s.landings.filter (·.team != team)
            images := s.images.map fun j => if j.team.oid == team then { j with moving := false, die := l.die } else j } : State).setObjState
            team 3).requeue team
    | _, _ => s
where
  pers (t : Team) : Bool := ((s.gridOf t.grid).map (·.pers)).getD false

/-! Fault replies (R350, R351). -/

/-- What a reply does to a parked thread: a retry waits for its other keys, a denial takes it up at once.
Threads that one reply makes eligible take one RQ, and are in PC order among themselves (R197, R204; log 94). -/
def Wave.reply (w : Wave) (key : FaultKey) (deny : Bool) (mask : BitVec 3) : Wave :=
  let q := w.topRq
  if !tids.any fun t => (w.thread t).life == .parked && (w.thread t).keys.contains key then w
  else (tids.foldl (fun w t =>
    let h := w.thread t
    if h.life == .parked && h.keys.contains key then
      if deny then (w.modThread t fun h => { h with deny := some (key, mask) }).unparkAt q t
      else
        let ks := h.keys.filter (· != key)
        if ks.isEmpty then w.unparkAt q t else w.modThread t fun h => { h with keys := ks }
    else w) w).level

/-- A reply applied to a team, and whether its sequencer waits on the key; one that is to stop has abandoned its fetch
(R248). -/
def Team.reply (t : Team) (key : FaultKey) (deny : Bool) (mask : BitVec 3) : Team × Bool :=
  let stalled := t.seq.stall == some key && t.leave.isNone
  ({ t with
    waves := t.waves.map fun w => w.reply key deny mask
    seq := if stalled && !deny then { t.seq with stall := none } else t.seq }, stalled)

/-- The team is parked on the key in the state that a rollback of a heat not yet set would restore, so that it is to replay
the reply (R281, R351, log 27). -/
def Core.parkedOn (k : Core) (team : Nat) (key : FaultKey) : Bool :=
  let on (o : Option Heat) : Bool := match o with
    | none => false
    | some h => (h.snap ++ h.admitted).any fun t => t.oid == team && (t.seq.stall == some key
        || t.waves.any fun w => w.threads.any fun q => q.life == .parked && q.keys.contains key)
  on k.old || on k.cur

/-- A denied stream fetch raises MSTREAM with AUX 0, once the stream's earlier engine word has completed (R236, R246); otherwise the
sequencer fetches again. -/
def State.replySeq (s : State) (c : CoreId) (t : Team) (key : FaultKey) (deny : Bool) (mask : BitVec 3) : State :=
  if !deny then s.post 1 (.streamFetch c t.oid)
  else if t.seq.busy then s.post 1 (.faultReply t.oid key deny mask)
  else s.mstream c t 0

/-- A reply is applied in a core: its entry is freed and a waiting key takes it, and where the parking belongs to a heat
already set the reply is recorded, once the log has room (R281, R282, R349). -/
def State.replyCore (s : State) (k : Core) (t : Team) (key : FaultKey) (deny : Bool) (mask : BitVec 3) : State :=
  let rec_ := k.parkedOn t.oid key
  if rec_ && decide (3072 ≤ Ctx.heatLoad k.cur + Ctx.heatLoad k.old) then
    (s.setCore (k.waits 9 s.cycle)).post 1 (.faultReply t.oid key deny mask)
  else
    let r := t.reply key deny mask
    let k1 := if rec_ then
        { k with cur := k.cur.map fun h => { h with rets := h.rets ++ [(1, .reply t.oid key deny mask)] } }
      else k
    let s1 := (s.setCore ((k1.setTeam r.1).dropFaults fun f => f.team == t.oid && f.key == key)).sendFaults k.id
    if r.2 then s1.replySeq k.id r.1 key deny mask else s1

/-- FAULT_REPLY (R350): the request is answered; the reply reaches the team on its core, or in its image, whose stream has
no fetch pending (R248). -/
def execFaultReply (team : Nat) (key : FaultKey) (deny : Bool) (mask : BitVec 3) (s0 : State) : Out :=
  .next <|
    let s : State := { s0 with cupola := s0.cupola.filter fun q => !(q.team == team && FaultKey.ofVa q.va q.fetch == key) }
    match s.coreOf team with
    | some k =>
      match k.team team with
      | some t =>
        s.replyCore k t key deny mask
      | none => s
    | none =>
      s.onTeam team fun t => (t.reply key deny mask).1

/-- TRANSLATION_WALK_DONE (R345): a walk that finds an entry fills the cluster's L2 TLB and the core's L1 TLB; one that
finds none leaves them, and the accesses that wait on it fault (R349). -/
def execTranslationWalkDone (c : CoreId) (proc : Nat) (va : BitVec 57) (s : State) : Out :=
  .next <|
    match (s.core c).teams.find? (·.proc == proc) with
    | none => s
    | some t =>
      let x : Ctx := ⟨s, ⟨c, t.oid, 0⟩, s.core c, t, { wid := 0 }, [], 0, 0⟩
      let y := (x.translate va).1
      y.s.setCore y.core

end Sys2Proof.Machine
end

