-- ==== Sys2Proof/Machine/Crucible.lean ====
section
/-! DEFINITION. The object instructions, the Crucible's queue and serving, and the delivery of results
(spec/18_kernel_objects.md R304 to R319; spec/15 R252 to R256; spec/19 R323). -/

namespace Sys2Proof.Machine

/-! Issue (R305). -/

/-- A scratchpad operand of a request: its address, length and alignment. -/
structure SpadArg where
  addr : Nat
  len : Nat
  align : Nat := 16

def SpadArg.misaligned (a : SpadArg) : Option Trap :=
  if a.addr % a.align ≠ 0 then some ⟨5, BitVec.ofNat 57 a.addr, BitVec.ofNat 32 a.align⟩ else none

def SpadArg.outside (sz : Nat) (a : SpadArg) : Option Trap :=
  if sz < a.addr + a.len then some ⟨4, BitVec.ofNat 57 a.addr, 0⟩ else none

/-- The trap of the scratchpad operands: ALIGN, `more` among it, before BOUNDS (R32, R305). -/
def spadArgTrap (sz : Nat) (as : List SpadArg) (more : Option Trap) : Option Trap :=
  ((as.findSome? SpadArg.misaligned).or more).or (as.findSome? (SpadArg.outside sz))

/-- What a check at issue answers: the request's own state, or a step that ends otherwise. -/
inductive Pre where
  | go (x : Ctx)
  | stop (s : State)

/-- The request sets out: KC rises, its results are pending, and it enters the hold-back buffer. -/
def Ctx.request (x : Ctx) (f : KForm) (pair : Bool) (a : Ask) : Ctx :=
  let id := x.s.nextId
  let d := f.d.toNat
  let pend : List Reg := if pair then [.s d, .s (d + 1)] else [.s d]
  let q : Req :=
    { id := id, core := x.w.core, team := x.w.team, wid := x.w.wid, heat := x.heatNum, part := x.team.part
      proc := x.team.proc, ask := a, d := d, pair := pair }
  ((x.raise { id := id, cls := .kc, pend := pend, out := true }).held (x.opRef id) (.request id) 1).modState fun s =>
    { s with reqs := s.reqs ++ [q] }

/-- A class-6 instruction (R305, R253, R323, R389): the KC hold, the scratchpad operands, a check of its own, and the
request with what it reads now; it is a store for the spin detector (R176, R200).  It stands behind the wave's own scratchpad accesses (R170) and `.rel` fences. -/
def kernel (f : KForm) (reads : List Reg) (pair : Bool) (ops : Ctx → List SpadArg)
    (pre : Ctx → Issue → List Nat → Pre) (ask : Ctx → Ask) (s : State) (more : Ctx → Option Trap := fun _ => none) : Out :=
  let i : Issue := { uniformIssue f.g with
    reads := reads, writes := if pair then [.s f.d.toNat, .s (f.d.toNat + 1)] else [.s f.d.toNat] }
  begin_ s i fun x act =>
    if x.full .kc || x.wave.acquiring || x.spadOpen || x.relWaits true then x.hold
    else
      match spadArgTrap x.team.sz (ops x) (more x) with
      | some tr => x.trapRun i act tr
      | none =>
        match pre x i act with
        | .stop s1 => s1
        | .go y => if y.holdRoom 1 then ((y.request f pair (ask y)).modWave Wave.stored).next.close 1 0 else x.holdFor 8

def noPre (x : Ctx) (_ : Issue) (_ : List Nat) : Pre := .go x


def argAt (a : Word) (len : Nat) : List SpadArg := [{ addr := a.toNat, len := len }]

/-- Bytes of the team's scratchpad, as one number. -/
def Ctx.spadNat (x : Ctx) (a : Word) (n : Nat) : Nat := memNat x.team.sp a.toNat n

/-- KWAVE (R305, R310): it reads b0 to b15 too, and waits for those that are pending (R26). -/
def execKwave (f : KForm) (s : State) : Out :=
  kernel f (.s f.a.toNat :: (List.range 16).map .b) true (fun x => argAt (x.sword f.a) 96) noPre
    (fun x => .kwave (BitVec.ofNat 768 (x.spadNat (x.sword f.a) 96)) x.wave.b) s

/-- The grant pair's page (R308). -/
def pairVa (p : DWord) : BitVec 57 := p.extractLsb' 12 45 ++ (0 : BitVec 12)
def pairSz (p : DWord) : Nat := bitsNat p 0 2
def pairRights (p : DWord) : BitVec 3 := p.extractLsb' 2 3

/-- ALIGN of a grant pair (R308), which goes before the message's BOUNDS (R32). -/
def grantAlign (f : KForm) (x : Ctx) : Option Trap :=
  let p := x.spair f.c
  let va := pairVa p
  if bitsNat p 5 7 ≠ 0 ∨ va.toNat % pageBytes (pairSz p) ≠ 0 then some ⟨5, va, BitVec.ofNat 32 (pageBytes (pairSz p))⟩ else none

/-- The issue checks of an aligned grant (R308, R330, R350). -/
def grantPre (f : KForm) (x : Ctx) (i : Issue) (act : List Nat) : Pre :=
  let p := x.spair f.c
  let va := pairVa p
  let need := pairRights p
  match x.denied act with
  | some (_, m) => .stop (x.trapRun i act ⟨6, va, m.setWidth 32⟩)
  | none =>
      match x.translate va with
      | (y, .miss c) => .stop (y.parkRun i act [(va, need, c)])
      | (_, .waits k) => .stop (x.askWait [k])
      | (y, .found t) =>
        if t.sz ≠ pairSz p then .stop (y.trapRun i act ⟨6, va, need.setWidth 32⟩)
        else
          match t.refuses need with
          | some (c, aux) => .stop (y.trapRun i act ⟨c, va, aux⟩)
          | none => .go y

/-- KSEND (R305, R308). -/
def execKsend (f : KForm) (s : State) : Out :=
  let g := f.mod.getLsbD 0
  kernel f ([.s f.a.toNat, .s f.b.toNat] ++ (if g then regsOf f.c true true else [])) false
    (fun x => argAt (x.sword f.b) 64) (if g then grantPre f else noPre)
    (fun x => .ksend (x.sword f.a) (BitVec.ofNat 512 (x.spadNat (x.sword f.b) 64)) (if g then some (x.spair f.c) else none)) s
    (if g then grantAlign f else fun _ => none)

/-- KRECV (R305, R309). -/
def execKrecv (f : KForm) (s : State) : Out :=
  kernel f [.s f.a.toNat, .s f.b.toNat] false (fun x => argAt (x.sword f.b) 80) noPre
    (fun x => .krecv (x.sword f.a) (x.sword f.b).toNat) s

/-- KWAIT (R305, R311). -/
def execKwait (f : KForm) (s : State) : Out :=
  kernel f [.s f.a.toNat, .s f.b.toNat] false (fun _ => []) noPre (fun x => .kwait (x.sword f.a) (x.sword f.b)) s

/-- KARM (R305, R312). -/
def execKarm (f : KForm) (s : State) : Out :=
  kernel f ([.s f.a.toNat, .s f.c.toNat] ++ regsOf f.b true true) false (fun _ => []) noPre
    (fun x => .karm (x.sword f.a) (x.spair f.b) (f.mod.getLsbD 0) (x.sword f.c)) s

/-- KCANCEL (R305, R307). -/
def execKcancel (f : KForm) (s : State) : Out :=
  kernel f [.s f.a.toNat] false (fun _ => []) noPre (fun x => .kcancel (x.sword f.a)) s

/-- KBIND (R305, R307). -/
def execKbind (f : KForm) (s : State) : Out :=
  kernel f [.s f.a.toNat, .s f.b.toNat, .s f.c.toNat] false (fun _ => []) noPre
    (fun x => .kbind (x.sword f.a) (x.sword f.b) (x.sword f.c)) s

/-- KUNBIND (R305, R307). -/
def execKunbind (f : KForm) (s : State) : Out :=
  kernel f [.s f.a.toNat, .s f.b.toNat] false (fun _ => []) noPre (fun x => .kunbind (x.sword f.a) (x.sword f.b)) s

/-- KLOOK (R323). -/
def execKlook (f : KForm) (s : State) : Out :=
  kernel f [.s f.a.toNat] true (fun x => argAt (x.sword f.a) 32) noPre
    (fun x => .klook (f.mod.getLsbD 0) (BitVec.ofNat 256 (x.spadNat (x.sword f.a) 32))) s

/-- KNAME (R305, R322). -/
def execKname (f : KForm) (s : State) : Out :=
  kernel f [.s f.a.toNat, .s f.b.toNat] true (fun x => argAt (x.sword f.b) 32) noPre
    (fun x => .kname (x.sword f.a) (BitVec.ofNat 256 (x.spadNat (x.sword f.b) 32))) s

/-- KDUP (R305, R307). -/
def execKdup (f : KForm) (s : State) : Out :=
  kernel f [.s f.a.toNat, .s f.b.toNat] true (fun _ => []) noPre (fun x => .kdup (x.sword f.a) (x.sword f.b)) s

/-- KDROP (R305, R307). -/
def execKdrop (f : KForm) (s : State) : Out :=
  kernel f [.s f.a.toNat] false (fun _ => []) noPre (fun x => .kdrop (x.sword f.a)) s

/-- KINFO (R305, R313). -/
def execKinfo (f : KForm) (s : State) : Out :=
  kernel f [.s f.a.toNat] true (fun _ => []) noPre (fun x => .kinfo (x.sword f.a) (bitsNat f.mod 0 8)) s

/-- KNEXT (R253). -/
def execKnext (f : KForm) (s : State) : Out :=
  kernel f [.s f.a.toNat, .s f.b.toNat] false (fun x => [{ addr := (x.sword f.b).toNat, len := 8, align := 8 }]) noPre
    (fun x => .knext (x.sword f.a) (x.sword f.b).toNat) s

/-! Refusal and replay (R317). -/

def crshare (s : State) (p : Nat) : DWord := s.mreg (partBlock p + 0x10)

/-- A Crucible's input queue, in the order of arrival. -/
def State.crQueue (s : State) (d : Nat) : List Req :=
  s.reqs.filter fun q => match q.stage with | .queued k _ => k == d | _ => false

/-- A request moves to a queue's end. -/
def State.requeueReq (s : State) (id : Nat) (st : Stage) : State :=
  match s.req id with
  | some q => { s with reqs := (s.reqs.filter (·.id != id)) ++ [{ q with stage := st }] }
  | none => s

/-- A request enters the input queue of a die's Crucible, which serves one every two cycles (R319). -/
def State.toCrucible (s : State) (id d : Nat) (obj : Option Nat) : State :=
  (s.requeueReq id (.queued d obj)).post (2 * (s.crQueue d).length + 2) (.crucibleServe d)

def State.unwindow (s : State) (c : CoreId) (id : Nat) : State :=
  s.modCore c fun k => { k with replay := k.replay.filter (· != id) }

/-- A request stands refused (R317). -/
def Req.refused (q : Req) : Bool := match q.stage with | .sent n => n != 0 | _ => false

/-- An earlier request of the core stands refused. -/
def State.refusedBefore (s : State) (c : CoreId) (id : Nat) : Bool :=
  ((s.core c).replay.takeWhile (· != id)).any fun j => ((s.req j).map Req.refused).getD false

/-- An earlier claim of the same wave stands refused at another core, from which the team has come since (R251, R314). -/
def State.refusedElsewhere (s : State) (q : Req) : Bool :=
  s.reqs.any fun r => r.team == q.team && r.wid == q.wid && decide (r.id < q.id) && r.core != q.core && r.refused

def Ask.carousel : Ask → Bool
  | .board _ _ | .alight _ | .cwrite _ _ | .catchTile _ _ _ _ _ => true
  | _ => false

/-- A request is sent: accepted into a free reserved entry of its partition, or refused, with the back-off of R317.  A
carousel request goes to its station or to the segment index (R386, R391). -/
def State.send (s : State) (id : Nat) : State :=
  match s.req id with
  | none => s
  | some q =>
    if q.ask.carousel then
      let s1 := (s.unwindow q.core id).modReq id fun q => { q with stage := .pending 0 }
      s1.later (match q.ask with | .catchTile _ _ _ _ _ => .catchRegister id | _ => .carouselIndexAccept id)
    else
      let d := q.core.die
      let mine := ((s.crQueue d).filter (·.part == q.part)).length
      if decide (mine < (s.die d).queue.getD q.part 0) && !s.refusedBefore q.core id && !s.refusedElsewhere q then
        (s.unwindow q.core id).toCrucible id d none
      else
        let n := match q.stage with | .sent n => n | _ => 0
        let s1 := s.modReq id fun q => { q with stage := .sent (n + 1) }
        if s.refusedBefore q.core id then s1
        else s1.post (min (2 ^ n) 64 * 2 ^ (s.die d).bob.getD q.part 6) (.requestResend q.core)

/-- REQUEST_RESEND (R317): the core resends its refused requests in their order; where one is refused again, so is each behind it,
once more. -/
def execRequestResend (c : CoreId) (s : State) : Out :=
  .next ((s.core c).replay.foldl (fun s id => if ((s.req id).map Req.refused).getD false then s.send id else s) s)

/-- CRUCIBLE_FRAME (R318, R319): the shares take effect, and the next frame is due in 512 cycles. -/
def execCrucibleFrame (die : Nat) (s : State) : Out :=
  .next <|
    if s.live die then
      let cs := (List.range 16).map fun p => bitsNat (crshare s p) 0 9
      let qs := (List.range 16).map fun p => bitsNat (crshare s p) 16 9
      let bs := (List.range 16).map fun p => bitsNat (crshare s p) 40 4
      (s.modDie die fun d => { d with shares := cs, queue := qs, left := cs, bob := bs }).post 512 (.crucibleFrame die)
    else s

/-! Serving (R306, R307, R314). -/

/-- What an instruction's handles must be: the handle, the kinds it accepts (none: any), the right. -/
def Ask.handles : Ask → List (Word × List Nat × Option Nat)
  | .kwave _ _ | .klook _ _ | .board _ _ | .alight _ | .catchTile _ _ _ _ _ | .cwrite _ _ | .far _ _ _ _ _ _ _ _ => []
  | .ksend h _ _ => [(h, [kPORT], some rSEND)]
  | .krecv h _ => [(h, [kPORT], some rRECV)]
  | .kwait h _ => [(h, [kWSET], some rWAIT)]
  | .karm h _ _ _ => [(h, [kTIMER], some rARM)]
  | .kcancel h => [(h, [kTIMER], some rARM)]
  | .kbind h m _ => [(h, [kWSET], some rWAIT), (m, [kPORT, kTIMER, kTEAM], some rWAIT)]
  | .kunbind h _ => [(h, [kWSET], some rWAIT)]
  | .kname h _ => [(h, [kPORT], some rADMIN)]
  | .kdup h _ => [(h, [], some rDUP)]
  | .kdrop h => [(h, [], none)]
  | .kinfo h _ => [(h, [], some rINFO)]
  | .knext h _ => [(h, [kWORK], some rCLAIM)]

/-- A handle that is not valid, or names an object of another kind (R306). -/
def State.badHandle (s : State) (proc : Nat) (q : Word × List Nat × Option Nat) : Bool :=
  match s.handle proc q.1 with
  | none => true
  | some (_, _, k) => !q.2.1.isEmpty && !q.2.1.contains k

def State.noRight (s : State) (proc : Nat) (q : Word × List Nat × Option Nat) : Bool :=
  match s.handle proc q.1, q.2.2 with
  | some (_, rs, _), some r => !rs.testBit r
  | _, _ => false

/-- The first check of R306 that fails: its code and detail, or the object of the A operand. -/
def State.resolve (s : State) (q : Req) : (Nat × Nat) ⊕ Nat :=
  let hs := q.ask.handles
  match hs.findIdx? (s.badHandle q.proc), hs.findIdx? (s.noRight q.proc) with
  | some n, _ => .inl (stBADHANDLE, n + 1)
  | none, some n => .inl (stNORIGHTS, n + 1)
  | none, none =>
    let os := hs.filterMap fun h => (s.handle q.proc h.1).map (·.1)
    if os.any fun o => !s.live (objHome o) then .inl (stUNAVAILABLE, 0) else .inr (os.headD 0)

/-! Ports (R308, R309). -/

def State.portMsgs (s : State) (i : Nat) : List PortMsg := ((s.ports.find? (·.port == i)).map (·.msgs)).getD []

/-- The messages that are visible: those no reservation precedes (R328). -/
def visible (ms : List PortMsg) : List PortMsg := ms.takeWhile fun m => m.req.isNone

/-- A reserved message is committed (R328). -/
def commitMsg (x : SendId) (ms : List PortMsg) : List PortMsg :=
  ms.map fun m => if m.req == some x then { m with req := none } else m

/-- The messages in the slots of the ring at MRING, each at the slot's start (R300, R308; log 11). -/
def State.ringCells (s : State) (r : BitVec 512) (head : Nat) (ms : List PortMsg) : List Host.Cell :=
  (ms.mapIdx fun n m => cellsAt (s.domKey (fld r 128 57 % 2 ^ 52) + 128 * ((head + n) % fld r 64 9))
    (bytesLE 64 m.bits.toNat)).flatten

/-- A port's ring changes, its head moved past `pop` messages; QLEN and its readiness follow.  A port that has been freed has
no ring. -/
def State.setMsgs (s : State) (i : Nat) (ms : List PortMsg) (pop : Nat := 0) : State :=
  let r := s.obj i
  if objKind r ≠ kPORT then s
  else
    let head := (((s.ports.find? (·.port == i)).map (·.head)).getD 0 + pop) % fld r 64 9
    ((({ s with ports := putWhere (·.port == i) ⟨i, ms, head⟩ s.ports } : State).physWrite (some (objPart r))
      (s.ringCells r head ms)).setFld i 80 9 (visible ms).length).follow i

def isFar (r : BitVec 512) : Bool := fld r 64 9 == 0

/-- Where a port's ring is; a far port has none (R300, R325). -/
def State.ringKey (s : State) (i : Nat) : List Nat :=
  let r := s.obj i
  if objKind r = kPORT && !isFar r then [s.domKey (fld r 128 57 % 2 ^ 52)] else []

/-- The page of a grant as its sender maps it; for a far port its address names the sender's package (R328). -/
def State.grantPage (s : State) (part proc : Nat) (p : DWord) (far : Bool) : Option Page :=
  match s.walk part proc (pairVa p) with
  | .found t =>
    let pa := t.pfn.toNat * 4096
    some ⟨if far && decide (pa < 2 ^ 41) then pa + s.pkgId * 2 ^ 41 else pa, pairSz p, pairRights p⟩
  | _ => none

/-- A grant is under way: its page entry is to change next (R328). -/
def State.startGrant (s : State) (q : Req) (p : DWord) (port : Option Nat) (page : Page) : State :=
  ({ s with grants := s.grants ++ [⟨q.id, port, q.part, q.proc, pairVa p, page, false⟩] } : State).later
    (.grantPteUpdate q.id)

/-- KSEND at the port's home (R307, R308, R328). -/
def State.serveKsend (s : State) (q : Req) (i : Nat) (msg : BitVec 512) (g : Option DWord) : State :=
  let r := s.obj i
  let ms := s.portMsgs i
  let m : PortMsg := { bits := msg, sender := q.proc, pkg := s.pkgId }
  if fld r 64 9 ≤ ms.length then s.answer q.id stFULL 0
  else
    match g with
    | none => (s.setMsgs i (ms ++ [m])).answer q.id stOK 0
    | some p =>
      if fld r 251 6 = 0 ∨ fld r 249 2 ≠ pairSz p then s.answer q.id stCLASH 0
      else
        match s.grantPage q.part q.proc p false with
        | none => s.answer q.id stCLASH 4
        | some page =>
          ((s.modReq q.id fun q => { q with stage := .pending i }).setMsgs i
            (ms ++ [{ m with page := some page, req := some (.here q.id) }])).startGrant q p (some i) page

/-- The lowest free grant slot of a port below GN (R309). -/
def freeSlotOf (r : BitVec 512) : Option Nat := (List.range (fld r 251 6)).find? fun k => !hasBit r (320 + k)

/-- The 80-byte record (R309). -/
def recvRecord (m : PortMsg) (grant : Nat) : List Byte :=
  bytesLE 64 m.bits.toNat ++ bytesLE 8 grant ++ bytesLE 4 m.sender ++ bytesLE 4 m.pkg

/-- KRECV (R307, R309, R328). -/
def State.serveKrecv (s : State) (q : Req) (i addr : Nat) : State :=
  let r := s.obj i
  let ms := s.portMsgs i
  match visible ms with
  | [] => s.answer q.id stEMPTY 0
  | m :: _ =>
    match m.page with
    | none => (s.setMsgs i (ms.drop 1) 1).answerOk q.id 0 (cellsAt addr (recvRecord m 0))
    | some p =>
      match freeSlotOf r with
      | none => s.answer q.id stFULL 0
      | some k =>
        let va := slotVa r k p.sz
        let pa := if p.pa / 2 ^ 41 = s.pkgId then p.pa % 2 ^ 41 else p.pa
        let s1 := (s.mapPage q.part q.proc p.sz va pa p.rights).setFld i (320 + k) 1 1
        let s2 := { s1 with gslots := s1.gslots ++ [(⟨i, k, q.part, q.proc, va, p⟩ : GSlot)] }
        (s2.setMsgs i (ms.drop 1) 1).answerOk q.id 0
          (cellsAt addr (recvRecord m (va.toNat + p.sz + 4 * p.rights.toNat)))

/-! Wait sets and timers (R311, R312). -/

/-- KWAIT (R311). -/
def State.serveKwait (s : State) (q : Req) (w : Nat) (timeout : Word) : State :=
  let r := s.obj w
  if fld r 192 24 ≠ 0 then s.answer q.id stCLASH 0
  else if fld r 128 64 = 0 then s.answer q.id stEMPTY 0
  else
    match s.report w with
    | some (i, s1) => s1.answer q.id stOK i
    | none =>
      if timeout = 0 then s.answer q.id stTIMEOUT 0
      else
        let never := timeout == 0xFFFFFFFF
        let wdl := if never then 2 ^ 64 - 1 else s.cycle + timeout.toNat
        let s1 := ((s.modReq q.id fun q => { q with stage := .pending w }).setFld w 192 24 q.team).setFld w 224 64 wdl
        if never then s1 else s1.post timeout.toNat (.kwaitDeadline w)

/-- A step of the Crucible that homes an object takes a slot of the partition that owns it (R319). -/
def State.useSlot (s : State) (die part : Nat) : State :=
  s.modDie die fun d => { d with left := d.left.modify part (· - 1) }

/-- A fire or a wait's deadline takes one. -/
def State.ownSlot (s : State) (i : Nat) : State := s.useSlot (objHome i) (objPart (s.obj i))

/-- The KWAITs at a wait set that has been freed meanwhile, each at its own deadline (R311). -/
def State.orphansEnd (s : State) (wset : Nat) : State :=
  let overdue (q : Req) : Bool := q.waitsAt wset && match q.wdl with | some t => decide (t ≤ s.cycle) | none => false
  (s.reqs.filter overdue).foldl (fun s q => s.answer q.id stTIMEOUT 0) s

/-- KWAIT_DEADLINE (R311, R314): a wait whose deadline has passed ends with TIMEOUT. -/
def execKwaitDeadline (wset : Nat) (s : State) : Out :=
  .next <|
    match s.waiter wset with
    | none => s.orphansEnd wset
    | some q =>
      if fld (s.obj wset) 224 64 ≤ s.cycle then
        let s1 := ((if objKind (s.obj wset) = kWSET then s.setFld wset 192 24 0 else s).ownSlot wset).answer q.id stTIMEOUT 0
        if s.reqs.any fun r => r.waitsAt wset && r.wdl.isSome then s1.post 1 (.kwaitDeadline wset) else s1
      else (s.orphansEnd wset).post (fld (s.obj wset) 224 64 - s.cycle) (.kwaitDeadline wset)

/-- `%ptp` bits 63:0 as nanoseconds, and back (R312, R414); no clock shows a nanosecond field of 10^9 or more, so that such a
value is passed as the next second begins. -/
def ptpToNanos (v : Nat) : Nat := v / 2 ^ 32 % 2 ^ 32 * 1000000000 + min (v % 2 ^ 32) 1000000000
def nanosToPtp (n : Nat) : Nat := n / 1000000000 % 2 ^ 32 * 2 ^ 32 + n % 1000000000

/-- Cycles until `%ptp` bits 63:0 may reach a value, at the clock's present step and slew; 0 once they have (R312, R373). -/
def State.untilPtp (s : State) (v : Nat) : Nat :=
  let now := ptpToNanos (nanosToPtp s.ptpNanos)
  if ptpToNanos v ≤ now then 0
  else
    let need := (ptpToNanos v - now + s.ptpNanos - s.ptpBase) * 1000000000
    let rate := (1000000000 + s.ptpRate).toNat
    max 1 (s.cycleAt (s.ptpAt + 1000 * ((need + rate - 1) / rate)) - s.cycle)

/-- Cycles until a timer's deadline. -/
def State.timerWait (s : State) (r : BitVec 512) : Nat :=
  if hasBit r 192 then s.untilPtp (fld r 64 64) else fld r 64 64 - s.cycle

/-- The next deadline of a periodic timer; in PTP time the nanoseconds carry. -/
def nextDl (r : BitVec 512) : Nat :=
  if hasBit r 192 then nanosToPtp (ptpToNanos (fld r 64 64) + fld r 128 64) else (fld r 64 64 + fld r 128 64) % 2 ^ 64

/-- KARM (R312). -/
def State.serveKarm (s : State) (q : Req) (i : Nat) (dl : DWord) (abs : Bool) (per : Word) : State :=
  let v := if abs then dl.toNat else (s.cycle + dl.toNat) % 2 ^ 64
  let s1 := s.modObj i fun r =>
    withFld (withFld (withFld (withFld (withFld r 64 64 v) 128 64 per.toNat) 192 1 (if abs then 1 else 0)) 208 16 0) 4 4 2
  ((s1.follow i).post (s1.timerWait (s1.obj i)) (.timerFire i)).answer q.id stOK 0

/-- TIMER_FIRE (R302, R312, R314): an armed timer whose deadline has passed fires; one still FIRED counts the miss.  A timer whose
home Crucible is held in reset waits for the restart of its die (R421). -/
def execTimerFire (timer : Nat) (s : State) : Out :=
  .next <|
    if !s.live (objHome timer) then s else
    s.ownFirst (s.recordKeys [timer]) (.timerFire timer) <|
    let r := s.obj timer
    let st := objState r
    let per := fld r 128 64
    if objKind r ≠ kTIMER || !(st == 2 || (st == 3 && per != 0)) then s
    else if s.timerWait r ≠ 0 then s.post (s.timerWait r) (.timerFire timer)
    else
      let s1 := if st = 2 then s.setObjState timer 3 else s.setFld timer 208 16 (min (fld r 208 16 + 1) 65535)
      let s2 := if per = 0 then s1 else
        let t := s1.setFld timer 64 64 (nextDl r)
        t.post (max 1 (t.timerWait (t.obj timer))) (.timerFire timer)
      (s2.ownSlot timer).follow timer

/-- KCANCEL (R307, R314). -/
def State.serveKcancel (s : State) (q : Req) (i : Nat) : State :=
  if objState (s.obj i) = 1 then s.answer q.id stEMPTY 0
  else ((s.setObjState i 1).follow i).answer q.id stOK 0

/-- KBIND (R307). -/
def State.serveKbind (s : State) (q : Req) (w : Nat) (m idx : Word) : State :=
  let k := bitsNat idx 0 6
  match s.handle q.proc m with
  | none => s.answer q.id stBADHANDLE 2
  | some (b, _, _) =>
    if hasBit (s.obj w) (128 + k) || fld (s.obj b) 448 32 != 0 then s.answer q.id stCLASH 0
    else
      let s1 := ((s.setFld b 448 32 (w + k * 2 ^ 24)).setFld w (128 + k) 1 1).addRef w
      (s1.follow b).answer q.id stOK 0

/-- KUNBIND (R307). -/
def State.serveKunbind (s : State) (q : Req) (w : Nat) (idx : Word) : State :=
  match s.memberAt w (bitsNat idx 0 6) with
  | none => s.answer q.id stEMPTY 0
  | some m => (((s.unbound m).deref w).feed).answer q.id stOK 0

/-! Handles, information, work (R307, R313, R253). -/

/-- KDUP (R307). -/
def State.serveKdup (s : State) (q : Req) (h mask : Word) : State :=
  match s.handle q.proc h, s.freeHandle q.proc with
  | some (o, rs, _), some x =>
    if objRefs (s.obj o) = 65535 then s.answer q.id stFULL 0
    else
      let r := s.newHandle q.proc x o (rs &&& (mask.toNat % 256))
      r.1.answerOk q.id r.2 []
  | some _, none => s.answer q.id stFULL 0
  | none, _ => s.answer q.id stBADHANDLE 1

/-- KDROP (R301, R307): the entry is free with its next generation, and the object loses a reference; a launch that waits for
an id goes on where one is freed (R297). -/
def State.serveKdrop (s : State) (q : Req) (h : Word) : State :=
  match s.handle q.proc h with
  | none => s.answer q.id stBADHANDLE 1
  | some (o, _, _) =>
    let x := bitsNat h 8 24
    let e := s.handleEntry q.proc x
    let e1 := setBits (setBits e 40 (0 : BitVec 4)) 24 (e.extractLsb' 24 8 + 1)
    (((s.putHandle q.proc x e1).deref o).feed).answer q.id stOK 0

/-- KINFO's field (R313). -/
def infoField (r : BitVec 512) (n : Nat) : Option Nat :=
  match n, objKind r with
  | 0, _ => some (fld r 0 8)
  | 1, _ => some (objRefs r)
  | 2, _ => some (objOwner r)
  | 3, 2 => some (fld r 72 8 * 256 + fld r 67 5)
  | 3, 3 => some (fld r 80 9)
  | 3, 4 => some (fld r 64 32)
  | 3, 5 => some (fld r 208 16)
  | 3, 7 => some (fld r 128 32)
  | 4, 3 => some (fld r 64 9)
  | 4, 4 => some (fld r 96 32)
  | 4, 7 => some (fld r 64 32)
  | _, _ => none

/-- FPS of a TEAM that is resident or saved stands in the team; the record shows it (R103, R313). -/
def State.withFps (s : State) (i : Nat) : BitVec 512 :=
  let r := s.obj i
  let f : Option (BitVec 5) := match s.coreOf i with
    | some k => (k.team i).map (·.fps)
    | none => (s.image i).map (·.team.fps)
  match f with
  | some v => if objKind r = kTEAM then withFld r 67 5 v.toNat else r
  | none => r

def State.serveKinfo (s : State) (q : Req) (i n : Nat) : State :=
  match infoField (s.withFps i) n with
  | some v => s.answerOk q.id (BitVec.ofNat 32 v) []
  | none => s.answer q.id stEMPTY 0

/-- The table entries that serving a request reads or changes: the process's record and the handle table's entries that its operands
name; and where its checks pass, a new handle's, the records of the objects, and the ring of a port that is no far port's (R301, R306,
R325). -/
def State.tableKeys (s : State) (q : Req) : List Nat :=
  let hs := q.ask.handles.map (·.1)
  let new := match q.ask with
    | .kwave _ _ | .klook _ _ | .kname _ _ | .kdup _ _ => s.newHandleKeys q.proc
    | .far _ _ _ nameId _ port _ _ => s.recordKeys [nameId, port] ++ s.ringKey port
    | _ => []
  s.recordKeys [q.proc] ++ (hs.filter fun h => decide (bitsNat h 8 24 < s.htSize q.proc)).map (fun h => s.handleKey q.proc (bitsNat h 8 24)) ++
    match s.resolve q with
    | .inl _ => []
    | .inr _ => new ++ hs.flatMap fun h =>
      match s.handle q.proc h with
      | some (i, _, _) => s.objKey i :: s.ringKey i
      | none => []

/-- KNEXT_SERVE (R250, R253, R254): the front end of the object's home die hands out the next chunk. -/
def execKnextServe (id : Nat) (s : State) : Out :=
  .next <|
    match s.req id with
    | none => s
    | some q =>
      match q.ask, q.stage with
      | .knext _ a, .pending _ =>
        s.ownFirst (s.tableKeys q) (.knextServe id) <|
        match s.resolve q with
        | .inl (c, d) => s.answer id c d
        | .inr w =>
          let r := s.obj w
          let n := fld r 64 32
          let cur := fld r 128 32
          let words (x y : Nat) : List Host.Cell := cellsAt a (bytesLE 4 x ++ bytesLE 4 y)
          if n ≤ cur then s.answerWith id (BitVec.ofNat 32 stEMPTY) 0 (words 0xFFFFFFFF 0)
          else
            let e := min (cur + fld r 96 16 + 1) n
            let s1 := s.setFld w 128 32 e
            (if e = n then s1.setObjState w 2 else s1).answerOk id 0 (words cur (e - cur))
      | _, _ => s

/-! Names (R320 to R325). -/

def nsid (s : State) (part : Nat) : Nat := bitsNat (s.mreg (partBlock part + 0x18)) 0 16

/-- A 16-bit entry of the directory map (R411). -/
def State.dirEntry (s : State) (h : Nat) : Nat := bitsNat (s.mreg (0x200000 + 8 * (h / 4))) (16 * (h % 4)) 16

def npkg (s : State) : Nat := bitsNat (s.mreg 0x08) 16 11

/-- The directory node of a name: none when it cannot be reached (R321, R409, R411, R412).  A package in no domain finds
its own names itself. -/
def State.dirNode (s : State) (ns : Nat) (name : BitVec 256) : Option Nat :=
  if s.pkgId = 0 then some 0
  else
    let h := (crc32c (bytesLE 2 ns ++ bytesLE 32 name.toNat)).toNat / 2 ^ 24
    let n := s.dirEntry h
    if n = 0 || decide (npkg s < n) || (n != s.pkgId && (s.unreachable.contains n || bitsNat (s.mreg 0x50) 32 7 == 0)) then none
    else some n

/-- The entry of a name, among these; a package in no domain finds its own names alone (R409). -/
def State.entryIn (s : State) (l : List DirEnt) (ns : Nat) (name : BitVec 256) : Option DirEnt :=
  l.find? fun e => e.nsid == ns && e.name == name && (e.pkg == 0 || s.pkgId != 0)

def State.dirFind (s : State) (ns : Nat) (name : BitVec 256) : Option DirEnt := s.entryIn s.dir ns name

/-- Another package can be reached (R410, R412). -/
def State.reachable (s : State) (pkg : Nat) : Bool :=
  pkg == s.pkgId || (!s.unreachable.contains pkg && bitsNat (s.mreg 0x50) 32 7 != 0)

/-- KNAME at the port's home (R322): an entry and an id are held while the directory is asked. -/
def State.serveKname (s : State) (q : Req) (i : Nat) : State :=
  match s.freeHandle q.proc, s.freeId q.part (objHome i) with
  | none, _ => s.answer q.id stFULL 0
  | some _, none => s.answer q.id stFULL 5
  | some x, some n =>
    (s.modReq q.id fun q => { q with keep := some (x, n), stage := .pending i, ns := nsid s q.part }).later (.directoryInsert q.id)

/-- The directory node of a name holds 65,536 entries (R321). -/
def State.dirFull (s : State) (node : Nat) : Bool :=
  decide (65536 ≤ (s.dir.filter fun e => s.dirNode e.nsid e.name == some node).length)

/-- The name cache takes an entry, in place of an older one of the name (R321). -/
def cacheName (e : DirEnt) (l : List DirEnt) : List DirEnt :=
  fill 16384 e (l.filter fun x => !(x.nsid == e.nsid && x.name == e.name))

/-- The insertion that a KNAME waits for (R322). -/
def State.insertOwn (s : State) (id : Nat) : State :=
  match s.req id with
  | none => s
  | some q =>
    match q.ask, q.stage, q.keep with
    | .kname _ name, .pending port, some (x, n) =>
      s.ownFirst (s.recordKeys [q.proc, port, n] ++ [s.handleKey q.proc x]) (.directoryInsert id) <|
      let ns := q.ns
      -- the id held for it is free again, so that a launch may go on (R297)
      let no (code detail : Nat) : State := (s.answer id code detail).feed
      match s.dirNode ns name with
      | none => no stUNAVAILABLE 1
      | some node =>
        if objKind (s.obj q.proc) ≠ kPROC then no stUNAVAILABLE 12
        else if (s.dirFind ns name).isSome then no stCLASH 0
        else if s.dirFull node then no stFULL 3
        else
          let e : DirEnt := ⟨ns, name, 0, n, port⟩
          let r := withFld (withFld (header kNAME 1 q.proc 0 q.part) 64 24 port) 256 256 name.toNat
          let s1 := { (s.putObj n r).addRef port with
            dir := s.dir ++ [e], names := cacheName e s.names }
          let h := s1.newHandle q.proc x n 0xE0
          h.1.answerOk id h.2 []
    | _, _, _ => s

/-- DIRECTORY_INSERT (R321, R322): the directory node takes a name or refuses it; what other packages publish and withdraw
is an input, and changes nothing while this package is in no domain (R409). -/
def execDirectoryInsert (x : DirInput) (s : State) : Out :=
  .next <|
    match x with
    | .own id => s.insertOwn id
    | .other ns name pkg n port =>
      match s.dirNode ns name with
      | none => s
      | some node =>
        if s.pkgId = 0 ∨ pkg = s.pkgId ∨ (s.dirFind ns name).isSome ∨ s.dirFull node then s
        else { s with dir := s.dir ++ [(⟨ns, name, pkg, n, port⟩ : DirEnt)] }
    | .gone ns name pkg =>
      if pkg = s.pkgId then s
      else { s with dir := s.dir.filter fun e => !(e.nsid == ns && e.name == name && e.pkg == pkg) }

/-- A far port's record (R325). -/
def farRecord (proc part : Nat) (e : DirEnt) : BitVec 512 :=
  withFld (withFld (withFld (withFld (header kPORT 1 proc 0 part) 96 11 e.pkg) 128 24 e.nameId) 160 24 e.port) 192 256 e.name.toNat

/-- NAME_LOOKUP (R321, R324, R325): the cache, or the directory; then the handle. -/
def execNameLookup (id : Nat) (s : State) : Out :=
  .next <|
    match s.req id with
    | none => s
    | some q =>
      match q.ask, q.stage with
      | .klook dir name, .pending _ =>
        s.ownFirst (s.newHandleKeys q.proc) (.nameLookup id) <|
        let ns := q.ns
        let cached := if dir then none else s.entryIn s.names ns name
        match cached, s.dirNode ns name with
        | none, none => s.answer id stUNAVAILABLE 1
        | c, _ =>
          match (match c with | some e => some e | none => s.dirFind ns name) with
          | none => s.answer id stABSENT 0
          | some e =>
            let s0 := if c.isSome then s else { s with names := cacheName e s.names }
            if e.pkg = 0 then
              if !s.live (objHome e.nameId) then s0.answer id stUNAVAILABLE 2
              else
                match s0.freeHandle q.proc with
                | none => s0.answer id stFULL 0
                | some x =>
                  let h := s0.newHandle q.proc x e.port 0x01
                  h.1.answerOk id h.2 []
            else if !s.reachable e.pkg then s0.answer id stUNAVAILABLE 1
            else
              match s0.freeHandle q.proc, s0.freeId q.part q.core.die with
              | none, _ => s0.answer id stFULL 0
              | some _, none => s0.answer id stFULL 5
              | some x, some n =>
                let h := (s0.putObj n (farRecord q.proc q.part e)).newHandle q.proc x n 0x01
                h.1.answerOk id h.2 []
      | _, _ => s

/-- The other package's Crucible has answered a forwarded KSEND; an accepted grant goes on with its page entry (R328). -/
def State.farAnswered (s : State) (id : Nat) (answer : RemoteAnswer) : State :=
  match s.req id with
  | none => s
  | some q =>
    match q.ask, q.stage with
    | .ksend _ _ g, .pending _ =>
      if q.far.isNone || s.grants.any (·.req == id) then s
      else
        match answer with
        | .ok =>
          match g with
          | none => s.answer id stOK 0
          | some p =>
            s.ownFirst (s.walk q.part q.proc (pairVa p) (some (.event (.farGrant id)))).away (.farGrant id) <|
            match s.grantPage q.part q.proc p true with
            | some page => s.startGrant q p none page
            | none => s.answer id stCLASH 4
        | .full => s.answer id stFULL 0
        | .clash => s.answer id stCLASH 0
        | .absent =>
          ({ s with names := s.names.filter fun e =>
            !(e.nsid == q.ns && some e.name == q.far.map (·.2)) } : State).answer id stABSENT 0
        | .unavailable => s.answer id stUNAVAILABLE 0
    | _, _ => s

/-- The name a far port was made from is still published for it (R326 step 1). -/
def State.farNamed (s : State) (nameId : Nat) (name : BitVec 256) (port : Nat) : Bool :=
  let r := s.obj nameId
  objKind r == kNAME && objState r == 1 && fld r 64 24 == port && r.extractLsb' 256 256 == name

/-- A send of another package is served at its port's home here (R326, R328); a refusal leaves nothing. -/
def State.farArrives (s : State) (pkg ref sender nameId : Nat) (name : BitVec 256) (port : Nat) (msg : BitVec 512)
    (grant : Option Page) : State :=
  let r := s.obj port
  let ms := s.portMsgs port
  if !s.farNamed nameId name port || objKind r != kPORT || !s.live (objHome port) || decide (fld r 64 9 ≤ ms.length) then s
  else
    match grant with
    | none => s.setMsgs port (ms ++ [{ bits := msg, sender, pkg }])
    | some p =>
      if fld r 251 6 = 0 ∨ fld r 249 2 ≠ p.sz then s
      else s.setMsgs port (ms ++ [{ bits := msg, sender, pkg, page := some p, req := some (.far pkg ref) }])

/-- Requests of a partition in a die's input queue. -/
def State.queueUse (s : State) (d part : Nat) : Nat := ((s.crQueue d).filter (·.part == part)).length

/-- A send of another package reaches the input queue of its port's home, as a request of the port's partition; one that finds
no free entry is refused, and comes again (R317, R326; log 75). -/
def State.farQueued (s : State) (port : Nat) (a : Ask) : State :=
  let d := objHome port
  let p := objPart (s.obj port)
  if s.queueUse d p < (s.die d).queue.getD p 0 then
    let q : Req := { id := s.nextId, core := ⟨d, 0, 0⟩, team := 0, wid := 0, heat := 0, part := p, proc := 0, ask := a, d := 0
                     pair := false }
    ({ s with reqs := s.reqs ++ [q], nextId := s.nextId + 1 } : State).toCrucible s.nextId d none
  else s

/-- FAR_PORT_SEND (R326). -/
def execFarPortSend (x : FarSend) (s : State) : Out :=
  .next <|
    match x with
    | .answered id answer => s.farAnswered id answer
    | .arrives pkg ref sender nameId name port msg grant =>
      s.farQueued port (.far pkg ref sender nameId name port msg (grant.map fun p => ⟨p.pa, p.sz, p.rights⟩))
    | .settled pkg ref port ok =>
      if ok then s.setMsgs port (commitMsg (.far pkg ref) (s.portMsgs port))
      else s.setMsgs port ((s.portMsgs port).filter fun m => m.req != some (.far pkg ref))

/-- The package of the far port that a send waits on. -/
def State.farPkg (s : State) (id : Nat) : Option Nat :=
  match s.req id with
  | some q => (match q.stage with
    | .pending _ => q.far.map (·.1)
    | _ => none)
  | none => none

/-! KWAVE (R310). -/

/-- The live die of the partition named in AFF with the fewest queued teams. -/
def State.waveDie (s : State) (part aff : Nat) : Option Nat :=
  let n (d : Nat) : Nat := (s.runq.filter fun e => e.die == d && (s.clusters part d).contains e.cluster).length
  match (s.partDies part).filter fun d => aff.testBit d with
  | [] => none
  | d :: ds => some (ds.foldl (fun b c => if n c < n b then c else b) d)

/-- KWAVE served (R310): its checks in their order, and the team; the descriptor is the 32 bytes at the address, whether or not
it is a multiple of 32 (R140; log 82). -/
def State.serveKwave (s : State) (q : Req) (block : BitVec 768) (bufs : List BufRec) : State :=
  let no (d : Nat) : State := s.answer q.id stUNAVAILABLE d
  let descVa : BitVec 57 := block.extractLsb' 64 57
  let aff := bitsNat block 128 16
  if s.dying q.proc then no 12
  else if bitsNat block 48 16 ≠ 0 ∨ bitsNat block 121 7 ≠ 0 ∨ bitsNat block 147 109 ≠ 0 then no 10
  else
    match s.vreadNat q.part q.proc descVa 32 with
    | none => no 11
    | some dn =>
      let desc : Rec256 := BitVec.ofNat 256 dn
      match descFault desc with
      | some n => no n
      | none =>
        match s.waveDie q.part aff with
        | none => no 9
        | some d =>
          match s.freeHandle q.proc, s.freeId q.part d with
          | none, _ => s.answer q.id stFULL 1
          | some _, none => s.answer q.id stFULL 5
          | some x, some n =>
            if !s.queueRoom q.part d then s.answer q.id stFULL 2
            else
              let args := (List.range 16).map fun k => block.extractLsb' (256 + 32 * k) 32
              let t := freshTeam n q.part q.proc desc (block.extractLsb' 0 48) 0 0 0 args bufs 0
              let h := (s.createTeam t d (bitsNat block 144 3) aff descVa).newHandle q.proc x n 0xE4
              h.1.answerOk q.id h.2 []

/-! The serving step (R314). -/

/-- A far port forwards the send, which keeps what it needs of the port's record; an unreachable package answers at once
(R326, R412). -/
def State.forward (s : State) (q : Req) (i : Nat) : State :=
  let r := s.obj i
  if s.reachable (fld r 96 11) then s.modReq q.id fun q =>
    { q with stage := .pending i, far := some (fld r 96 11, r.extractLsb' 192 256), ns := nsid s q.part }
  else s.answer q.id stUNAVAILABLE 0

/-- One request served at its object's home. -/
def State.serve (s : State) (q : Req) (i : Nat) : State :=
  match q.ask with
  | .kwave b bs => s.serveKwave q b bs
  | .ksend _ m g => if isFar (s.obj i) then s.forward q i else s.serveKsend q i m g
  | .krecv _ a => s.serveKrecv q i a
  | .kwait _ t => s.serveKwait q i t
  | .karm _ dl ab p => s.serveKarm q i dl ab p
  | .kcancel _ => s.serveKcancel q i
  | .kbind _ m k => s.serveKbind q i m k
  | .kunbind _ k => s.serveKunbind q i k
  | .klook _ _ => (s.modReq q.id fun q => { q with stage := .pending 0, ns := nsid s q.part }).later (.nameLookup q.id)
  | .kname _ _ => s.serveKname q i
  | .kdup h m => s.serveKdup q h m
  | .kdrop h => s.serveKdrop q h
  | .kinfo _ n => s.serveKinfo q i n
  | .knext _ _ => (s.modReq q.id fun q => { q with stage := .pending i }).post 1 (.knextServe q.id)
  | .far pkg ref sender nameId name port msg grant =>
    (s.farArrives pkg ref sender nameId name port msg grant).dropReqs (·.id == q.id)
  | _ => s

/-- The next request of a die's queue: the first of a partition that has slots left in the frame; else the slot goes to the
partitions in turn (R319).  A partition in `skip` takes none. -/
def State.nextReq (s : State) (d : Nat) (skip : List Nat) : Option Req :=
  let x := s.die d
  let qs := (s.crQueue d).filter fun q => !skip.contains q.part
  match qs.find? fun q => decide (0 < x.left.getD q.part 0) with
  | some q => some q
  | none => (List.range 16).findSome? fun k => qs.find? (·.part == (x.turn + 1 + k) % 16)

/-- The slot is taken: it is the partition's own, or another's that it has in turn. -/
def State.takeSlot (s : State) (d part : Nat) : State :=
  if (s.die d).left.getD part 0 = 0 then s.modDie d fun x => { x with turn := part } else s.useSlot d part

/-- What serving a request reads besides, in the process's address space, or the page table that it waits for. -/
def State.askKeys (s : State) (q : Req) (by_ : Asker) : List Nat :=
  s.tableKeys q ++ if (s.resolve q).isLeft then [] else match q.ask with
  | .kwave b _ => s.vkeys q.part q.proc (b.extractLsb' 64 57) 32 (some by_)
  | .ksend _ _ (some p) => (s.walk q.part q.proc (pairVa p) (some by_)).away
  | .krecv h _ => match s.handle q.proc h with
    | some (i, _, _) => (match visible (s.portMsgs i) with
      | m :: _ => (match m.page, freeSlotOf (s.obj i) with
        | some p, some k => (s.walk q.part q.proc (slotVa (s.obj i) k p.sz) (some by_)).away
        | _, _ => [])
      | [] => [])
    | none => []
  | _ => []

/-- The partitions whose next request waits for the memory that serving it reads (R353, R412, R423), and that memory. -/
def State.heldParts (s : State) (d : Nat) : List (Nat × List Nat) :=
  (List.range 16).filterMap fun p =>
    match (s.crQueue d).find? (·.part == p) with
    | some q =>
      let by_ : Asker := .event (.crucibleServe d)
      if (s.askKeys q by_).any (s.accessWaits by_) then some (p, s.askKeys q by_) else none
    | none => none

/-- CRUCIBLE_SERVE (R306, R314, R319): the issuing die's Crucible resolves the handles and forwards, and the home resolves them
as it serves; each uses a slot of the partition.  A request that waits for memory holds back those of its partition. -/
def execCrucibleServe (die : Nat) (s0 : State) : Out :=
  .next <|
    let held := s0.heldParts die
    let s := held.foldl (fun s h => s.askFor h.2 (.event (.crucibleServe die))) s0
    match s.nextReq die (held.map (·.1)) with
    | none => if held.isEmpty then s else s.post 1 (.crucibleServe die)
    | some q =>
      if !s.live die then s.answer q.id stUNAVAILABLE 0
      else
        let s1 := s.takeSlot die q.part
        match s1.resolve q with
        | .inl (c, d) => s1.answer q.id c d
        | .inr i =>
          if q.ask.handles.isEmpty || objHome i == die then s1.serve q i else s1.toCrucible q.id (objHome i) (some i)

/-! Delivery (R256, R315). -/

/-- The registers a result writes: sD, and s(D+1), which is 0 unless the status is OK (R305). -/
def Req.writes (q : Req) (status value : Word) : List RegWrite :=
  (if q.pair then [RegWrite.s (q.d + 1) (if status &&& 0xFF = 0 then value else 0)] else []) ++ [.s q.d status]

def Req.tag (q : Req) : Option Nat :=
  match q.ask with
  | .catchTile _ _ t _ _ => t
  | _ => none

/-- The wave takes results no more (R151). -/
def Team.gone (t : Team) (wid : Nat) : Bool := ((t.wave wid).map (·.ended)).getD true

/-- A result in the team: scratchpad bytes, the tag of a catch, the registers, and the retirement (R305, R391).  For a wave
that has ended it is discarded whole, and only its counter falls (R151, R315, R398; log 69).  Both words of an answer are written in one step, so
that no racing LDS sees them from different writes, one of the outcomes that R255 allows (log 101, DESIGN CHOICE). -/
def Team.result (t : Team) (cycle : Nat) (r : OpRef) (ws : List RegWrite) (cells : List Host.Cell) (tag : Option Nat) : Team :=
  let isGone := t.gone r.wid
  let t1 := if isGone then t else { t with sp := memWrites t.sp cells }
  let t2 := match tag with
    | some g => { t1 with
      tags := if isGone then t1.tags else t1.tags ||| ((1 : DWord) <<< g), busy := t1.busy &&& ~~~((1 : DWord) <<< g) }
    | none => t1
  t2.modWave r.wid fun w =>
    let w1 := (w.write t.prog ws).arrived cycle (ws.map RegWrite.reg)
    ({ w1 with ops := w1.ops.map fun (o : Op) => if o.id == r.op then { o with done := true } else o } : Wave).retireAll

/-- The values of an operation that may be written in cycle `now`, and those that come later. -/
def Op.come (now : Nat) (o : Op) : List RegWrite := (o.due.filter fun d => decide (d.1 ≤ now)).flatMap (·.2)
def Op.toCome (now : Nat) (o : Op) : List (Nat × List RegWrite) := o.due.filter fun d => !decide (d.1 ≤ now)

/-- The threads of register writes (R281). -/
def RegWrite.tid : RegWrite → Option Nat
  | .v t _ _ | .p t _ _ => some t
  | _ => none

/-- The values of some of an operation's threads: their registers, which stay pending until the last has come (R26). -/
def Team.partial_ (t : Team) (r : OpRef) (ws : List RegWrite) : Team :=
  let ts := ws.filterMap RegWrite.tid
  ({ t with banks := t.banks.map fun (q : BankReq) => if q.wid == r.wid && q.op == r.op && ts.contains q.tid then q.mute else q }).modWave r.wid fun w =>
    { (w.write t.prog ws) with ops := w.ops.map fun (o : Op) => if o.id == r.op then
        { o with due := o.due.filter fun d => !(d.2.filterMap RegWrite.tid).any ts.contains } else o }

/-- KERNEL_RESULT_DELIVERY (R256, R281, R315): to the resident team, logged and recorded, since a request leaves its core only
when its heat is set; or into its image; a result for a team that is gone is discarded. -/
def execKernelResultDelivery (id : Nat) (s : State) : Out :=
  .next <|
    match s.req id with
    | none => s
    | some q =>
      match q.stage with
      | .answered status value cells =>
        let ref : OpRef := ⟨q.team, q.wid, id⟩
        let ws := q.writes status value
        let done (s : State) : State := { s.dropReqs (·.id == id) with catches := s.catches.filter (·.req != id) }
        let put (t : Team) : Team := t.result s.cycle ref ws cells q.tag
        match s.coreOf q.team with
        | some k =>
          let again := s.post 1 (.kernelResultDelivery id)
          let ks := (cells.map fun c => LogKey.spad q.team (c.1 / 64)).eraseDups ++ ws.map (·.logKey q.team q.wid)
          let n := 1 + cells.length / 64
          if k.rollback.isSome then again
          else if !k.roomFor ks n then again.modCore k.id (·.waits 9 s.cycle)
          else
            (done s).setCore (((k.logged ks).returnedSet n (.result ref ws cells q.tag)).modTeam q.team put)
        | none =>
          let s1 := (done s).onTeam q.team put
          match q.ask, s.image q.team with
          | .kwait _ _, some i => if i.auto then s1.requeue q.team else s1
          | _, _ => s1
      | _ => s

end Sys2Proof.Machine
end

