-- ==== Sys2Proof/Machine/Special.lean ====
section
/-! DEFINITION. SFIRST, SRD and SWR (spec/05_integer_scalar.md R98 to R100; spec/02 R18; spec/24 R414). -/

namespace Sys2Proof.Machine

/-- SFIRST (R98). -/
def execSfirst (f : RForm) (s : State) : Out :=
  let pair := is64 f.ty
  let i : Issue := { issueOfR Spec.sfirst f 1 with uniform := true }
  begin_ s i fun x act =>
    x.deliverAll i .once act fun t => (regWrites 0 f.d true pair (x.rd t f.a false pair), 0)

/-- The number of registers a special register fills (R99). -/
def specialRegs (sel : Nat) : Nat :=
  if sel = 11 then 3 else if [10, 15, 16, 17].contains sel then 2 else 1

/-- The value of a special register for thread `t` (R18, R99). -/
def Ctx.special (x : Ctx) (t sel : Nat) : Nat :=
  let h := x.thread t
  match sel with
  | 0 => t
  | 1 => x.w.wid
  | 2 => x.wave.role
  | 3 => x.team.x.toNat
  | 4 => x.team.y.toNat
  | 5 => x.team.z.toNat
  | 6 => x.core.id.core
  | 7 => x.core.id.cluster
  | 8 => x.core.id.die
  | 9 => bitsNat (x.s.mreg 0x08) 0 11
  | 10 => x.s.cycle - x.s.born x.core.id.die
  | 11 => x.s.ptp.toNat
  | 12 => match x.core.cur with | some k => k.num.toNat | none => 0
  | 13 => h.code
  | 14 => h.xaux.toNat
  | 15 => h.xpc.toNat
  | 16 => h.xcb.toNat
  | _ => h.xaddr.toNat

/-- SRD (R99): with an s destination the first active thread's value, else each thread of the run its own. -/
def execSrd (f : RForm) (s : State) : Out :=
  let n := specialRegs f.a.toNat
  let rg (k : Nat) : Reg := if f.dk then .s (f.d.toNat + k) else .v (f.d.toNat + k)
  let i : Issue := { g := f.g, uniform := true, writes := (List.range n).map rg }
  let one (t k : Nat) (w : Word) : RegWrite := if f.dk then .s (f.d.toNat + k) w else .v t (f.d.toNat + k) w
  begin_ s i fun x act =>
    let val (t : Nat) : List RegWrite :=
      (List.range n).map fun k => one t k (BitVec.ofNat 32 (x.special t f.a.toNat >>> (32 * k)))
    if f.dk then x.deliverAll i .once act fun t => (val t, 0)
    else x.deliverAll i .wholeRun act fun t => (val t, 0)

/-- SWR (R100). -/
def execSwr (f : RForm) (s : State) : Out :=
  let i : Issue := { g := f.g, uniform := true, reads := regsOf f.a true true }
  begin_ s i fun x act =>
    let v : WAddr := (x.spair f.a).setWidth 48
    let ks := x.run.map fun t => LogKey.rcd x.w.team x.w.wid (t / 2)
    if x.room ks then
      let lo := if f.d == 15 then 16 else 64
      ((x.run.foldl (fun y t => y.modThread t fun h => { h with rcd := setBits h.rcd lo v }) x).log ks).next.close
        (i.cost act) 0
    else x.holdFor 9

end Sys2Proof.Machine
end

