-- ==== Sys2Proof/Machine/Heats.lean ====
section
/-! DEFINITION. Heats, the departure of held effects, strike rollback, and the completion of loads and stores
(spec/17_heats_rollback.md R275 to R293; spec/09 R162, R169). -/

namespace Sys2Proof.Machine

/-- HEATC (R286, R287): the run is held while the previous heat is closed; `.set` holds it on until the heat it closed is
set. -/
def execHeatc (f : RForm) (s : State) : Out :=
  begin_ s (uniformIssue f.g) fun x _ =>
    match x.wave.heatWait with
    | some h =>
      if x.core.isSet h then (x.modWave fun w => { w with heatWait := none }).next.close 1 0 else x.hold
    | none =>
      if x.core.old.isSome then x.hold
      else if hasBit f.sub 0 then
        (x.modWave fun w => { w with heatWait := some x.heatNum }).hold.closeHeat x.w.core
      else (x.next.close 1 0).closeHeat x.w.core

/-- PERFR (R288). -/
def execPerfr (f : RForm) (s : State) : Out :=
  let i : Issue := { uniformIssue f.g with writes := regsOf f.d true true }
  begin_ s i fun x act =>
    x.deliverAll i .once act fun _ => (regWrites 0 f.d true true (x.core.perf.getD f.sub.toNat 0), 0)

/-! Closing and setting (R276 to R278). -/

/-- HEAT_CLOSE_TIMEOUT (R276): the open heat has been open for K cycles. -/
def execHeatCloseTimeout (c : CoreId) (s : State) : Out :=
  .next <|
    match (s.core c).cur with
    | some h => if h.opened + h.k ≤ s.cycle && (s.core c).rollback.isNone then s.requestClose c else s
    | none => s

/-- HEAT_CLOSE_LOG (R276, R282): the undo log holds 2,304 entries. -/
def execHeatCloseLog (c : CoreId) (s : State) : Out :=
  .next <|
    let k := s.core c
    if decide (2304 ≤ Ctx.heatLoad k.cur + Ctx.heatLoad k.old) && k.rollback.isNone && !k.closeReq then s.requestClose c
    else s

/-- A released effect, or an effect of a heat that is being set. -/
def Held.freedBy (num : BitVec 32) (e : Held) : Bool := e.released || e.heat == num

/-- HEAT_SET (R278, R289): the heat's effects are released with its counter export behind them, and its log is freed; a
close that waited takes place. -/
def execHeatSet (c : CoreId) (s : State) : Out :=
  .next <|
    let k := s.core c
    match k.old with
    | none => s
    | some h =>
      match h.closed with
      | none => s
      | some at_ =>
        if k.rollback.isSome then s.post 1 (.heatSet c)
        else if s.cycle ≤ at_ + heatD then s
        else
          let freed := k.held.filter (Held.freedBy h.num)
          let later := k.held.filter fun e => !e.freedBy h.num
          let n := ((freed.filter fun e => !e.released).map (·.entries)).sum
          let k1 : Core := { k with old := none, held := freed.map (fun e => { e with released := true }) ++ later }
          let s1 := (s.setCore ((k1.count 11 1).count 7 n)).postOnce (.holdbackDepart c)
          if k1.closeReq then s1.closeHeat c else s1

/-! Departure (R283). -/

/-- The partition of a team, wherever it is. -/
def State.teamPart (s : State) (oid : Nat) : Nat :=
  match s.coreOf oid with
  | some k => ((k.team oid).map (·.part)).getD 0
  | none => match s.image oid with
    | some i => i.team.part
    | none => ((List.range 16).find? (s.inRange · oid)).getD 0

def State.onOp (s : State) (r : OpRef) (f : Op → Op) : State :=
  s.onTeam r.team fun t => t.modWave r.wid fun w =>
    { w with ops := w.ops.map fun (o : Op) => if o.id == r.op then f o else o }

def OpRef.wave (r : OpRef) (c : CoreId) : WaveId := ⟨c, r.team, r.wid⟩

/-- The keys an effect is about to touch. -/
def HeldKind.keys : HeldKind → List Nat
  | .store cs | .l1 cs | .rmw cs => cs.map (·.1)
  | .atomic _ w _ apps => apps.flatMap fun a => (List.range w).map (a.addr + ·)
  | _ => []

/-- An atomic's applications at its place of performance (R165, R166): memory is updated, and the old words go into the
operation's result. -/
def State.applyWide (s : State) (r : OpRef) (sub w : Nat) (ret : Option Nat) (apps : List AtomApp) : State :=
  let p := s.teamPart r.team
  let a := applyAtoms sub w (fun cs k => overlayNat (s.physRead (some p)) cs k w) apps []
  let s1 := s.physWrite (some p) a.2
  match ret with
  | none => s1
  | some _ =>
    s1.onOp r fun o =>
      { o with result := o.result ++ a.1.flatMap fun q => loadWrites (o.pend.take (w / 4)) q.1 w false q.2 }

/-- All of it has been performed: it is complete, or its results are on their way. -/
def State.performAtomic (s : State) (c : CoreId) (r : OpRef) (sub w : Nat) (ret : Option Nat) (apps : List AtomApp) : State :=
  ((s.applyWide r sub w ret apps).onOp r fun o => { o with left := 0 }).later
    (match ret with | none => .storePerformed (r.wave c) r.op | some _ => .loadResult (r.wave c) r.op)

/-- A core's export block (R289). -/
def exportBlock (c : CoreId) : Nat := dieBlock c.die + 0x2000 + 128 * (16 * c.cluster + c.core)

/-- A CINV takes its lines out of the caches inside its scope (R168). -/
def State.invalidated (s : State) (c : CoreId) (ls : List Nat) (scope : Nat) : State :=
  if ls.isEmpty then s
  else
    let s1 := s.modCore c fun k => { k with l1 := if 2 ≤ scope then k.l1.filter fun l => !ls.contains l else k.l1 }
    if 3 ≤ scope then { s1 with l2c := s1.l2c.filter fun q => !(q.1 == clusterOf c && ls.contains q.2) } else s1

/-- What an effect does when it leaves the core. -/
def State.depart (s : State) (c : CoreId) (h : Held) : State :=
  match h.kind with
  | .store cs => (s.physWrite (some (s.teamPart h.ref.team)) cs).later (.storePerformed (h.ref.wave c) h.ref.op)
  | .l1 cs | .rmw cs => s.physWrite (some (s.teamPart h.ref.team)) cs
  | .atomic sub w ret apps => s.performAtomic c h.ref sub w ret apps
  | .maint ls sc => (s.invalidated c ls sc).later (.storePerformed (h.ref.wave c) h.ref.op)
  | .copy t k =>
    (s.modTeam c t fun tm =>
      { tm with copies := modWhere (·.id == k) (fun y => { y with gate := false }) tm.copies }).engine c t k
  | .request id =>
    ((s.modCore c fun k => { k with replay := k.replay ++ [id] }).modReq id fun q => { q with stage := .sent 0 }).send id
  | .ship t => s.departShip c t
  | .image t => s.departImage c t
  | .report t => s.departReport c t
  | .perf ws => (ws.mapIdx fun n w => (n, w)).foldl (fun s q => s.setMreg (exportBlock c + 8 * q.1) q.2) s

/-- The part of an effect of several lines that leaves first, `n` lines of it, and the rest (R283). -/
def HeldKind.split (n : Nat) : HeldKind → HeldKind × HeldKind
  | .store cs =>
    let ls := (linesOf (cs.map (·.1))).take n
    (.store (cs.filter fun q => ls.contains (q.1 / 64)), .store (cs.filter fun q => !ls.contains (q.1 / 64)))
  | .atomic sub w ret apps =>
    let ls := (linesOf (apps.map (·.addr))).take n
    (.atomic sub w ret (apps.filter fun a => ls.contains (a.addr / 64)),
      .atomic sub w ret (apps.filter fun a => !ls.contains (a.addr / 64)))
  | k => (k, k)

/-- Lines of an effect that leave before its last ones do. -/
def State.departPart (s : State) (h : Held) : State :=
  match h.kind with
  | .store cs => s.physWrite (some (s.teamPart h.ref.team)) cs
  | .atomic sub w ret apps => s.applyWide h.ref sub w ret apps
  | _ => s

/-- The application of an atomic that the host-link engine performs next, and those that are left (R403). -/
def HeldKind.hostApp : HeldKind → Option (AtomApp × HeldKind)
  | .atomic sub w ret apps => (apps.find? (·.nc)).map fun a => (a, .atomic sub w ret (apps.erase a))
  | _ => none

/-- The engine still owes a write to one of the bytes, to an atomic of whatever core, so that it begins no other there (R403). -/
def State.engineOwes (s : State) (keys : List Nat) : Bool :=
  s.cores.any fun k => k.held.any fun h => match h.kind with | .rmw cs => cs.any fun q => keys.contains q.1 | _ => false

/-- The host-link engine reads the word of an atomic's application, whose old value is the thread's result, and owes the write of the
new one (R403): a host's store to the word may fall in between, and is then overwritten (log 84). -/
def State.linkRead (s : State) (c : CoreId) (h : Held) (a : AtomApp) (left : HeldKind) (rest : List Held) : State :=
  let p := some (s.teamPart h.ref.team)
  match h.kind with
  | .atomic sub w ret _ =>
    let old := overlayNat (s.physRead p) [] a.addr w
    let cells := cellsAt a.addr (bytesLE w (atomNew sub w old a.x.toNat a.y.toNat))
    let s1 := s.modCore c fun k => { k with held := { h with kind := .rmw cells, entries := 0 } :: { h with kind := left } :: rest }
    match ret with
    | none => s1
    | some _ => s1.onOp h.ref fun o => { o with result := o.result ++ loadWrites (o.pend.take (w / 4)) a.tid w false old }
  | _ => s

/-- A result of a core-scope atomic that is released waits while a later heat, not yet set, has written its line too (R280). -/
def Core.linePinned (k : Core) (h : HeldKind) : Bool :=
  match h with
  | .l1 cs => (linesOf (cs.map (·.1))).any k.pinned.contains
  | _ => false

/-- The oldest released effect leaves, unless its region or package waits (R353, R412), its line is still pinned (R280) or the
replay window is full (R317), as far as `n` entries go; and the entries that are left to leave in this cycle. -/
def State.departOne (s : State) (c : CoreId) (n : Nat) : State × Nat :=
  let k := s.core c
  match k.held with
  | [] => (s, 0)
  | h :: rest =>
    let ks := h.kind.keys
    let full := (match h.kind with | .request _ => decide (32 ≤ k.replay.length) | _ => false)
    if !h.released then (s, 0)
    else if ks.any (s.accessWaits (.held c h.ref)) then (s.askFor ks (.held c h.ref), 0)
    else if full || k.linePinned h.kind then (s, 0)
    else if let some (a, left) := h.kind.hostApp then
      (if s.engineOwes ((List.range 8).map (a.addr + ·)) then s else s.linkRead c h a left rest, 0)
    else if n < h.entries then
      let p := h.kind.split n
      ((s.setCore { k with held := { h with kind := p.2, entries := h.entries - n } :: rest }).departPart { h with kind := p.1 }, 0)
    else ((s.setCore { k with held := rest }).depart c h, n - h.entries)

/-- Up to two entries leave; the L1 writes of atomics and what the host-link engine owes, which take none, leave with what they
stand before. -/
def State.departs (c : CoreId) : (fuel : Nat) → Nat → State → State
  | 0, _, s => s
  | f + 1, n, s => if n = 0 then s else let r := s.departOne c n; State.departs c f r.2 r.1

/-- HOLDBACK_DEPART (R283): up to two released entries leave in their order, and an export that waits for an entry takes
one. -/
def execHoldbackDepart (c : CoreId) (s : State) : Out :=
  .next <|
    let s1 := (State.departs c ((s.core c).held.length) 2 s).modCore c Core.putExports
    match (s1.core c).held with
    | h :: _ => if h.released then s1.postOnce (.holdbackDepart c) else s1
    | [] => s1

/-! Completion of loads and stores (R162, R169). -/

/-- LOAD_RESULT (R162, R166, R170, R281): the values that have come are written, logged and, for a heat already set,
recorded; with the last of them the operation is complete. -/
def execLoadResult (w : WaveId) (op : Nat) (s : State) : Out :=
  .next <|
    let ref : OpRef := ⟨w.team, w.wid, op⟩
    match s.coreOf w.team with
    | none => s.onTeam w.team fun t =>
        match (t.wave w.wid).bind fun v => v.ops.find? (·.id == op) with
        | some o =>
          let ws := o.come s.cycle
          if o.done then t
          else if o.left == 0 && (o.toCome s.cycle).isEmpty then t.result s.cycle ref (o.result ++ ws) [] none
          else t.partial_ ref ws
        | none => t
    | some k =>
      match (k.team w.team).bind fun t => (t.wave w.wid).bind fun v => v.ops.find? (·.id == op) with
      | none => s
      | some o =>
        let again := s.post 1 (.loadResult w op)
        let last := o.left == 0 && (o.toCome s.cycle).isEmpty
        let ws := (if last then o.result else []) ++ o.come s.cycle
        let ks := ws.map (·.logKey w.team w.wid)
        let set := o.out && o.left == 0
        let n := if set || !k.ofOpen o.heat then (ws.length + 15) / 16 else 0
        if o.done || (!last && ws.isEmpty) then s
        else if k.rollback.isSome then again
        else if !k.roomFor ks n then again.modCore k.id (·.waits 9 s.cycle)
        else
          let r : Return := if last then .result ref ws [] none else .part ref ws
          let k1 := k.logged ks
          s.setCore ((if set then k1.returnedSet n r else k1.returned o.heat n r).modTeam w.team fun t =>
            if last then t.result s.cycle ref ws [] none else t.partial_ ref ws)

/-- STORE_PERFORMED (R169, R173). -/
def execStorePerformed (w : WaveId) (op : Nat) (s : State) : Out :=
  .next <| s.onTeam w.team fun t => t.modWave w.wid fun v =>
    ({ v with ops := v.ops.map fun (o : Op) => if o.id == op then { o with done := true } else o } : Wave).retireAll

/-! Strikes against cores (R290 to R293). -/

/-- A 64-bit counter of a die (R433): 0 STRK, 1 RBK, 2 RTRY, 3 MCHK, 4 SLOSS. -/
def State.bump (s : State) (die n by_ : Nat) : State :=
  let a := dieBlock die + 0x10 + 8 * n
  s.setMreg a (s.mreg a + BitVec.ofNat 64 by_)

/-- T_rb (R292). -/
def Core.rollbackTime (k : Core) : Nat := 32 + (Ctx.heatLoad k.cur + Ctx.heatLoad k.old + 3) / 4

/-- The engine word in flight is abandoned (R249, R291). -/
def State.abandonEngine (s : State) (c : CoreId) : State :=
  { s with agenda := s.agenda.filter fun e => match e.2 with | .engineWordComplete d _ => d != c | _ => true }

/-- A report names the core (R290): issue stops, with the word in the engine. -/
def State.struck (s : State) (c : CoreId) : State :=
  let k := s.core c
  let s1 := s.bump c.die 0 1
  if k.inReset || k.teams.isEmpty || (k.cur.isNone && k.old.isNone) then s1
  else
    let n := k.rollbackTime
    (((s1.abandonEngine c).setCore ({ k with rollback := some (s.cycle + n) }.count 10 1)).bump c.die 1 1).post n
      (.rollbackComplete c)

/-- STRIKE_REPORT (R290, R291): each named core begins, or restarts, its rollback. -/
def execStrikeReport (cores : List CoreId) (s : State) : Out := .next (cores.foldl State.struck s)

/-- An operation of the snapshot as the rollback leaves it: what another heat's effect has done to it since stands. -/
def Op.restored (cur : List Op) (o : Op) : Op :=
  if o.spad || !(o.cls == .ld || o.cls == .st) then o
  else
    match cur.find? (·.id == o.id) with
    | some c =>
      if o.cls == .st then { o with done := c.done, out := c.out }
      else if c.done then o
      else { o with result := c.result, left := c.left, out := c.out }
    | none => if o.cls == .st then { o with done := true } else o

def Wave.restored (cur : Option Wave) (w : Wave) : Wave :=
  let ops := match cur with | some c => c.ops | none => []
  ({ w with det := {}, timer := 0, ops := w.ops.map (Op.restored ops) } : Wave).retireAll

/-- A copy of the snapshot: an outbound one runs on, an inbound one starts again from its first byte. -/
def Copy.restored (cur : List Copy) (c : Copy) : Copy :=
  if c.inbound then { c with moved := 0, words := [], want := [] } else (cur.find? (·.id == c.id)).getD c

/-- A team of the snapshot (R291); a swap that the Sprue asked for is asked for again, the Runner's of a blocked team recurs
only where the re-execution comes to it (R293); with a team of a persistent grid whose other teams are `out`, the swap goes on or, where
it had been leaving for another reason, begins, since none of the grid issues alone (R259). -/
def Team.restored (out : Bool) (t cur : Team) : Team :=
  { t with
    waves := t.waves.map fun w => w.restored (cur.wave w.wid)
    copies := t.copies.map (Copy.restored cur.copies)
    leave := match cur.leave with
      | some (.swap .wait) => if out then some (.swap .wait) else t.leave
      | some (.swap a) => some (.swap a)
      | _ => if out && t.leave.isNone then some (.swap .wait) else t.leave }

/-- Some team of the persistent grid is leaving another core by a swap, or stands saved without having faulted (R259). -/
def State.gridAway (s : State) (c : CoreId) (grid : Nat) : Bool :=
  ((s.gridOf grid).map (·.pers)).getD false && ({ s with cores := s.cores.filter (·.id != c) } : State).gridOut grid

/-- A return record is replayed (R281); one of an operation that the rollback has undone finds nothing to act on. -/
def State.replayReturn (s : State) (c : CoreId) (r : Return) : State :=
  match r with
  | .result ref ws sp tag => s.modTeam c ref.team fun t =>
      if t.waves.any fun w => w.wid == ref.wid && w.ops.any fun o => o.id == ref.op && !o.done then
        t.result s.cycle ref ws sp tag
      else t
  | .part ref ws => s.modTeam c ref.team fun t => t.partial_ ref ws
  | .reply oid key deny mask =>
    match (s.core c).team oid with
    | some t =>
      let r := t.reply key deny mask
      let s1 := s.modCore c (·.setTeam r.1)
      if r.2 then s1.replySeq c r.1 key deny mask else s1
    | none => s
  | .land oid copy => s.modTeam c oid fun t =>
      match t.copies.find? (·.id == copy) with
      | some c => t.landed c
      | none => t

/-- What a restored team is due: its inbound copies from their first byte, its bank requests, its stream and engine word,
its demotions, which last 256 cycles from here (log 95, DESIGN CHOICE), and its leaving. -/
def State.rearm (s : State) (c : CoreId) (t : Team) : State :=
  let s1 := (t.copies.filter Copy.inbound).foldl (fun s y => s.engine c t.oid y.id) s
  let s2 := t.banks.foldl (fun s q => s.post 1 (.scratchpadBankServe c (q.banksOf.headD 0))) s1
  let s3 := if t.seq.busy then s2.post 1 (.engineWordComplete c t.oid) else s2
  let s4 := t.waves.foldl (fun s w => (tids.filter fun k => (w.thread k).tier == 1).foldl
    (fun s k => s.post 256 (.spinDemotionExpiry ⟨c, t.oid, w.wid⟩ k)) s) s3
  let s5 := match t.leave with
    | some (.swap _) | some (.fault _) => s4.post 1 (.swapOut c t.oid)
    | some .retire => s4.post 1 (.teamRetire c t.oid)
    | some .migrate => s4.post 1 (.migrShip c t.oid)
    | none => s4
  s5.goOn c t

/-- The start states of the oldest unset heat's rollback: a team admitted since stands as it was last admitted, one resident
at the start as in the snapshot (R291). -/
def Core.startTeams (k : Core) : List Team :=
  let hs := k.old.toList ++ k.cur.toList
  (hs.flatMap (·.admitted)).reverse ++ (match hs with | h :: _ => h.snap | [] => [])

/-- A shipment of the team has been released: its MIGR's heat is set, so that the rollback leaves its landing slot (R267). -/
def Core.shipped (k : Core) (team : Nat) : Bool := k.held.any fun h => h.released && h.kind == .ship team

/-- ROLLBACK_COMPLETE (R291, R292): the core stands at the start of its oldest unset heat, with the return records replayed,
and a new heat opens. -/
def execRollbackComplete (c : CoreId) (s : State) : Out :=
  .next <|
    let k := s.core c
    match k.rollback with
    | none => s
    | some e =>
      if s.cycle < e then s
      else
        let ts := k.teams.map fun cur =>
          match k.startTeams.find? (·.oid == cur.oid) with
          | some t => t.restored (s.gridAway c cur.grid) cur
          | none => cur
        let lost := k.held.filter fun h => !h.released
        let ids := lost.filterMap fun h => match h.kind with | .request id => some id | _ => none
        let k1 := { k with
          teams := ts, cur := none, old := none, held := k.held.filter (·.released), rcache := [], bankAt := []
          rollback := none, closeReq := false, exports := k.exports.filter fun e => k.isSet e.1 }
        let s1 := ((k.old.toList ++ k.cur.toList).flatMap (·.rets)).foldl (fun s r => s.replayReturn c r.2) (s.setCore k1)
        let s2 := (s1.dropReqs fun q => ids.contains q.id).openHeat c
        let s3 := k.teams.foldl (fun s t => if k.shipped t.oid then s else s.unreserve t.oid c) s2
        (s3.core c).teams.foldl (fun s t => s.rearm c t) s3

end Sys2Proof.Machine
end

