-- ==== Sys2Proof/Machine/Carousel.lean ====
section
/-! DEFINITION. The carousel class (spec/22_carousel.md R383 to R398). -/

namespace Sys2Proof.Machine

/-! Issue (R388, R389). -/

def tileBytes : Nat := 32768

/-- BOARD (R389). -/
def execBoard (f : KForm) (s : State) : Out :=
  kernel f [.s f.a.toNat, .s f.b.toNat] false (fun x => argAt (x.sword f.b) tileBytes) noPre
    (fun x => .board (x.sword f.a) (x.sword f.b).toNat) s

/-- ALIGHT (R389). -/
def execAlight (f : KForm) (s : State) : Out :=
  kernel f [.s f.a.toNat] false (fun _ => []) noPre (fun x => .alight (x.sword f.a)) s

/-- CWRITE (R389). -/
def execCwrite (f : KForm) (s : State) : Out :=
  kernel f [.s f.a.toNat, .s f.b.toNat] false (fun x => argAt (x.sword f.b) tileBytes) noPre
    (fun x => .cwrite (x.sword f.a) (x.sword f.b).toNat) s

/-- The part of the tile a CATCH takes: its first byte and length. -/
def catchPart (f : KForm) : Nat × Nat :=
  if f.mod.getLsbD 7 then (4096 * bitsNat f.mod 1 3, 4096 * (bitsNat f.mod 4 3 - bitsNat f.mod 1 3 + 1)) else (0, tileBytes)

/-- CATCH's tag is busy from its issue (R389). -/
def catchPre (f : KForm) (x : Ctx) (_ : Issue) (_ : List Nat) : Pre :=
  if f.mod.getLsbD 0 then .go x
  else
    let g := bitsNat (x.sword f.c) 0 6
    if hasBit x.team.busy g then .stop x.hold
    else .go (x.modTeam fun t =>
      { t with tags := t.tags &&& ~~~((1 : DWord) <<< g), busy := t.busy ||| ((1 : DWord) <<< g) })

/-- CATCH (R389). -/
def execCatchTile (f : KForm) (s : State) : Out :=
  let nt := f.mod.getLsbD 0
  kernel f ([.s f.a.toNat, .s f.b.toNat] ++ if nt then [] else [.s f.c.toNat]) false
    (fun x => argAt (x.sword f.b) (catchPart f).2) (catchPre f)
    (fun x => .catchTile (x.sword f.a) (x.sword f.b).toNat (if nt then none else some (bitsNat (x.sword f.c) 0 6))
      (catchPart f).1 (catchPart f).2) s

/-! The ring (R383 to R385, R394). -/

def carNS (s : State) : Nat := bitsNat (s.mreg 0x10) 0 14
def carNCH (s : State) : Nat := bitsNat (s.mreg 0x10) 16 9
def carSeg (s : State) (p : Nat) : DWord := s.mreg (partBlock p + 0x28)
def segFirst (v : DWord) : Nat := bitsNat v 0 13
def segCount (v : DWord) : Nat := bitsNat v 16 14
def segCQ (v : DWord) : Nat := bitsNat v 32 10

/-- The ring is stopped, its channels are changing, or the partition has no segment (R384, R385, R410). -/
def State.carOff (s : State) (p : Nat) : Bool :=
  let f := s.mreg 0x50
  carNS s == 0 || carNCH s == 0 || segCount (carSeg s p) == 0 || (hasBit f 39 && bitsNat f 0 9 != carNCH s)

/-- A lap in picoseconds, and in main-clock cycles (R394). -/
def State.lapPs (s : State) : Nat := carNS s * 65536000 / (125 * carNCH s) + 320000
def State.lap (s : State) : Nat := s.cyclesIn s.lapPs

/-- The instant, after the time `t`, at which a slot next passes a station: slots pass in ascending order, and a station an
eighth of a lap after the one before it (R383). -/
def State.passAfter (s : State) (t slot die : Nat) : Nat :=
  let l := s.lapPs
  let d := (slot * l / carNS s + die * l / 8 + (l - t % l)) % l
  t + if d = 0 then l else d

/-- The instant at which a slot last passed a station. -/
def State.lastPass (s : State) (slot die : Nat) : Nat := s.passAfter s.wall slot die - s.lapPs

/-- The passage of a slot that follows an instant is due, once, whatever waits for it (R387); one that has gone by while an
instruction took its cycles is the next to be seen to. -/
def State.postPass (s : State) (t slot die : Nat) : State :=
  let c := s.cycleAt (s.passAfter t slot die)
  let same (e : Nat × Due) : Bool := e.2 == .slotPassage slot die false && decide (e.1 ≤ c + 1) && decide (c ≤ e.1 + 1)
  if s.agenda.any same then s else { s with agenda := s.agenda ++ [(c, .slotPassage slot die false)] }

/-- The partition whose segment holds a slot. -/
def State.slotPart (s : State) (slot : Nat) : Option Nat :=
  (List.range 16).find? fun p => let v := carSeg s p; decide (segFirst v ≤ slot) && decide (slot < segFirst v + segCount v)

def State.slotOf (s : State) (p : Nat) (name : Word) : Option CarSlot :=
  s.car.find? fun x => x.name == name && s.slotPart x.slot == some p

/-- The next passage of the named slot at a station after an instant, where a slot bears the name. -/
def State.postNamed (s : State) (t p : Nat) (name : Word) (die : Nat) : State :=
  match s.slotOf p name with
  | some x => s.postPass t x.slot die
  | none => s

/-- The segment's slot that next passes a station. -/
def State.nextSlot (s : State) (p die : Nat) : Option Nat :=
  let v := carSeg s p
  match List.range (segCount v) with
  | [] => none
  | _ :: ks => some (segFirst v + ks.foldl (fun b k =>
      if s.passAfter s.wall (segFirst v + k) die < s.passAfter s.wall (segFirst v + b) die then k else b) 0)

/-! The segment index (R386). -/

def State.carName (s : State) (p : Nat) (name : Word) : Option CarName :=
  s.carIndex.find? fun e => e.part == p && e.name == name

def State.setName (s : State) (e : CarName) : State :=
  { s with carIndex := putWhere (fun x => x.part == e.part && x.name == e.name) e s.carIndex }

def State.dropCarName (s : State) (p : Nat) (name : Word) : State :=
  { s with carIndex := s.carIndex.filter fun e => !(e.part == p && e.name == name) }

def Ask.carName : Ask → Word
  | .board n _ | .alight n | .cwrite n _ | .catchTile n _ _ _ _ => n
  | _ => 0

/-- An accepted request of the partition that has not completed, in the order of acceptance. -/
def Req.accepted (q : Req) (p : Nat) : Bool := q.part == p && q.stage == .pending 1 && q.ask.carousel

def isBoard (q : Req) : Bool := match q.ask with | .board _ _ => true | _ => false
def isCwrite (q : Req) : Bool := match q.ask with | .cwrite _ _ => true | _ => false

/-- Status words of the class (R390): the code, and the version of an OK. -/
def State.carAnswer (s : State) (id code ver : Nat) (cells : List Host.Cell) : State :=
  s.answerWith id (BitVec.ofNat 32 (code + 256 * ver)) 0 cells

/-- The accepted CWRITEs of a name complete with ABSENT. -/
def State.absentWrites (s : State) (p : Nat) (name : Word) : State :=
  (s.reqs.filter fun q => q.accepted p && isCwrite q && q.ask.carName == name).foldl
    (fun s q => s.carAnswer q.id stABSENT 0 []) s

/-- The source bytes of a BOARD or CWRITE reach the station (R389, R396; log 37). -/
def State.sourceBytes (s : State) (q : Req) : List Byte :=
  let sp : List Host.Cell := match s.coreOf q.team with
    | some k => ((k.team q.team).map (·.sp)).getD []
    | none => ((s.image q.team).map (·.team.sp)).getD []
  match q.ask with
  | .board _ a | .cwrite _ a => memBytes sp a tileBytes
  | _ => []

/-- A request is accepted: it takes its place behind those accepted before it. -/
def State.accept (s : State) (q : Req) : State :=
  let src := s.sourceBytes q
  (s.requeueReq q.id (.pending 1)).modReq q.id fun q => { q with src := src }

/-- CAROUSEL_INDEX_ACCEPT (R385, R386, R390). -/
def execCarouselIndexAccept (id : Nat) (s : State) : Out :=
  .next <|
    match s.req id with
    | none => s
    | some q =>
      let p := q.part
      let d := q.core.die
      if q.stage != .pending 0 || !q.ask.carousel then s
      else if s.carOff p then s.carAnswer id stUNAVAILABLE 0 []
      else
        match q.ask, s.carName p q.ask.carName with
        | .board n _, none =>
          let s1 := ((s.accept q).setName ⟨p, n, some id, none⟩).post (s.lap + 1) (.boardLapTimeout id)
          match s1.nextSlot p d with
          | some k => s1.postPass s.wall k d
          | none => s1
        | .board _ _, some _ => s.carAnswer id stCLASH 0 []
        | .cwrite n _, some e =>
          if e.marked.isSome then s.carAnswer id stABSENT 0 [] else (s.accept q).postNamed s.wall p n d
        | .alight n, some e =>
          if e.marked.isSome then s.carAnswer id stABSENT 0 []
          else ((s.accept q).setName { e with marked := some id }).postNamed s.wall p n d
        | .cwrite _ _, none | .alight _, none => s.carAnswer id stABSENT 0 []
        | _, _ => s

/-- CATCH_REGISTER (R385, R391). -/
def execCatchRegister (id : Nat) (s : State) : Out :=
  .next <|
    match s.req id with
    | none => s
    | some q =>
      match q.ask, q.stage with
      | .catchTile n _ _ _ _, .pending 0 =>
        let p := q.part
        let d := q.core.die
        if s.carOff p then s.carAnswer id stUNAVAILABLE 0 []
        else if segCQ (carSeg s p) ≤ (s.catches.filter fun c => c.die == d && c.part == p).length then
          s.carAnswer id stFULL 0 []
        else
          let s1 : State := { s with catches := s.catches ++ [⟨id, d, p, n, s.wall⟩] }
          (((s1.modReq id fun q => { q with stage := .pending 1 }).post (s.lap + 1) (.catchLapTimeout id))).postNamed s.wall p n d
      | _, _ => s

/-- A registered catch that has yet to be served. -/
def State.catching (s : State) (id : Nat) : Bool := ((s.req id).map fun q => q.stage == .pending 1).getD false

/-! A passage (R387). -/

/-- Step 4: the catches registered at the station for the slot's name, before this instant.  An entry stays in the catch table
until its catch is complete (R391). -/
def State.serveCatches (s : State) (p die : Nat) (x : CarSlot) : State :=
  (s.catches.filter fun c =>
      c.die == die && c.part == p && c.name == x.name && decide (c.at_ < s.wall) && s.catching c.req).foldl (fun s c =>
    match s.req c.req with
    | some q =>
      match q.ask with
      | .catchTile _ a _ first n =>
        if x.poisoned then s.carAnswer c.req stPOISON 0 []
        else s.carAnswer c.req stOK x.ver.toNat (cellsAt a ((x.data.drop first).take n))
      | _ => s
    | none => s) s

def State.putSlot (s : State) (x : CarSlot) : State := { s with car := putWhere (·.slot == x.slot) x s.car }

/-- Step 3: each accepted CWRITE of the die replaces the tile, at the next version. -/
def State.applyWrites (s : State) (p die : Nat) (x : CarSlot) : State × CarSlot :=
  (s.reqs.filter fun q => q.accepted p && isCwrite q && q.core.die == die && q.ask.carName == x.name).foldl (fun r q =>
    let v : BitVec 24 := if r.2.ver = 0xFFFFFF then 1 else r.2.ver + 1
    (r.1.carAnswer q.id stOK v.toNat [], { r.2 with ver := v, data := q.src, poisoned := false })) (s, x)

/-- Requests and catches that wait for the name are to meet the slot that bears it from an instant on. -/
def State.meetNamed (s : State) (t p : Nat) (name : Word) : State :=
  let ds := ((s.reqs.filter fun q => q.accepted p && q.ask.carName == name).map (·.core.die)
    ++ (s.catches.filter fun c => c.part == p && c.name == name).map (·.die)).eraseDups
  ds.foldl (fun s d => s.postNamed t p name d) s

/-- Step 5: a free slot takes the oldest accepted BOARD of the die; while one waits, the segment's next slot is due. -/
def State.boardAt (s : State) (p slot die : Nat) : State :=
  match s.reqs.find? fun q => q.accepted p && isBoard q && q.core.die == die with
  | none => s
  | some q =>
    let n := q.ask.carName
    let x : CarSlot := { slot := slot, name := n, ver := 1, data := q.src }
    let s1 := (s.carAnswer q.id stOK 1 []).putSlot x
    let s2 := match s1.carName p n with
      | some e => s1.setName { e with reserved := none }
      | none => s1
    (s2.serveCatches p die x).meetNamed (s.lastPass slot die) p n

/-- The BOARDs of a die that still wait look at the segment's next slot. -/
def State.boardNext (s : State) (p slot die : Nat) : State :=
  if s.reqs.any fun q => q.accepted p && isBoard q && q.core.die == die then
    let v := carSeg s p
    s.postPass (s.lastPass slot die) (segFirst v + (slot + 1 - segFirst v) % segCount v) die
  else s

/-- SLOT_PASSAGE (R387, R395): `strike` is that a piece of the slot's data cannot be corrected. -/
def execSlotPassage (slot die : Nat) (strike : Bool) (s : State) : Out :=
  .next <|
    match s.slotPart slot with
    | none => s
    | some p =>
      if s.carOff p then s
      else
        match s.car.find? (·.slot == slot) with
        | none => (s.boardAt p slot die).boardNext p slot die
        | some x0 =>
          let x := { x0 with poisoned := x0.poisoned || strike }
          let s0 := if strike && !x0.poisoned then (s.logErr 3 p die 0 slot).putSlot x else s
          let alights := match (s0.carName p x.name).bind (·.marked) with
            | some id => (match s0.req id with | some q => if q.core.die == die then some id else none | none => none)
            | none => none
          match alights with
          | some id =>
            let s1 := { s0 with car := s0.car.filter (·.slot != slot) }
            let s2 := ((s1.dropCarName p x.name).carAnswer id stOK 0 []).absentWrites p x.name
            (s2.boardAt p slot die).boardNext p slot die
          | none =>
            let r := s0.applyWrites p die x
            ((r.1.putSlot r.2).serveCatches p die r.2).boardNext p slot die

/-- CATCH_LAP_TIMEOUT (R391): no slot bearing the name came within a lap. -/
def execCatchLapTimeout (id : Nat) (s : State) : Out :=
  .next <|
    match s.catches.find? (·.req == id) with
    | none => s
    | some c =>
      if !s.catching id then s
      else if c.at_ + s.lapPs < s.wall then s.carAnswer id stABSENT 0 []
      else s.post (s.cyclesIn (c.at_ + s.lapPs - s.wall) + 1) (.catchLapTimeout id)

/-- BOARD_LAP_TIMEOUT (R390): no slot of the segment passed free; the reservation ends, and with it what was accepted on
the name. -/
def execBoardLapTimeout (id : Nat) (s : State) : Out :=
  .next <|
    match s.req id with
    | none => s
    | some q =>
      let n := q.ask.carName
      if !(q.accepted q.part && isBoard q) then s
      else
        let s1 := match (s.carName q.part n).bind (·.marked) with
          | some a => s.carAnswer a stABSENT 0 []
          | none => s
        ((s1.absentWrites q.part n).dropCarName q.part n).carAnswer id stFULL 0 []

/-! A segment that changes (R385). -/

/-- Slots of a range become free. -/
def State.freeRange (s : State) (v : DWord) : State :=
  { s with car := s.car.filter fun x => !(decide (segFirst v ≤ x.slot) && decide (x.slot < segFirst v + segCount v)) }

/-- Every accepted request and registered catch of the partition completes with UNAVAILABLE. -/
def State.carStops (s : State) (p : Nat) : State :=
  (s.reqs.filter fun q => q.accepted p).foldl (fun s q => s.carAnswer q.id stUNAVAILABLE 0 []) s

/-- The segment changes: what waits on it completes, and its index is empty. -/
def State.segmentEnds (s : State) (p : Nat) : State :=
  let s1 := s.carStops p
  { s1 with carIndex := s1.carIndex.filter (·.part != p) }

/-- The ring has stopped: what waits on it completes, with the reservations and marks that it made (R384). -/
def State.ringStops (s : State) : State :=
  let s1 := (List.range 16).foldl State.carStops s
  { s1 with carIndex := (s1.carIndex.filter fun e => e.reserved.isNone).map fun e => { e with marked := none } }

end Sys2Proof.Machine
end

