-- ==== Sys2Proof/Machine/Grants.lean ====
section
/-! DEFINITION. The order of a grant, and the acknowledgement of shootdowns (spec/19_ports_grants_program.md R328 to R333;
spec/20 R346, R347), with the completion of management requests (spec/24 R407; spec/25 R418). -/

namespace Sys2Proof.Machine

/-! Management requests (R418). -/

def mKind (r : MgmtReq) : Nat := bitsNat r 0 8
def mPart (r : MgmtReq) : Nat := bitsNat r 8 4
def mDie (r : MgmtReq) : Nat := bitsNat r 12 4
def mSeq (r : MgmtReq) : Word := r.extractLsb' 32 32

/-- The ring a request completes in (R407): the package's for one directed to the package or a die, else the
partition's. -/
def mRing (r : MgmtReq) : RingId :=
  if [1, 7, 8, 9, 10, 11, 14, 15].contains (mKind r) then .part (mPart r) else .package

/-- A request completes with its one record (R407). -/
def State.finish (s : State) (r : MgmtReq) (status : Nat) : State := s.record (mRing r) (recordOf (mSeq r) status 0 0)

/-! Steps 3 to 5 of a grant (R328). -/

def State.dropGrant (s : State) (id : Nat) : State := { s with grants := s.grants.filter (·.req != id) }

/-- A reservation is released. -/
def State.release (s : State) (g : Grant) : State :=
  match g.port with
  | none => s
  | some i => s.setMsgs i ((s.portMsgs i).filter fun m => m.req != some (.here g.req))

/-- The entry still maps the page, at its size, with the granted rights, and is not granted away. -/
def State.stillMapped (s : State) (g : Grant) : Bool :=
  match s.walk g.part g.proc g.va with
  | .found t => t.sz == g.page.sz && (t.refuses g.page.rights).isNone && t.pfn.toNat * 4096 % 2 ^ 41 == g.page.pa % 2 ^ 41
  | _ => false

/-- GRANT_PTE_UPDATE (R328 step 3): the sender's entry becomes GRANTED in one update and the shootdown starts; an entry
that is no longer mapped with the rights releases the reservation, and the send completes with CLASH, detail 4. -/
def execGrantPteUpdate (id : Nat) (s : State) : Out :=
  .next <|
    match s.grants.find? (·.req == id) with
    | none => s
    | some g =>
      if g.marked then s
      else
        s.ownFirst (s.walk g.part g.proc g.va (some (.event (.grantPteUpdate id)))).away (.grantPteUpdate id) <|
        if s.stillMapped g then
          let s1 := s.markGranted g.part g.proc g.page.sz g.va
          ({ s1 with grants := modWhere (·.req == id) (fun g => { g with marked := true }) s1.grants } : State).startShoot g.part
            (pageShoot g.proc g.page.sz g.va (.grant id))
        else ((s.release g).dropGrant id).answer id stCLASH 4

/-- An operation that a core waits for before it acknowledges. -/
def State.undone (s : State) (c : CoreId) (r : OpRef) : Bool :=
  let open_ (t : Team) : Bool := t.oid == r.team && t.waves.any fun w => w.wid == r.wid && w.ops.any fun o => o.id == r.op && !o.done
  (s.core c).teams.any open_ || (s.images.any fun i => open_ i.team) || (s.core c).inL1 r
    || ((s.core c).old.toList ++ (s.core c).cur.toList).any fun h => (h.snap ++ h.admitted).any fun t =>
      t.oid == r.team && t.copies.any fun y => y.inbound && y.wid == r.wid && y.op == r.op

/-- A shootdown that every core has acknowledged completes. -/
def State.shootDone (s : State) (x : Shoot) : State :=
  let s1 := { s with shoots := s.shoots.filter (·.id != x.id) }
  match x.for_ with
  | .request r => s1.finish r 0
  | .grant id => s1.later (.grantCommit id)
  | .page p => { s1 with freedPages := s1.freedPages ++ p.toList }
  | .slot p k =>
    let s2 := { s1 with gslots := s1.gslots.filter fun g => !(g.port == p && g.slot == k) }
    if objKind (s2.obj p) = kPORT then s2.setFld p (320 + k) 1 0 else s2

/-- SHOOTDOWN_ACK (R329, R347): a core acknowledges once its TLBs hold no covered entry and every access that was
translated before has been performed. -/
def execShootdownAck (c : CoreId) (id : Nat) (s : State) : Out :=
  .next <|
    match s.shoots.find? (·.id == id) with
    | none => s
    | some x =>
      let ops := ((x.acks.find? (·.1 == c)).map (·.2)).getD []
      if (s.core c).rollback.isSome || ops.any (s.undone c) then s.post 1 (.shootdownAck c id)
      else
        let y := { x with acks := x.acks.filter (·.1 != c) }
        let s1 := { s with shoots := modWhere (·.id == id) (fun _ => y) s.shoots }
        if y.acks.isEmpty then s1.shootDone y else s1

/-- The grant slot whose window address a sender grants onward (R333). -/
def State.onward (s : State) (g : Grant) : Option GSlot :=
  s.gslots.find? fun x => x.proc == g.proc && x.page.sz == g.page.sz && x.va == g.va

/-- A slot whose port has been freed goes, and its page, where one is due, to Cupola behind the shootdown (R333). -/
def State.dropSlot (s : State) (x : GSlot) (page : Option Page) : State :=
  { s with gslots := s.gslots.erase x }.tableEdit true x.part (pageShoot x.proc x.page.sz x.va (.page page))

/-- A grant fails behind step 3: the sender's mapping stands as it was (R328), with the shootdown that a change of GR takes
(R346); a slot whose port has been freed meanwhile goes, and its page returns to Cupola (R333). -/
def State.grantFails (s : State) (g : Grant) (code detail : Nat) : State :=
  let s1 := s.tableEdit false g.part (pageShoot g.proc g.page.sz g.va (.page none))
  let s2 := ((s1.release g).dropGrant g.req).answer g.req code detail
  match s2.onward g with
  | some x => if x.port = 0 then s2.dropSlot x (some x.page) else s2
  | none => s2

/-- The port's message that the grant has reserved, with those before it. -/
def reservedTo (id : Nat) (ms : List PortMsg) : List PortMsg := ms.takeWhile fun m => m.req != some (.here id)

/-- The grant is committed: the message becomes visible, the sender's OK sets out, and a slot granted onward is freed. -/
def State.commitGrant (s : State) (g : Grant) : State :=
  let s1 := match g.port with
    | some i => s.setMsgs i (commitMsg (.here g.req) (s.portMsgs i))
    | none => s
  let s2 := (s1.dropGrant g.req).answer g.req stOK 0
  match s2.onward g with
  | some x => if x.port = 0 then s2.dropSlot x none else s2.freeSlot x
  | none => s2

/-- GRANT_COMMIT (R328 step 5, R333): reservations commit in their order; a grant whose port has been freed meanwhile, or
whose package can no longer be reached, fails (log 74). -/
def execGrantCommit (id : Nat) (s : State) : Out :=
  .next <|
    match s.grants.find? (·.req == id) with
    | none => s
    | some g =>
      match g.port with
      | some i =>
        let ms := s.portMsgs i
        s.ownFirst (s.ringKey i) (.grantCommit id) <|
        if !ms.any (fun m => m.req == some (.here id)) then s.grantFails g stABSENT 0
        else if (reservedTo id ms).any (·.req.isSome) then s.post 1 (.grantCommit id)
        else s.commitGrant g
      | none =>
        match s.farPkg id with
        | some p => if s.reachable p then s.commitGrant g else s.grantFails g stUNAVAILABLE 0
        | none => s.commitGrant g

end Sys2Proof.Machine
end

