-- ==== Sys2Proof/Machine/Launch.lean ====
section
/-! DEFINITION. Host-port slots and their messages, completion rings, task graphs, token buckets, pre-emption and the
resets of contexts and partitions (spec/21_scheduling.md R358 to R382; spec/24 R404 to R407; spec/25 R429, R430). -/

namespace Sys2Proof.Machine

/-! Slots and port control blocks (R359, R360, R430). -/

def State.slot (s : State) (p k : Nat) : Option PortSlot := s.slots.find? fun x => x.part == p && x.slot == k

def State.modSlot (s : State) (p k : Nat) (f : PortSlot → PortSlot) : State :=
  { s with slots := modWhere (fun x => x.part == p && x.slot == k) f s.slots }

/-- The port control block in memory, as the partition's Sprue reads it (R439). -/
def State.pcbAt (s : State) (part pa : Nat) : BitVec 512 := BitVec.ofNat 512 (s.ownNat part (s.domKey pa) 64)

def pcbTorn (b : BitVec 512) : Bool := fld b 0 32 != fld b 480 32

/-- The journal's fields (R430): the generation being written, the word's index, V, and the word's value. -/
def PortSlot.jgen (x : PortSlot) : Word := x.journal.extractLsb' 0 32
def PortSlot.jidx (x : PortSlot) : Nat := bitsNat x.journal 32 4
def PortSlot.jv (x : PortSlot) : Bool := hasBit x.journal 36
def PortSlot.jval (x : PortSlot) : Word := x.journal.extractLsb' 64 32

/-- The Sprue stores one word of a port's block (R439). -/
def State.putPcb (s : State) (x : PortSlot) (idx : Nat) (v : Word) : State :=
  s.physWrite (some x.part) (cellsAt (s.domKey x.pcb + 4 * idx) (bytesLE 4 v.toNat))

/-- NEXTSEQ moves on in the slot, and its update of the PCB begins; one that is under way is followed by another (R360, R430). -/
def State.setNext (s : State) (x : PortSlot) (v : Word) : State :=
  if x.jstep = 0 then (s.modSlot x.part x.slot fun y => { y with next := v, jstep := 1 }).postOnce (.pcbStep x.part x.slot)
  else s.modSlot x.part x.slot fun y => { y with next := v }

/-- V falls; the next update begins where NEXTSEQ has moved on meanwhile. -/
def State.journalDone (s : State) (x : PortSlot) : State :=
  let again := x.jval != x.next
  let s1 := s.modSlot x.part x.slot fun y =>
    { y with journal := setBits y.journal 36 (0 : BitVec 1), jstep := if again then 1 else 0 }
  if again then s1.postOnce (.pcbStep x.part x.slot) else s1

/-- An update that is found in progress is rolled forward (R430). -/
def State.rollForward (s : State) (p k : Nat) : State :=
  match s.slot p k with
  | some x => if x.jv then (((s.putPcb x 0 x.jgen).putPcb x x.jidx x.jval).putPcb x 15 x.jgen).journalDone x else s
  | none => s

/-- A journal for a word of a block whose generation is `g`, with V = 1. -/
def journalFor (g idx : Nat) (v : Word) : BitVec 128 :=
  BitVec.ofNat 128 ((g + 1) % 2 ^ 32 + idx * 2 ^ 32 + 2 ^ 36 + v.toNat * 2 ^ 64)

/-- Whether the block in memory is whole, or the journal makes it so (R429, R430). -/
def State.pcbWhole (s : State) (x : PortSlot) : Bool := x.jv || !pcbTorn (s.pcbAt x.part x.pcb)

/-! Token buckets (R366). -/

def bucketLevel (v : DWord) : Int := (v.extractLsb' 0 32).toInt

/-- DRY: the tenant's bucket has a limit and is empty (log 62). -/
def State.dry (s : State) (part proc : Nat) : Bool :=
  let k := fld (s.obj proc) 288 8
  bitsNat (s.mreg (bucketReg part k)) 16 32 != 0xFFFFFFFF && decide (bucketLevel (s.mreg (bucketReg part k + 8)) ≤ 0)

/-! Taking messages (R362, R363). -/

def slotBase (p k : Nat) : Nat := 0x100000 * p + 0x2000 * k

/-- The message at a window position. -/
def State.windowMsg (s : State) (x : PortSlot) : BitVec 512 :=
  BitVec.ofNat 512 (memNat s.bar2 (slotBase x.part x.slot + 64 * (x.next.toNat % 64)) 64)

def msgOp (m : BitVec 512) : Nat := fld m 0 8
def msgOrd (m : BitVec 512) : Bool := hasBit m 8
def msgSeq (m : BitVec 512) : Word := m.extractLsb' 16 32

/-- A message may be taken from the slot, if its PCB is whole: it is mapped, the doorbell reaches NEXTSEQ (by whatever distance
after a reset, R382), the bucket is not empty, no message waits for its ORD, and no record waits for the ring (R360, R362, R366,
R405). -/
def State.mayTake (s : State) (x : PortSlot) : Bool :=
  !x.stuck && x.ord.isNone && !(s.partDies x.part).isEmpty && !s.dry x.part x.proc
    && (match x.bell with | some b => decide ((b - x.next).toNat < 2 ^ 31) | none => false)
    && !s.records.any fun r => r.ring == .slot x.part x.slot

/-- A port whose block the host has left torn is looked at again (R429). -/
def State.lookAgain (s : State) (p k : Nat) : State :=
  if s.agenda.any fun e => e.2 == .launch p k then s else s.post 64 (.launch p k)

/-- The next message's event, or one SEQ record for a position that does not hold NEXTSEQ (R363); of a torn port neither
(R429), and a block that is not to be had is waited for (R353). -/
def State.poke (s : State) (p k : Nat) : State :=
  match s.slot p k with
  | none => s
  | some x =>
    if !s.mayTake x then s
    else
      s.ownFirst [s.domKey x.pcb] (.launch p k) <|
        let m := s.windowMsg x
        if !s.pcbWhole x then s.lookAgain p k
        else if msgSeq m ≠ x.next then
          (s.modSlot p k fun y => { y with stuck := true }).record (.slot p k) (recordOf x.next 8 0 (msgSeq m).toNat)
        else s.post 1 (match msgOp m with | 2 => .rungraph p k | 3 => .fenceMessage p k | _ => .launch p k)

/-- Every slot of the partition, or of the package, is looked at. -/
def State.pokeAll (s : State) (p : Option Nat) : State :=
  s.slots.foldl (fun s x => if p = none ∨ p = some x.part then s.poke x.part x.slot else s) s

/-- Two messages stand within a window's reach of each other. -/
def nearSeq (a b : Word) : Bool := decide ((a - b).toNat ≤ 64) || decide ((b - a).toNat ≤ 64)

/-- A message's record, which it has once, replayed or not (R364, R406). -/
def State.recordMsg (s : State) (x : PortSlot) (seq : Word) (status detail value : Nat) : State :=
  if x.recorded.contains seq then s
  else (s.modSlot x.part x.slot fun y => { y with recorded := y.recorded.filter (nearSeq seq) ++ [seq] }).record
    (.slot x.part x.slot) (recordOf seq status detail value)

/-- One step of an update of NEXTSEQ, word 8 of the PCB, through the journal (R430); a torn block is left to the host (R429). -/
def State.pcbStep (s : State) (p k : Nat) : State :=
  match s.slot p k with
  | none => s
  | some x =>
    if x.jstep = 0 then s
    else
      s.ownFirst [s.domKey x.pcb] (.pcbStep p k) <|
        let on (s : State) : State := (s.modSlot p k fun y => { y with jstep := x.jstep + 1 }).post 1 (.pcbStep p k)
        let b := s.pcbAt p x.pcb
        match x.jstep with
        | 1 =>
          if pcbTorn b then s.post 64 (.pcbStep p k)
          else on (s.modSlot p k fun y => { y with journal := journalFor (fld b 0 32) 8 x.next })
        | 2 => on (s.putPcb x 0 x.jgen)
        | 3 => on (s.putPcb x x.jidx x.jval)
        | 4 => on (s.putPcb x 15 x.jgen)
        | _ => s.journalDone x

/-- A message of the mapped port has completed: its record is posted, and one that waits for its ORD may start (R362,
R364). -/
def State.completeMsg (s : State) (p k : Nat) (seq : Word) (status detail value : Nat) : State :=
  match s.slot p k with
  | none => s
  | some x =>
    if !x.taken.contains seq then s
    else
      let s1 := (s.modSlot p k fun y => { y with taken := y.taken.filter (· != seq) }).recordMsg x seq status detail value
      if x.ord.isSome then s1.post 1 (.ordStart p k) else s1

/-! Checks of a LAUNCH (R139, R363, R365, R369). -/

/-- The dies of a launch: those AFF names, live and with a cluster in the partition. -/
def State.launchDies (s : State) (p aff : Nat) : List Nat := (s.partDies p).filter fun d => aff.testBit d

/-- The ranges of R367; a range of no teams is not sent. -/
def splitGrid (total : Nat) (ds : List Nat) : List Range367 :=
  let n := ds.length
  let q := total / n
  let r := total % n
  (ds.mapIdx fun i d =>
    let lo := i * q + min i r
    let c := q + if i < r then 1 else 0
    (⟨d, lo, lo + c, c⟩ : Range367)).filter fun x => x.left != 0

/-- A persistent launch that could never be resident together (R369). -/
def State.noFit (s : State) (p : Nat) (t : Team) (rs : List Range367) : Bool :=
  rs.any fun r => decide ((s.partCores p r.die).length * Core.capacity 8 { id := ⟨0, 0, 0⟩ } t < r.left)

/-- The number of teams that a LAUNCH asks for along each axis. -/
def launchX (m : BitVec 512) : Nat := fld m 256 32 + 1
def launchY (m : BitVec 512) : Nat := fld m 288 16 + 1
def launchZ (m : BitVec 512) : Nat := fld m 304 16 + 1

/-- The checks of a LAUNCH image that read nothing: RSVBIT, DYING and BADGRID. -/
def State.launchHead (s : State) (proc : Nat) (m : BitVec 512) : Option Nat :=
  if fld m 9 7 ≠ 0 ∨ fld m 112 16 ≠ 0 ∨ fld m 185 7 ≠ 0 ∨ fld m 249 7 ≠ 0 ∨ fld m 324 188 ≠ 0 then some 2
  else if s.dying proc then some 12
  else if 2 ^ 32 < launchX m * launchY m * launchZ m then some 3
  else none

/-- A LAUNCH image's checks from the reads on: status and detail, or the launch.  The descriptor
is the 32 bytes at the address, whether or not it is a multiple of 32 (R140; log 82). -/
def State.checkLaunch (s : State) (p proc : Nat) (m : BitVec 512) : (Nat × Nat) ⊕ Grid :=
  let x := launchX m
  let y := launchY m
  let z := launchZ m
  let descVa : BitVec 57 := m.extractLsb' 128 57
  let argVa : BitVec 57 := m.extractLsb' 192 57
  let args := if argVa = 0 then some 0 else s.vreadNat p proc argVa 320
  match s.vreadNat p proc descVa 32, args with
  | none, _ => .inl (7, 1)
  | some _, none => .inl (7, 2)
  | some dn, some an =>
    let desc : Rec256 := BitVec.ofNat 256 dn
    let a : BitVec 2560 := BitVec.ofNat 2560 an
    match descFault desc with
    | some n => .inl (4, n)
    | none =>
      let ds := s.launchDies p (fld m 48 16)
      if ds.isEmpty then .inl (5, 0)
      else
        let g : Grid :=
          { id := s.nextId, part := p, proc := proc, pers := hasBit m 323, x := x, y := y, total := x * y * z
            ranges := splitGrid (x * y * z) ds, desc := desc, descVa := descVa, pbase := m.extractLsb' 64 48
            args := (List.range 16).map fun k => a.extractLsb' (32 * k) 32
            bufs := (List.range 16).map fun k => a.extractLsb' (512 + 128 * k) 128
            pri := fld m 320 3, aff := fld m 48 16 }
        if g.pers && s.noFit p (freshTeam 0 p proc desc 0 0 0 0 [] [] 0) g.ranges then .inl (6, 0) else .inr g

/-- What the check of a LAUNCH image reads: the descriptor and the argument block, but of neither where one of them may not be
read, since a rejected message has no other effect (R363); first the page tables that say so. -/
def State.launchKeys (s : State) (p proc : Nat) (m : BitVec 512) (by_ : Option Asker := none) : List Nat :=
  let argVa : BitVec 57 := m.extractLsb' 192 57
  let desc := s.vends p proc (m.extractLsb' 128 57) 32 by_
  let args := if argVa = 0 then [] else s.vends p proc argVa 320 by_
  if desc.any s.barredEnd then []
  else
    match (desc ++ args).flatMap (·.1.away) with
    | k :: ks => k :: ks
    | [] => if args.any s.barredEnd then [] else (desc ++ args).flatMap s.endKeys

/-- A launch is known; its teams are created once it has started. -/
def State.addGrid (s : State) (g : Grid) : State := { s with grids := s.grids ++ [g], nextId := s.nextId + 1 }

/-- A launch starts: its teams are queued behind those of the launches started before it (R362). -/
def State.startGrid (s : State) (id : Nat) : State :=
  ({ s with
    grids := s.grids.filter (·.id != id) ++ (s.grids.filter (·.id == id)).map fun g => { g with started := true } } : State).feed

/-! Starting a message (R361, R362). -/

/-- A FENCE acts: the fence record names its SEQ, in one 8-byte write, and its completion follows (R381; log 40). -/
def State.writeFence (s : State) (x : PortSlot) (seq : Word) : State :=
  { s with mem := memWrites s.mem (cellsAt (hostBase + x.fenceA) (bytesLE 4 seq.toNat ++ bytesLE 4 (~~~seq).toNat)) }

/-- The graph a RUNGRAPH names (R361). -/
def State.graphOf (s : State) (proc : Nat) (m : BitVec 512) : Option Nat :=
  match s.handle proc (m.extractLsb' 64 32) with
  | some (o, rs, k) => if k = kGRAPH && rs.testBit rADMIN then some o else none
  | none => none

/-- A graph run begins at ENTRY (R370, R372); one that ORD has held finds its graph as it now is (log 35). -/
def State.startRun (s : State) (x : PortSlot) (m : BitVec 512) : State :=
  match s.graphOf x.proc m with
  | none => s.completeMsg x.part x.slot (msgSeq m) 11 0 0
  | some o =>
    if hasBit (s.obj o) 160 then s.completeMsg x.part x.slot (msgSeq m) 9 0 0
    else
      let e := fld (s.obj o) 144 16
      let r : GraphRun := { graph := o, part := x.part, slot := x.slot, seq := msgSeq m, proc := x.proc, node := e }
      ((({ s with runs := s.runs ++ [r] } : State).setFld o 160 1 1).setFld o 176 16 e).post 1 (.graphTimeNode o)

def State.startMsg (s : State) (x : PortSlot) (m : BitVec 512) : State :=
  match msgOp m with
  | 1 =>
    match s.grids.find? fun g => g.part == x.part && g.slot == some (x.slot, msgSeq m) && !g.started with
    | some g => s.startGrid g.id
    | none => s
  | 2 => s.startRun x m
  | _ => (s.writeFence x (msgSeq m)).completeMsg x.part x.slot (msgSeq m) 0 0 0

/-- What a message's start writes in host memory: a FENCE's record. -/
def startKeys (x : PortSlot) (m : BitVec 512) : List Nat := if msgOp m = 3 then [hostBase + x.fenceA] else []

/-- A message is accepted: NEXTSEQ advances, and it starts unless ORD holds it behind earlier ones (R362, R363). -/
def State.acceptMsg (s : State) (x : PortSlot) (m : BitVec 512) (ord : Bool) : State :=
  let s1 := (s.setNext x (x.next + 1)).modSlot x.part x.slot fun y => { y with taken := y.taken ++ [msgSeq m] }
  if ord && !x.taken.isEmpty then s1.modSlot x.part x.slot fun y => { y with ord := some m }
  else (s1.startMsg x m).poke x.part x.slot

/-- A message is rejected: NEXTSEQ advances, and its record says why (R363). -/
def State.rejectMsg (s : State) (x : PortSlot) (m : BitVec 512) (status detail : Nat) : State :=
  ((s.setNext x (x.next + 1)).recordMsg x (msgSeq m) status detail 0).poke x.part x.slot

/-- A message of the given kind is taken from the window (R362, R363), once its port's block can be read and is whole, or rolled
forward (R429, R430); the first check that fails rejects it. -/
def State.take (s0 : State) (p k : Nat) (mine : Nat → Bool) (go : State → PortSlot → BitVec 512 → State) : State :=
  match s0.slot p k with
  | none => s0
  | some x0 =>
    if !s0.mayTake x0 then s0
    else if [s0.domKey x0.pcb].any (s0.accessWaits (.event (.launch p k))) || !s0.pcbWhole x0 || msgSeq (s0.windowMsg x0) != x0.next
        || !mine (msgOp (s0.windowMsg x0)) then s0.poke p k
    else
      let s := s0.rollForward p k
      match s.slot p k with
      | none => s
      | some x =>
        let m := s.windowMsg x
        if msgOp m = 0 ∨ 3 < msgOp m then s.rejectMsg x m 1 0
        else if fld m 9 7 ≠ 0 ∨ (msgOp m ≠ 1 ∧ fld m 48 16 ≠ 0) then s.rejectMsg x m 2 0
        else go s x m

/-- LAUNCH (R361 to R369); a message whose OP is none of the three is taken, and rejected, here. -/
def execLaunch (part slot : Nat) (s : State) : Out :=
  .next (s.take part slot (fun o => o != 2 && o != 3) fun s x m =>
    match s.launchHead x.proc m with
    | some st => s.rejectMsg x m st 0
    | none =>
      s.ownFirst (s.launchKeys part x.proc m (some (.event (.launch part slot)))) (.launch part slot)
        (match s.checkLaunch part x.proc m with
        | .inl (st, d) => s.rejectMsg x m st d
        | .inr g => (s.addGrid { g with slot := some (slot, msgSeq m) }).acceptMsg x m (msgOrd m)))

/-- RUNGRAPH (R361, R363, R372). -/
def execRungraph (part slot : Nat) (s : State) : Out :=
  .next (s.take part slot (· == 2) fun s x m =>
    if fld m 96 416 ≠ 0 then s.rejectMsg x m 2 0
    else if s.dying x.proc then s.rejectMsg x m 12 0
    else
      match s.graphOf x.proc m with
      | none => s.rejectMsg x m 11 0
      | some o =>
        if hasBit (s.obj o) 160 then s.rejectMsg x m 9 0 else s.acceptMsg x m (msgOrd m))

/-- FENCE (R361, R381): it acts as if ORD were 1. -/
def execFenceMessage (part slot : Nat) (s : State) : Out :=
  .next (s.take part slot (· == 3) fun s x m =>
    if fld m 64 448 ≠ 0 then s.rejectMsg x m 2 0
    else if s.dying x.proc then s.rejectMsg x m 12 0
    else s.ownFirst (startKeys x m) (.fenceMessage part slot) (s.acceptMsg x m true))

/-- ORD_START (R362): every earlier message of the port has completed. -/
def execOrdStart (part slot : Nat) (s : State) : Out :=
  .next <|
    match s.slot part slot with
    | none => s
    | some x =>
      match x.ord with
      | none => s
      | some m =>
        if x.taken.head? = some (msgSeq m) then
          s.ownFirst (startKeys x m) (.ordStart part slot) <|
          let s1 := s.modSlot part slot fun y => { y with ord := none }
          (s1.startMsg { x with ord := none } m).poke part slot
        else s

/-- DOORBELL (R360, R363, R404): a value too far past NEXTSEQ is not performed, nor is one of an unmapped slot. -/
def execDoorbell (part slot : Nat) (value : Word) (s : State) : Out :=
  .next <|
    match s.slot part slot with
    | none => s
    | some x =>
      if 63 < (value - x.next).toNat then s.logErr 1 part 0 (slotBase part slot + 0x1000) value.toNat
      else (s.modSlot part slot fun y => { y with bell := some value, stuck := false }).poke part slot

/-! Completion of launches and graph runs (R364, R367, R372). -/

/-- A graph run goes on at a node. -/
def State.runAt (s : State) (g node : Nat) : State :=
  (({ s with runs := modWhere (·.graph == g) (fun r => { r with node := node, waits := false }) s.runs } : State).setFld g 176 16
    node).post 1 (.graphTimeNode g)

/-- A graph run ends: RUN is 0, and the RUNGRAPH's record is posted. -/
def State.endRun (s : State) (r : GraphRun) (status detail : Nat) : State :=
  (({ s with runs := s.runs.filter (·.graph != r.graph) } : State).setFld r.graph 160 1 0).completeMsg r.part r.slot r.seq
    status detail 0

/-- The address of a graph node (R371), which is read in the graph owner's process. -/
def State.nodeVa (s : State) (r : GraphRun) : BitVec 57 := BitVec.ofNat 57 (fld (s.obj r.graph) 64 57 + 32 * r.node)

def State.node (s : State) (r : GraphRun) : Option (BitVec 256) :=
  let o := s.obj r.graph
  if fld o 128 16 ≤ r.node then none
  else (s.vreadNat r.part (objOwner o) (s.nodeVa r) 32).map (BitVec.ofNat 256)

/-- A node that breaks R371, or the seventeenth WHILE node of a run. -/
def nodeBad (r : GraphRun) (n : BitVec 256) : Bool :=
  let kind := bitsNat n 0 3
  decide (4 < kind) || bitsNat n 3 13 != 0 || bitsNat n 48 16 != 0 || bitsNat n 121 7 != 0 || bitsNat n 192 64 != 0
    || (kind != 1 && kind != 2 && bitsNat n 32 16 != 0) || (decide (3 ≤ kind) && bitsNat n 64 57 != 0)
    || ((kind == 1 || kind == 2) && bitsNat n 64 57 % 4 != 0)
    || (kind == 2 && decide (16 ≤ r.counts.length) && (r.counts.lookup r.node).isNone)

/-- A COND or WHILE node's word, a LAUNCH node's image and what that names, once they can be read (R353). -/
def State.nodeReads (s : State) (r : GraphRun) (addr : BitVec 57) (n : Nat) (go : Option Nat → State) : State :=
  let owner := objOwner (s.obj r.graph)
  s.ownFirst (s.vkeys r.part owner addr n (some (.event (.graphTimeNode r.graph)))) (.graphTimeNode r.graph) (go (s.vreadNat r.part owner addr n))

/-- GRAPH_TIME_NODE (R372, R373): the run's node is served, each of its reads as it is due; a TIME node ends in the first cycle in which its deadline has
passed (log 35). -/
def execGraphTimeNode (graph : Nat) (s : State) : Out :=
  .next <|
    match s.runs.find? (·.graph == graph) with
    | none => s
    | some r =>
      if r.waits then s
      else if r.node = 0xFFFF then s.endRun r 0 0
      else if fld (s.obj graph) 128 16 ≤ r.node then s.endRun r 10 (r.node % 256)
      else
        s.ownFirst (s.vkeys r.part (objOwner (s.obj graph)) (s.nodeVa r) 32 (some (.event (.graphTimeNode graph)))) (.graphTimeNode graph) <|
        match s.node r with
        | none => s.endRun r 10 (r.node % 256)
        | some n =>
          let next := bitsNat n 16 16
          let alt := bitsNat n 32 16
          let addr : BitVec 57 := n.extractLsb' 64 57
          let owner := objOwner (s.obj graph)
          let bad := s.endRun r 10 (r.node % 256)
          if nodeBad r n then bad
          else
            match bitsNat n 0 3 with
            | 0 => s.nodeReads r addr 64 fun v => match v with
              | none => bad
              | some v =>
                let m : BitVec 512 := BitVec.ofNat 512 v
                if msgOp m ≠ 1 then s.endRun r 1 0
                else
                  match s.launchHead owner m with
                  | some st => s.endRun r st 0
                  | none =>
                    s.ownFirst (s.launchKeys r.part owner m (some (.event (.graphTimeNode graph)))) (.graphTimeNode graph) <|
                    match s.checkLaunch r.part owner m with
                    | .inl (st, d) => s.endRun r st d
                    | .inr g =>
                      let s1 := { s with runs := modWhere (·.graph == graph) (fun r => { r with waits := true, next := next }) s.runs }
                      (s1.addGrid { g with run := some graph }).startGrid g.id
            | 1 => s.nodeReads r addr 4 fun v => match v with
              | none => bad
              | some v => s.runAt graph (if v = 0 then alt else next)
            | 2 => s.nodeReads r addr 4 fun v => match v with
              | none => bad
              | some v =>
                let c := (r.counts.lookup r.node).getD 0
                let lim := bitsNat n 128 32
                let go := v != 0 && (lim == 0 || decide (c < lim))
                let cs := putWhere (·.1 == r.node) (r.node, if go then c + 1 else c) r.counts
                let s1 := { s with runs := modWhere (·.graph == graph) (fun r => { r with counts := cs }) s.runs }
                s1.runAt graph (if go then alt else next)
            | 3 =>
              let w := s.untilPtp (bitsNat n 128 64)
              if w = 0 then s.runAt graph next else s.post w (.graphTimeNode graph)
            | _ =>
              let k := fld (s.obj graph) 192 7
              let ring : RingId := .slot r.part (if (s.slot r.part k).isSome then k else r.slot)
              (s.record ring (recordOf r.seq 13 0 (bitsNat n 128 64))).runAt graph next

/-- The node after a launch of a graph run. -/
def State.afterLaunch (s : State) (graph : Nat) : State :=
  match s.runs.find? (·.graph == graph) with
  | none => s
  | some r => s.runAt graph r.next

/-- RUNNER_RANGE_REPORT (R364, R367): a Runner's range has wholly retired; the launch completes when every Runner has
reported. -/
def execRunnerRangeReport (launch die : Nat) (s : State) : Out :=
  .next <|
    match s.gridOf launch with
    | none => s
    | some g =>
      let retired (r : Range367) : Bool := r.die == die && r.left == 0 && r.hi ≤ r.next
      if !g.ranges.any retired then s
      else
        let rs := g.ranges.filter fun r => !retired r
        if rs.isEmpty then
          let s1 := { s with grids := s.grids.filter (·.id != launch) }
          match g.slot, g.run with
          | some (k, seq), _ => s1.completeMsg g.part k seq 0 0 g.total
          | none, some r => s1.afterLaunch r
          | none, none => s1
        else { s with grids := modWhere (·.id == launch) (fun g => { g with ranges := rs }) s.grids }

/-! Completion rings (R405, R407). -/

/-- A ring: the key of its first record, the log of its size, its vector. -/
def State.ring (s : State) : RingId → Option (Nat × Nat × Nat)
  | .slot p k => (s.slot p k).map fun x => (hostBase + x.cring, x.crn, x.vec)
  | .part p => ofReg (s.mreg (partBlock p + 0x30))
  | .package => ofReg (s.mreg 0x48)
where
  ofReg (v : DWord) : Option (Nat × Nat × Nat) :=
    if bitsNat v 0 4 = 0 then none else some (hostBase + bitsNat v 4 49 * 16, bitsNat v 0 4, bitsNat v 53 11)

def State.postedOf (s : State) (r : RingId) : Word := (s.posted.lookup r).getD 0

def State.setPosted (s : State) (r : RingId) (v : Word) : State :=
  { s with posted := (s.posted.filter (·.1 != r)) ++ (if v = 0 then [] else [(r, v)]) }

/-- The slot of a ring takes its next message, once its records have gone. -/
def State.pokeRing (s : State) : RingId → State
  | .slot p k => s.poke p k
  | _ => s

/-- A port that has been unmapped is gone once its messages are complete and their records posted (R360, R364). -/
def State.retirePort (s : State) : RingId → State
  | .slot p k =>
    if decide (128 ≤ k) && (match s.slot p k with | some x => x.taken.isEmpty && x.jstep == 0 | none => false)
        && !s.records.any fun r => r.ring == .slot p k then
      { s with slots := s.slots.filter fun x => !(x.part == p && x.slot == k), posted := s.posted.filter (·.1 != .slot p k) }
    else s
  | _ => s

/-- The host has left the PCB of the ring's port torn, and the port posts nothing (R429). -/
def State.ringTorn (s : State) : RingId → Bool
  | .slot p k => match s.slot p k with
    | some x => decide (k < 128) && !s.pcbWhole x
    | none => false
  | _ => false

/-- The PCB that says whether a port may post (R429). -/
def State.postKeys (s : State) : RingId → List Nat
  | .slot p k => if k < 128 then ((s.slot p k).map fun x => s.domKey x.pcb).toList else []
  | _ => []

/-- COMPLETION_POST (R405, R406, R429): the oldest record of the ring is written, while the host has read far enough, and then
POSTED counts it and the vector is raised; a ring that is not there drops it. -/
def execCompletionPost (ring : RingId) (s : State) : Out :=
  .next <|
    match s.records.find? (·.ring == ring) with
    | none => s
    | some r =>
      let again (n : Nat) (s : State) : State := s.post n (.completionPost ring)
      let rest : State := { s with records := s.records.erase r }
      match s.ring ring with
      | none => again 1 rest
      | some (base, crn, vec) =>
        let k := s.postedOf ring
        let tail := base + 16 * 2 ^ crn
        let consumed : Word := BitVec.ofNat 32 (memNat s.mem (tail + 16) 4)
        s.ownFirst (s.postKeys ring ++ [base + 16 * (k.toNat % 2 ^ crn), tail]) (.completionPost ring) <|
        if s.linkDown || s.ringTorn ring || decide (2 ^ crn ≤ (k - consumed).toNat) then again 64 s
        else if !r.written then
          let m := memWrites s.mem (cellsAt (base + 16 * (k.toNat % 2 ^ crn)) (bytesLE 16 r.bits.toNat))
          again 1 { s with mem := m, records := putWhere (· == r) { r with written := true } s.records }
        else
          let s1 := { rest with
            mem := memWrites s.mem (cellsAt tail (bytesLE 4 (k + 1).toNat ++ List.replicate 12 0))
            raised := s.raised ++ [vec] }
          ((again 1 (s1.setPosted ring (k + 1))).pokeRing ring).retirePort ring

/-! The tick of a bucket (R366). -/

/-- The tenant's waves resident in the partition. -/
def State.tenantWaves (s : State) (part k : Nat) : Nat :=
  (s.cores.flatMap fun c => (c.teams.filter fun t => t.part == part && fld (s.obj t.proc) 288 8 == k).map fun t =>
    (t.waves.filter fun w => !w.ended).length).sum

/-- BUCKET_TICK (R366), at the end of each microsecond; the first with a positive level lets the tenant's ports go on. -/
def execBucketTick (part bucket : Nat) (s : State) : Out :=
  .next <|
    let v := s.mreg (bucketReg part bucket)
    let old := bucketLevel (s.mreg (bucketReg part bucket + 8))
    let depth : Int := bitsNat v 16 32
    let l := max (-(2 ^ 31)) (min (min depth (old + bitsNat v 0 16 - s.tenantWaves part bucket)) (2 ^ 31 - 1))
    let s1 := (s.setMreg (bucketReg part bucket + 8) ((BitVec.ofInt 32 l).setWidth 64)).post (s.cyclesIn (micros 1)) (.bucketTick part bucket)
    if old ≤ 0 ∧ 0 < l then
      (s.slots.filter fun x => x.part == part && fld (s.obj x.proc) 288 8 == bucket).foldl (fun s x => s.poke x.part x.slot) s1
    else s1

/-! Discarding a context's teams (R380, R382). -/

/-- The replay windows hold no request that is gone (R317). -/
def State.sweep (s : State) : State :=
  { s with cores := s.cores.map fun k => { k with replay := k.replay.filter fun j => s.reqs.any (·.id == j) } }

/-- A team is gone without an image: its copies, held effects and results with it (R227, R315, R350, R380; log 33).  What the L1
has performed stays, and so does every request that has been accepted, at a Crucible or at the segment index; its result is
nobody's (R315, R397). -/
def State.discard (s : State) (oid proc : Nat) : State :=
  let s1 := match s.coreOf oid with
    | some k =>
      let s0 := s.setCore { k with
        held := k.held.filter fun h => h.ref.team != oid || (match h.kind with | .l1 _ => true | _ => false)
        faults := k.faults.filter (·.team != oid), faultQ := k.faultQ.filter (·.team != oid) }
      (s0.vacate k.id oid).sendFaults k.id
    | none => s
  let gone (q : Req) : Bool := q.team == oid && match q.stage with
    | .held | .sent _ | .answered _ _ _ => true
    | .pending i => q.ask.carousel && (i == 0 || (match q.ask with | .catchTile _ _ _ _ _ => true | _ => false))
    | _ => false
  let s2 := (s1.dropReqs gone).sweep
  let s3 : State := { s2 with
    reqs := s2.reqs.map fun q => if q.team == oid then { q with team := 0 } else q
    catches := s2.catches.filter fun c => s2.reqs.any (·.id == c.req)
    images := s2.images.filter (·.team.oid != oid), runq := s2.runq.filter (·.oid != oid)
    landings := s2.landings.filter (·.team != oid) }
  (s3.setFld oid 80 12 0).endTeam oid proc 5

/-- The teams a test holds of, resident or not. -/
def State.teamsOf (s : State) (p : Team → Bool) : List (Nat × Nat) :=
  ((s.cores.flatMap fun k => k.teams.filter p) ++ ((s.images.map (·.team)).filter p)).map fun t => (t.oid, t.proc)

def State.discardAll (s : State) (p : Team → Bool) : State := (s.teamsOf p).foldl (fun s t => s.discard t.1 t.2) s

/-- The escalation of a pre-emption that has not ended is over with the reset of its context (R376). -/
def State.endPreempts (s : State) (proc : Nat) : State :=
  (s.preempts.filter fun x => x.proc == proc && !x.done).foldl (fun s x => s.finish x.req 0)
    { s with preempts := s.preempts.filter (·.proc != proc) }

/-- The teams of a launch that have retired (R364). -/
def Grid.retired (g : Grid) : Nat := g.total - (g.ranges.map (·.left)).sum

/-- A context reset (R302, R380): the PROC is DYING, its teams are gone, its messages complete with STATUS 14, and the graph runs stop that its
ports have begun or whose graph it owns (log 33). -/
def State.ctxReset (s : State) (part proc : Nat) : State :=
  let s1 := (if objKind (s.obj proc) = kPROC then s.setObjState proc 2 else s).discardAll fun t => t.proc == proc
  let gs := s1.grids.filter fun g => g.proc == proc
  let mine (r : GraphRun) : Bool := r.proc == proc || objOwner (s1.obj r.graph) == proc
  let rs := s1.runs.filter mine
  let s2 : State := { s1 with
    grids := (s1.grids.filter (·.proc != proc)).map fun g =>
      if rs.any (fun r => g.run == some r.graph) then { g with run := none } else g
    runs := s1.runs.filter fun r => !mine r }
  let s3 := rs.foldl (fun s r => (s.setFld r.graph 160 1 0).completeMsg r.part r.slot r.seq 14 0 0) s2
  let s4 := gs.foldl (fun s g => match g.slot with
    | some (k, seq) => s.completeMsg g.part k seq 14 0 g.retired
    | none => s) s3
  let held := s4.slots.filter fun x => x.part == part && x.proc == proc && x.ord.isSome
  let s5 := held.foldl (fun s x => match x.ord with
    | some m => if msgOp m = 2 then
        (s.modSlot x.part x.slot fun y => { y with ord := none }).completeMsg x.part x.slot (msgSeq m) 14 0 0
      else if msgOp m = 1 then s.modSlot x.part x.slot fun y => { y with ord := none } else s
    | none => s) s4
  ((s5.freeIfDead proc).endPreempts proc).feed

/-- A partition reset (R382, R397): teams are discarded while the PROCs stay, waits and runs end, unserved entries are
dropped, the carousel segment is empty, and each mapped port replays from its fence; a port that has been unmapped goes once its records are
posted. -/
def State.partReset (s : State) (p : Nat) : State :=
  let s1 := s.discardAll fun t => t.part == p
  let drop (q : Req) : Bool := q.part == p && match q.stage with | .answered _ _ _ => false | _ => true
  let s2 := (s1.dropReqs drop).sweep
  let wsets := s2.liveObjs.filter fun o => objKind o.2 == kWSET && objPart o.2 == p
  let s3 := wsets.foldl (fun s o => s.setFld o.1 192 24 0) s2
  let s4 := (s3.runs.filter (·.part == p)).foldl (fun s r => s.setFld r.graph 160 1 0) s3
  let s5 : State := { s4 with
    grids := s4.grids.filter (·.part != p), runs := s4.runs.filter (·.part != p)
    catches := s4.catches.filter (·.part != p), carIndex := s4.carIndex.filter (·.part != p)
    preempts := s4.preempts.filter (·.part != p) }
  let s6 := s5.freeRange (carSeg s5 p)
  let s7 := (s.preempts.filter fun x => x.part == p && !x.done).foldl (fun s x => s.finish x.req 0) s6
  let old := s7.slots.filter fun x => x.part == p && decide (128 ≤ x.slot)
  let s8 := old.foldl (fun s x => (s.modSlot p x.slot fun y => { y with taken := [], ord := none }).retirePort (.slot p x.slot)) s7
  (s8.slots.filter fun x => x.part == p && decide (x.slot < 128)).foldl (fun s x =>
    let f : Word := BitVec.ofNat 32 (memNat s.mem (hostBase + x.fenceA) 4)
    let y := { x with ord := none, taken := [], stuck := false }
    ((s.modSlot p x.slot fun _ => y).setNext y (f + 1)).poke p x.slot) s8

/-! Pre-emption (R376, R377). -/

/-- The PREEMPT of a context whose escalation has not ended; there is one at most (R376). -/
def State.escalating (s : State) (part proc : Nat) : Option Preempt :=
  s.preempts.find? fun x => x.part == part && x.proc == proc && !x.done

def State.modEscalating (s : State) (part proc : Nat) (f : Preempt → Preempt) : State :=
  { s with preempts := modWhere (fun x => x.part == part && x.proc == proc && !x.done) f s.preempts }

/-- The pre-emption is complete: its record is posted, with HOLD the context's SWAPPED teams stay out until a RESUME, and without it each
team that a forced swap has saved is queued again, but for those that wait for a KWAIT (R375); a reset deadline is watched on (log 34). -/
def State.preempted (s : State) (x : Preempt) : State :=
  let s1 := (s.modEscalating x.part x.proc fun y => { y with done := true }).finish x.req 0
  let out (i : Image) : Bool := i.team.proc == x.proc && objState (s1.obj i.team.oid) == 3 && !i.moving && !i.auto
  let s2 := if x.hold then { s1 with images := modWhere out (fun i => { i with held := true }) s1.images }
    else if !x.forced then s1 else
    (s1.images.filter out).foldl (fun s i => s.requeue i.team.oid) s1
  { s2 with preempts := s2.preempts.filter fun y => !(y.proc == x.proc && y.done && (y.rdl == 0 || y.hold)) }

/-- PREEMPT_DRAIN_DEADLINE (R377): with no team of the context resident the pre-emption is complete; from DDL on every
resident team is swapped, with its persistent grid. -/
def execPreemptDrainDeadline (part proc : Nat) (s : State) : Out :=
  .next <|
    match s.escalating part proc with
    | none => s
    | some x =>
      let ts := s.cores.flatMap fun k => (k.teams.filter (·.proc == proc)).map fun t => (k.id, t)
      if ts.isEmpty && !(s.images.any fun i => i.team.proc == proc && i.moving) then s.preempted x
      else
        let wait := if s.wall < x.t0 + micros x.ddl then min 64 (max 1 (s.cycleAt (x.t0 + micros x.ddl) - s.cycle)) else 64
        let s1 := s.post wait (.preemptDrainDeadline part proc)
        if s.wall < x.t0 + micros x.ddl then s1
        else ts.foldl (fun s t => s.forceSwap t.1 t.2 .preempt) (s1.modEscalating part proc fun y => { y with forced := true })

/-- At a reset deadline: a held team is still resident, one that is on its way under MIGR among them, or one that was to be queued again has not
retired (R377). -/
def State.overdue (s : State) (x : Preempt) : Bool :=
  if x.hold then (s.cores.any fun k => k.teams.any fun t => t.proc == x.proc) || s.images.any fun i => i.team.proc == x.proc && i.moving
  else !x.teams.isEmpty

/-- PREEMPT_RESET_DEADLINE (R377): the context is reset where a deadline that has come finds a team overdue; each deadline is
watched once. -/
def execPreemptResetDeadline (part proc : Nat) (s : State) : Out :=
  .next <|
    let mine (x : Preempt) : Bool := x.part == part && x.proc == proc && x.rdl != 0
    let come (x : Preempt) : Bool := mine x && decide (x.t0 + micros x.rdl ≤ s.wall)
    if s.preempts.any fun x => come x && s.overdue x then s.ctxReset part proc
    else
      let s1 : State := { s with
        preempts := (s.preempts.filter fun x => !(come x && x.done)).map fun x => if come x then { x with rdl := 0 } else x }
      (s1.preempts.filter mine).foldl (fun s x =>
        s.post (s.cyclesIn (x.t0 + micros x.rdl - s.wall)) (.preemptResetDeadline part proc)) s1

end Sys2Proof.Machine
end

