-- ==== Sys2Proof/Machine/Recovery.lean ====
section
/-! DEFINITION. Die states, bring-up and package reset, strikes against units outside the cores, machine-checks, the
watchdog and the sensors (spec/25_recovery_power_keys.md R419 to R435; spec/16 R262, R263; spec/17 R294 to R296;
spec/21 R358; spec/22 R396, R397). -/

namespace Sys2Proof.Machine

/-! A die leaves the live state (R263, R358, R397, R421). -/

/-- The die that holds a partition's Sprue (R358). -/
def State.sprue (s : State) (p : Nat) : Option Nat := (s.partDies p).head?

/-- A request that the Crucible of a die has yet to serve: refused by it, queued at it, or a wait or claim at an object
homed there. -/
def Req.unservedAt (q : Req) (d : Nat) : Bool :=
  match q.stage with
  | .sent _ => q.core.die == d
  | .queued k _ => k == d
  | .pending i => objHome i == d && (match q.ask with | .kwait _ _ | .knext _ _ | .kname _ _ => true | _ => false)
  | _ => false

def Ask.isKwait : Ask → Bool
  | .kwait _ _ => true
  | _ => false

/-- An unserved request completes with UNAVAILABLE. -/
def State.unavailable (s : State) (q : Req) : State :=
  let s1 := match q.stage with
    | .pending i => if objKind (s.obj i) = kWSET && q.ask.isKwait then s.setFld i 192 24 0 else s
    | _ => s
  (s1.unwindow q.core q.id).answer q.id stUNAVAILABLE 0

/-- The cores, the Crucible and the Runner of the die stop; a partition whose Sprue was there is reset, the cores' export blocks
are cleared (R289), and the die's catch-table entries are dropped (log 41). -/
def State.leaveLive (s : State) (d : Nat) (f : Die → Die) : State :=
  let mine := (List.range 16).filter fun p => s.sprue p == some d
  let s1 : State := s.modDie d fun x => { f x with shares := List.replicate 16 0, queue := List.replicate 16 0, left := List.replicate 16 0 }
  let s2 : State := { s1 with
    cores := s1.cores.map fun k => if k.id.die == d then { k with
      inReset := true, tlb := [], rcache := [], l1 := [], code := [], exports := []
      held := k.held.filter fun h => match h.kind with | .perf _ => false | _ => true } else k
    mgmt := s1.mgmt.filter fun q => !(decide (dieBlock d + 0x2000 ≤ q.1) && decide (q.1 < dieBlock d + 0x2000 + 128 * 384))
    l2 := s1.l2.filter fun e => e.1 / 24 != d
    l2c := s1.l2c.filter fun e => e.1 / 24 != d }
  let s3 := mine.foldl State.partReset s2
  let s4 := (s3.reqs.filter (Req.unservedAt · d)).foldl State.unavailable s3
  { s4.dropReqs fun q => s4.catches.any (fun c => c.die == d && c.req == q.id) && q.stage == .pending 1 with
    catches := s4.catches.filter (·.die != d) }

/-! Machine-checks (R295, R431). -/

def unitCode : DieUnit → Nat
  | .l2 => 1
  | .crossbar => 2
  | .homeAgent => 3
  | .memoryController => 4
  | .crucible => 5
  | .runner => 6
  | .copyEngine => 7
  | .serviceCores | .station => 0

def State.finishAll (s : State) (rs : List MgmtReq) (status : Nat) : State := rs.foldl (fun s r => s.finish r status) s

/-- A die machine-check: every context with a team on the die is reset, and the die becomes memory-only, or down when its
memory is concerned or it is the second within an hour.  A die core reset that was under way is complete with it, and so is a die-down
where the die goes down; a restart is not (log 42). -/
def State.machineCheck (s : State) (d code : Nat) : State :=
  let procs := ((s.cores.filter (·.id.die == d)).flatMap fun k => k.teams.map fun t => (t.part, t.proc)).eraseDups
  let again : Bool := match (s.die d).mcAt with
    | some t => decide (s.wall < t + micros 3600000000)
    | none => false
  let s1 := (s.logErr 6 0 d code 0).bump d 3 1
  let s2 := procs.foldl (fun s q => s.ctxReset q.1 q.2) s1
  let old := s2.die d
  let goesDown : Bool := code == 3 || code == 4 || again || old.st == 0
  let s3 := s2.leaveLive d fun x => { x with
    st := if goesDown then 0 else 1, mc := true, mcAt := some s.wall, dead := x.dead || again
    reset := none, up := none, down := if goesDown then none else x.down }
  (s3.finishAll (old.reset.toList ++ if goesDown then old.down.toList else []) 0).finishAll old.up.toList 22

/-- The borne slot that last passed a die's station (log 46). -/
def State.lastPassed (s : State) (die : Nat) : Option CarSlot :=
  match s.car with
  | [] => none
  | x :: xs => some (xs.foldl (fun b y => if s.passAfter s.wall b.slot die < s.passAfter s.wall y.slot die then y else b) x)

/-- A slot's data cannot be recovered (R395). -/
def State.poison (s : State) (x : CarSlot) (die : Nat) : State :=
  if x.poisoned then s
  else (s.putSlot { x with poisoned := true }).logErr 3 ((s.slotPart x.slot).getD 0) die 0 x.slot

/-- STRIKE_REPORT_UNIT (R294, R295, R396, R433): the unit retries so many transactions; where the damage is beyond that, a
station poisons the slot that it last passed on, the service cores start their task again, and any other unit raises a
machine-check. -/
def execStrikeReportUnit (die : Nat) (u : DieUnit) (retries : Nat) (beyond : Bool) (s : State) : Out :=
  .next <|
    let s1 := s.bump die 2 retries
    if !beyond then s1
    else
      match u with
      | .serviceCores => s1
      | .station => if carNS s = 0 then s1 else (match s1.lastPassed die with | some x => s1.poison x die | none => s1)
      | _ => s1.machineCheck die (unitCode u)

/-! Bring-up and package reset (R419, R424, R432, R440). -/

/-- HARVEST (R432). -/
def harvest : Nat := ((List.range 8).map fun d => (Config.fusedCluster d).val * 2 ^ (5 * d)).sum

/-- SHA-256 of the pattern store, its words in order (R424, R440). -/
def storeHash : BitVec 256 := sha256 ((List.range 4096).flatMap fun a => bytesLE 12 (Config.patternStore a).toNat)

/-- The word that a die's Pattern fetches from an address while it runs for a partition, or, with none, for a package-wide routine:
the armed entry's, or the pattern store's (R425). -/
def State.patternWord (s : State) (part : Option Nat) (a : Nat) : BitVec 96 :=
  let armed (x : Patch) : Bool := x.maddr.toNat == a && match part with
    | some p => hasBit x.pmask p
    | none => x.pmask == 0xFFFF
  ((s.patches.find? armed).map (·.word)).getD (Config.patternStore a)

/-- RESET_RELEASE (R420, R424, R434): the fuses are read and the sensors tested, each stack is trained and zeroed, the host link
trains, the pattern store is measured, and the attestation index moves on to a block that has not been reserved; once, until the next package
reset. -/
def execResetRelease (s : State) : Out :=
  .next <|
    if s.measured.isNone then
      let s1 : State := ({ s with
        dies := (List.range 8).map fun d => ({ die := d, st := if Config.stackTrains d then 1 else 0 } : Die)
        mem := s.mem.filter fun c => decide (2 ^ 41 ≤ c.1)
        measured := some storeHash
        attIndex := (s.attIndex + 1023) / 1024 * 1024 } : State).post 0 .sensorTest
      (s1.setMreg 0x38 (BitVec.ofNat 64 harvest)).setMreg 0x00
        (BitVec.ofNat 64 ((if Config.cxlTrained then 1 else 0) + [16, 8, 4].getD Config.linkWidth.val 16 * 4))
    else s

/-- All state of the package is lost, and bring-up is due.  What is not the package's stays: the clock, host memory and
other packages', the directory entries on other nodes, the flash, the keys' generations, what the host has been sent (log 63). -/
def State.packageReset (s : State) : State :=
  let r : State := { State.reset with
    cycle := s.cycle, wallBase := s.wall, wallAt := s.cycle, ptpAt := s.wall, inputs := s.inputs, ctr := s.ctr, nextId := s.nextId, agenda := []
    mem := s.mem.filter fun c => decide (2 ^ 41 ≤ c.1)
    dir := s.dir.filter fun e => s.dirNode e.nsid e.name != some s.pkgId
    keys := s.keys.map fun k => if k.key.isSome then { k with gen := k.gen + 1, key := none } else k
    attIndex := s.attIndex, raised := s.raised }
  r.later .resetRelease


/-- FUNCTION_LEVEL_RESET (R419). -/
def execFunctionLevelReset (s : State) : Out := .next s.packageReset

/-- POWER_INPUT_FAULT (R435): no state is saved, and restoration begins with a package reset. -/
def execPowerInputFault (s : State) : Out := .next s.packageReset

/-! Die core reset, restart and die down (R421 to R423). -/

/-- The teams resident on a die's cores. -/
def State.dieTeams (s : State) (d : Nat) : List (CoreId × Team) :=
  (s.cores.filter (·.id.die == d)).flatMap fun k => k.teams.map fun t => (k.id, t)

/-- The later steps of a die core reset, once every team is saved: its record, and the die is memory-only; a die that a
machine-check has stopped meanwhile stays as that left it (R431; log 42). -/
def State.dcresetGoesOn (s : State) (d : Nat) : State :=
  match (s.die d).reset with
  | none => s
  | some r =>
    let ts := s.dieTeams d
    if (s.die d).st ≠ 2 then (s.modDie d fun x => { x with reset := none }).finish r 0
    else if ts.isEmpty then (s.leaveLive d fun x => { x with st := 1, mc := false, reset := none }).finish r 0
    else
      let s1 := ts.foldl (fun s t => s.forceSwap t.1 t.2 .stay) s
      s1.post 64 (.dcresetGoesOn d)

/-- The teams a die's Runner queues again at a restart: the die's SWAPPED teams, and those of the persistent grids that
they belong to; those that a HOLD = 1 pre-emption keeps out stay out (R377). -/
def State.swappedOn (s : State) (d : Nat) : List Nat :=
  let saved := s.images.filter fun i => objState (s.obj i.team.oid) == 3 && !i.moving && !i.held
  let mine := saved.filter (·.die == d)
  let pers (g : Nat) : Bool := ((s.gridOf g).map (·.pers)).getD false && mine.any fun i => i.team.grid == g
  (saved.filter fun i => i.die == d || pers i.team.grid).map (·.team.oid)

/-- The armed timers of a die are watched again. -/
def State.watchTimers (s : State) (d : Nat) : State :=
  let armed (o : Nat × BitVec 512) : Bool :=
    objHome o.1 == d && objKind o.2 == kTIMER && (objState o.2 == 2 || (objState o.2 == 3 && fld o.2 128 64 != 0))
  (s.liveObjs.filter armed).foldl (fun s o => s.postOnce (.timerFire o.1)) s

/-- A die becomes live: its cores leave reset, its Crucible's frames begin with an empty cache, so that its records are fetched as
they are used, and its Runner queues its teams; a partition that has no Sprue finds one here, and its ports go on. -/
def State.makeLive (s : State) (d : Nat) : State :=
  let s1 := s.modDie d fun x => { x with st := 2, mc := false, down := none, up := none, born := s.cycle }
  let s2 : State := { s1 with
    objs := s1.objs.filter fun o => objHome o.1 != d || s1.dirty.contains o.1
    cores := s1.cores.map fun k =>
    if k.id.die == d then { k with inReset := false, rollback := none, cur := none, old := none, hmax := none, closeReq := false
                                   held := k.held.filter (·.released), perf := List.replicate 12 0, retest := true } else k }
  let s3 := (s2.swappedOn d).foldl State.requeue s2
  (((s3.watchTimers d).post 0 (.crucibleFrame d)).feed).pokeAll none

/-- The copy pins that name memory of a die (R272, R423). -/
def State.pinsDie (s : State) (d : Nat) : Bool :=
  s.cores.any fun k => k.teams.any fun t => t.copies.any fun c => c.pins.any fun p => !p.host && s.domKey (p.pfn.toNat * 4096) / 2 ^ 36 == d

/-- DDOWN_PROCEED (R423): with no copy pin on its memory the die's home agent and memory controller stop (log 43). -/
def execDdownProceed (die : Nat) (s : State) : Out :=
  .next <|
    match (s.die die).down with
    | none => s
    | some r =>
      if s.pinsDie die then s.post 64 (.ddownProceed die)
      else (s.modDie die fun x => { x with st := 0, mc := false, down := none }).finish r 0

/-! Pattern and the sensors (R428, R434). -/

/-- A restart of a die's Pattern cuts the requests that it serves: those of the die, and of the partitions whose Sprue is there; a
shootdown and a region's transfer go on without one, and a pre-emption's escalation is over, with its teams as they are (R428; log 44). -/
def State.cutRequests (s : State) (d : Nat) : State :=
  let x := s.die d
  let mine (p : Nat) : Bool := s.sprue p == some d
  let ps := s.preempts.filter fun q => mine q.part && !q.done
  let shot (q : Shoot) : Option MgmtReq := match q.for_ with | .request r => if mine (mPart r) then some r else none | _ => none
  let here (y : Xfer) : Bool := if y.host then d == 0 else y.region / 2 ^ 15 == d
  let served (r : MgmtReq) : Bool := if mKind r = 6 then d == 0 else mine (mPart r)
  let late := s.waiting.filter served
  let cut := x.reset.toList ++ x.down.toList ++ x.up.toList ++ ps.map (·.req) ++ s.shoots.filterMap shot
    ++ (s.xfers.filter here).filterMap (·.req) ++ late
  let s1 : State := { s.modDie d (fun x => { x with reset := none, down := none, up := none }) with
    preempts := s.preempts.filter fun q => q.done || !mine q.part
    shoots := s.shoots.map fun q => if (shot q).isSome then { q with for_ := .page none } else q
    xfers := s.xfers.map fun y => if here y then { y with req := none } else y
    waiting := s.waiting.filter (!served ·) }
  s1.finishAll cut 20

/-- PATTERN_WATCHDOG (R428): the restart is logged, and completes the requests in progress; each PCB is repaired before any message is
taken; the third within a second raises a machine-check (log 44). -/
def execPatternWatchdog (die : Nat) (s : State) : Out :=
  .next <|
    let near := s.restarts.filter fun r => r.1 == die && decide (s.wall < r.2 + micros 1000000)
    let s1 := ({ s with restarts := near ++ [(die, s.wall)] ++ s.restarts.filter (·.1 != die) } : State).logErr 5 0 die 0 0
    -- a block that is not to be had is repaired before its port's next message is taken (`State.take`)
    let near_ (x : PortSlot) : Bool := s1.sprue x.part == some die && !s1.deviceWaits (s1.domKey x.pcb)
    let s2 := ((s1.slots.filter near_).foldl (fun s x => s.rollForward x.part x.slot) s1).cutRequests die
    if 2 ≤ near.length then s2.machineCheck die 0 else s2

/-- A core whose sensors fail is withdrawn: its teams are swapped and queued again (log 45). -/
def State.withdraw (s : State) (c : CoreId) : State :=
  if (s.core c).withdrawn then s
  else
    let s1 := ((s.modCore c fun k => { k with withdrawn := true }).bump c.die 4 1).logErr 8 0 c.die 0 (locOf c)
    (s1.core c).teams.foldl (fun s t => s.forceSwap c t .requeue) s1

/-- SENSOR_SELFTEST (R434): uncovered cores are withdrawn, and one whose die has been restarted and whose sensors pass
returns. -/
def execSensorSelftest (failed : List CoreId) (s : State) : Out :=
  .next <|
    let s1 : State := { s with cores := s.cores.map fun k =>
      if k.retest then { k with retest := false, withdrawn := k.withdrawn && failed.contains k.id } else k }
    failed.foldl State.withdraw s1

/-- The sensors' test of each second, the first of them at bring-up (R434): which of the enabled cores fail is free. -/
def State.sensorTest (s : State) : State :=
  let all := (List.range 8).flatMap fun d => ((List.range 24).filter (· != (Config.fusedCluster d).val)).flatMap (coresOf d)
  let s1 := match execSensorSelftest (all.filter fun c => Config.sensorFails s.ctr (locOf c)) s with
    | .next t => t
    | _ => s
  ({ s1 with ctr := s1.ctr + 1 } : State).post (s1.cyclesIn (micros 1000000)) .sensorTest

end Sys2Proof.Machine
end

