-- ==== Sys2Proof/Machine/Manage.lean ====
section
/-! DEFINITION. Management requests (spec/25_recovery_power_keys.md R418, R419, R421 to R428; spec/18 R298; spec/20 R347,
R354; spec/21 R360, R376, R380 to R382; spec/24 R407). -/

namespace Sys2Proof.Machine

/-! Acceptance (R407, R416, R418). -/

def mKinds : List Nat := (List.range 15).map (· + 1)

def mDirected (r : MgmtReq) : Bool := [1, 7, 8, 9, 10, 11, 14, 15].contains (mKind r)

/-- STATUS 2 from the header. -/
def mHeaderBad (r : MgmtReq) : Bool :=
  let die := [2, 3, 4].contains (mKind r)
  !mKinds.contains (mKind r) || bitsNat r 16 16 != 0 || (!mDirected r && mPart r != 0) || (!die && mDie r != 0)
    || (die && decide (8 ≤ mDie r))

/-- Requests that have not completed: those in progress, and those whose record waits for its ring. -/
def State.outstanding (s : State) : Nat :=
  (s.preempts.filter fun x => !x.done).length + (s.dies.filter fun d => d.reset.isSome || d.down.isSome || d.up.isSome).length
    + s.waiting.length + (s.shoots.filter fun x => match x.for_ with | .request _ => true | _ => false).length
    + (s.xfers.filter fun x => x.req.isSome).length
    + (s.records.filter fun r => (match r.ring with | .slot _ _ => false | _ => true) && bitsNat r.bits 32 8 != 15).length

/-- Bytes of the patch staging area. -/
def State.staged (s : State) (a n : Nat) : List Byte := memBytes s.staging a n

/-- The partitions that a request meets: the one it is directed to, or those in a patch image's PM. -/
def State.meets (s : State) (r : MgmtReq) (p : Nat) : Bool :=
  if mKind r = 6 then (natLE (s.staged (4096 * bitsNat r 64 20 + 4) 2)).testBit p else mDirected r && mPart r == p

/-- The requests that wait with this one: its partition's, or the patches. -/
def mLane (r : MgmtReq) : Nat := if mKind r = 6 then 16 else mPart r

/-- The request is to be served when the memory that it reads can be had, with those of its partition that follow it (R427). -/
def State.waits (s : State) (r : MgmtReq) : State :=
  ({ s with waiting := s.waiting ++ [r] } : State).postOnce (.requestServe (mLane r))

/-- A request of an earlier SEQ that meets a partition which this one meets waits to be served (R427; log 92, DEDUCED). -/
def State.barred (s : State) (r : MgmtReq) : Bool :=
  s.waiting.any fun w => (List.range 16).any (fun p => s.meets w p && s.meets r p) && w != r && decide ((mSeq r - mSeq w).toNat < 2 ^ 31)

/-- The offset of the write that posts a request (R416), and the value written (R417). -/
def postOff : Nat := 0x118
def postVal (r : MgmtReq) : Nat := bitsNat r 192 64

/-- A posted request of a kind: not performed, and logged, while its ring is not set up or 64 are outstanding; else checked,
with STATUS 2 for a bit that must be 0, and performed, behind those of its partition that came before it (R427). -/
def State.asked (s : State) (r : MgmtReq) (kind : Nat) (rsv : Bool) (go : State) (off : Nat := postOff) : State :=
  if mKind r ≠ kind then s
  else if (s.ring (mRing r)).isNone || decide (64 ≤ s.outstanding) then s.logErr 1 (mPart r) (mDie r) off (postVal r)
  else if mHeaderBad r || rsv then s.finish r 2
  else if s.barred r then s.waits r
  else go

/-- A request whose serving reads memory that it has to wait for (R353, R412, R423). -/
def State.servedFrom (s : State) (r : MgmtReq) (keys : List Nat) (go : State) : State :=
  let by_ : Asker := .event (.requestServe (mPart r))
  if keys.any (s.accessWaits by_) then (s.askFor keys by_).waits r else go

/-- Every bit of the body from `lo` on is 0. -/
def bodyFrom (r : MgmtReq) (lo : Nat) : Bool := bitsNat r lo (256 - lo) == 0

/-- STATUS 22 BADOBJ (log 47). -/
def State.badObj (s : State) (r : MgmtReq) : State := s.finish r 22

/-- The PROC is LIVE, and the partition's. -/
def State.liveProc (s : State) (p i : Nat) : Bool :=
  objKind (s.obj i) == kPROC && objState (s.obj i) == 1 && objPart (s.obj i) == p

/-! Resets (R419 to R423). -/

def State.preset (s : State) (r : MgmtReq) : State :=
  s.asked r 1 (!bodyFrom r 64) ((s.partReset (mPart r)).finish r 0)

/-- PRESET (R382). -/
def execPreset (req : MgmtReq) (s : State) : Out := .next (s.preset req)

def State.dcreset (s : State) (r : MgmtReq) : State :=
  let d := mDie r
  s.asked r 2 (!bodyFrom r 64)
    (if (s.die d).reset.isSome || (s.die d).st == 0 then s.badObj r
    else if (s.die d).st == 1 then s.finish r 0
    else (s.modDie d fun x => { x with reset := some r }).post 1 (.dcresetGoesOn d))

/-- DCRESET (R421): a memory-only die's repeat has no effect (R428). -/
def execDcreset (req : MgmtReq) (s : State) : Out := .next (s.dcreset req)

/-! Host accesses and region transfers (R353, R354, R423). -/

/-- Where a host access acts: in package memory, or in the host's own. -/
def State.hostKey (s : State) (a : HostAccess) : Nat := if a.own then hostBase + a.addr else s.domKey a.addr

/-- A host access is performed: a store under the checks of R439; a load changes nothing. -/
def State.hostPerform (s : State) (a : HostAccess) : State :=
  match a.write with
  | some bs => s.physWrite none (cellsAt (s.hostKey a) (bs.take a.bytes))
  | none => s

/-- A host access at the home agent: it waits for a down die, and behind the transfers of its region, the one that it
starts among them; an absent address holds no memory (log 50).  The host processor's access to host memory is never seen by
the device, and is performed (R353; log 85). -/
def State.hostAccess (s : State) (a : HostAccess) : State :=
  let key := s.domKey a.addr
  if a.own then s.hostPerform a
  else if decide (2 ^ 41 ≤ a.addr) || s.absentPa a.addr then s
  else if s.downKey key then { s with hostWaits := s.hostWaits ++ [a] }
  else
    match s.regionOf key with
    | some r =>
      if s.owner key = 1 || (rgnEn s && s.xfers.any fun x => x.host == r.1 && x.region == r.2) then
        s.startXfer r true (some a) none
      else (s.noteOwn r).hostPerform a
    | none => s.hostPerform a

/-- A transfer is over, and the region's next one begins. -/
def State.xferOver (s : State) (x : Xfer) : State :=
  let s1 : State := { s with xfers := s.xfers.erase x }
  match s1.xfers.find? fun y => y.host == x.host && y.region == x.region with
  | some y => s1.beginXfer y
  | none => s1

/-- A transfer is complete: ownership passes, to the host with no line of the region left in a cache, and the host access that started it
is performed, or its request completes; the device accesses that wait for it are performed in their order of arrival, as their agents next act, before the region's next
transfer begins (R353, R354). -/
def State.xferEnds (s : State) (x : Xfer) : State :=
  let r := (x.host, x.region)
  let s0 := if x.toHost then s.flushed fun l => s.regionOf (64 * l) == some r else s
  let s1 := s0.putTable r ((s.tableByte r &&& 0xF8) ||| if x.toHost then 2 else 1)
  let s2 := match x.acc with | some a => s1.hostPerform a | none => s1
  let s3 := match x.req with | some r => s2.finish r 0 | none => s2
  if !x.askers.isEmpty then { s3 with xfers := s3.xfers.map fun y => if y == x then { y with seq := none, owed := true } else y }
  else s3.xferOver x

/-- REGION_TRANSFER_DONE (R354): every line has been written back or back-invalidated; one that waits for the driver goes
on with its XFERDONE. -/
def execRegionTransferDone (host : Bool) (region : Nat) (s : State) : Out :=
  .next <|
    match s.xfers.find? fun x => x.host == host && x.region == region with
    | some x => if x.seq.isNone && !x.owed then s.xferEnds x else s
    | none => s

/-- HOST_MEMORY_ACCESS (R353, R439). -/
def execHostMemoryAccess (a : HostAccess) (s : State) : Out := .next (s.hostAccess a)

/-- Host accesses that waited for a die go on. -/
def State.hostGoesOn (s : State) : State :=
  s.hostWaits.foldl State.hostAccess { s with hostWaits := [] }

/-! Die restart and die down (R422, R423). -/

def State.drestart (s : State) (r : MgmtReq) : State :=
  let d := mDie r
  s.asked r 3 (!bodyFrom r 64)
    (if (s.die d).dead || (s.die d).up.isSome then s.badObj r
    else if s.live d then s.finish r 0
    else
      let s1 := match (s.die d).down with | some q => s.finish q 22 | none => s
      if (s.die d).st = 1 then (s1.makeLive d).finish r 0
      else (s1.modDie d fun x => { x with down := none, up := some r }).later (.drestartGoesOn d))

/-- The stack of a down die is trained, and the die passes through the memory-only state to the live one (R422). -/
def State.drestartGoesOn (s : State) (d : Nat) : State :=
  match (s.die d).up with
  | none => s
  | some r =>
    if (s.die d).st = 0 then ((s.modDie d fun x => { x with st := 1, mc := false }).hostGoesOn).later (.drestartGoesOn d)
    else (s.makeLive d).finish r 0

/-- DRESTART (R422): a live die's has no effect, and a down die trains its stack first; a die that two machine-checks have taken down stays
down (R431), and a DDOWN that still waits ends with STATUS 22 (log 42). -/
def execDrestart (req : MgmtReq) (s : State) : Out := .next (s.drestart req)

def State.ddown (s : State) (r : MgmtReq) : State :=
  let d := mDie r
  s.asked r 4 (!bodyFrom r 64)
    (if (s.die d).st == 2 || (s.die d).down.isSome || (s.die d).up.isSome then s.badObj r
    else if (s.die d).st == 0 then s.finish r 0
    else (s.modDie d fun x => { x with down := some r }).post 1 (.ddownProceed d))

/-- DDOWN (R423): of a memory-only die; a down die's repeat has no effect (R428). -/
def execDdown (req : MgmtReq) (s : State) : Out := .next (s.ddown req)

/-- A package reset is asked for: it posts no record, and needs no ring; behind 64 outstanding requests it is not performed
(R416). -/
def State.pkreset (s : State) (r : MgmtReq) : State :=
  if mKind r ≠ 5 then s
  else if mHeaderBad r || !bodyFrom r 64 then s.asked r 5 true s
  else if 64 ≤ s.outstanding then s.logErr 1 0 0 postOff (postVal r)
  else s.packageReset

/-- PKRESET (R407, R419). -/
def execPkreset (req : MgmtReq) (s : State) : Out := .next (s.pkreset req)

/-! Patches (R426, R427). -/

/-- The image at an offset: VER, PM, the entries, the bytes of the header and the entries, and the signature behind them (the layout is
the model's, log 24). -/
structure PatchImage where
  ver : Word
  pm : BitVec 16
  count : Nat
  entries : List Patch
  bytes : List Byte
  sig : List Byte

/-- SHA-256 of the header and the entries. -/
def PatchImage.hash (i : PatchImage) : BitVec 256 := sha256 i.bytes

/-- The signature verifies against the root key (R426). -/
def PatchImage.signed (i : PatchImage) : Bool := hssVerify Config.patchRootKey i.sig (bytesBE 32 i.hash.toNat)

def State.patchImage (s : State) (a : Nat) : PatchImage :=
  let n := natLE (s.staged (a + 6) 2)
  { ver := BitVec.ofNat 32 (natLE (s.staged a 4)), pm := BitVec.ofNat 16 (natLE (s.staged (a + 4) 2)), count := n
    entries := (List.range n).map fun k =>
      let b := a + 16 + 16 * k
      ⟨BitVec.ofNat 12 (natLE (s.staged b 2)), BitVec.ofNat 16 (natLE (s.staged (b + 2) 2)), BitVec.ofNat 96 (natLE (s.staged (b + 4) 12))⟩
    bytes := s.staged a (16 + 16 * n), sig := s.staged (a + 16 + 16 * n) hssBytes }

/-- Armed entries without those partitions. -/
def patchesBut (ps : List Patch) (pm : BitVec 16) : List Patch :=
  (ps.map fun p => { p with pmask := p.pmask &&& ~~~pm }).filter fun p => p.pmask != 0

/-- The first check that fails (R426). -/
def State.patchStatus (s : State) (i : PatchImage) : Nat :=
  if !i.signed then 16
  else if i.ver.toNat < Config.patchVersionMin then 17
  else if i.count = 0 ∨ 256 < i.count ∨ !(i.entries.map (·.maddr)).Nodup ∨ !(i.entries.all fun p => p.pmask == i.pm) then 18
  else if 256 < (patchesBut s.patches i.pm).length + i.count then 19
  else if i.pm = 0xFFFF && (List.range 16).any (fun p => (List.range 8).any fun d => s.pclu p d != 0) then 9
  else 0

def State.patch (s : State) (r : MgmtReq) : State :=
  s.asked r 6 (!bodyFrom r 84) <|
    let i := s.patchImage (4096 * bitsNat r 64 20)
    let st := s.patchStatus i
    if st = 0 then
      ({ s with
        patches := patchesBut s.patches i.pm ++ i.entries
        patchSets := ((s.patchSets.map fun q => { q with pm := q.pm &&& ~~~i.pm }).filter fun q => q.pm != 0) ++ [⟨i.pm, i.ver, i.hash⟩] } : State).finish r 0
    else s.finish r st

/-- PATCH (R426). -/
def execPatch (req : MgmtReq) (s : State) : Out := .next (s.patch req)

/-! Contexts (R376, R377, R380, R418). -/

def State.preempt (s : State) (r : MgmtReq) : State :=
  let p := mPart r
  let i := bitsNat r 64 24
  s.asked r 7 (bitsNat r 89 7 != 0 || bitsNat r 116 12 != 0 || !bodyFrom r 152) <|
    if !s.liveProc p i || (s.escalating p i).isSome then s.badObj r
    else
      let ts := (s.teamsOf fun t => t.proc == i && [1, 2, 3].contains (objState (s.obj t.oid))).map (·.1)
      let x : Preempt :=
        { part := p, proc := i, hold := hasBit r 88, ddl := bitsNat r 96 20, rdl := bitsNat r 128 24, req := r, t0 := s.wall, teams := ts }
      let s1 := ({ s with preempts := s.preempts ++ [x] } : State).post 1 (.preemptDrainDeadline p i)
      if x.rdl = 0 then s1 else s1.post (s.cyclesIn (micros x.rdl)) (.preemptResetDeadline p i)

/-- PREEMPT (R376, R377). -/
def execPreempt (req : MgmtReq) (s : State) : Out := .next (s.preempt req)

def State.resume (s : State) (r : MgmtReq) : State :=
  let p := mPart r
  let i := bitsNat r 64 24
  let o := s.obj i
  s.asked r 8 (!bodyFrom r 89) <|
    if hasBit r 88 then
      if objKind o = kTEAM && objState o == 4 && objPart o == p && (s.image i).isSome then
        (((s.setFld i 72 8 0).requeue i).follow i).finish r 0
      else s.badObj r
    else if s.liveProc p i then
      let out := s.images.filter fun m => m.team.proc == i && objState (s.obj m.team.oid) == 3 && m.held && !m.moving
      if out.isEmpty then s.badObj r else (out.foldl (fun s m => s.requeue m.team.oid) s).finish r 0
    else s.badObj r

/-- RESUME (R302, R377, R418): the teams that a HOLD = 1 pre-emption left SWAPPED, or one that is FAULTED; a PROC that has no such team names
nothing the request can act on (log 29). -/
def execResume (req : MgmtReq) (s : State) : Out := .next (s.resume req)

def State.ctxresetAsked (s : State) (r : MgmtReq) : State :=
  let p := mPart r
  let i := bitsNat r 64 24
  s.asked r 14 (!bodyFrom r 88) (if s.liveProc p i then (s.ctxReset p i).finish r 0 else s.badObj r)

/-- CTXRESET (R380). -/
def execCtxreset (req : MgmtReq) (s : State) : Out := .next (s.ctxresetAsked req)

/-! Objects (R298, R302). -/

/-- The bits of a kind that system software writes: offset and width (R299, R300, R370). -/
def recordRw : Nat → List (Nat × Nat)
  | 1 => [(64, 57), (128, 24), (192, 57), (288, 8)]
  | 3 => [(64, 9), (128, 57), (192, 57), (249, 2), (251, 6)]
  | 6 => [(64, 57), (128, 16), (144, 16), (192, 24)]
  | 7 => [(64, 32), (96, 16)]
  | _ => []

/-- A written record as the home Crucible takes it into service: KIND, the state of its creation, and of what was written the
header's OWNER, REFS and PART and the fields of the kind that are software's; every other bit is 0 (log 48). -/
def createdRecord (r : BitVec 512) (kind : Nat) : BitVec 512 :=
  (recordRw kind).foldl (fun x f => withFld x f.1 f.2 (fld r f.1 f.2)) (header kind 1 (objOwner r) (objRefs r) (objPart r))

def State.create (s : State) (r : MgmtReq) : State :=
  let p := mPart r
  let i := bitsNat r 64 24
  let kind := bitsNat r 92 4
  s.asked r 9 (bitsNat r 89 3 != 0 || !bodyFrom r 96) <|
    if !s.inRange p i || !s.live (objHome i) || !([1, 3, 4, 5, 6, 7].contains kind) then s.badObj r
    else if hasBit r 88 then
      if objKind (s.obj i) = kWORK then ((s.setFld i 128 32 0).setObjState i 1).finish r 0 else s.badObj r
    else if objKind (s.obj i) ≠ 0 then s.badObj r
    else
      s.servedFrom r [s.objKey i] <|
        let rec_ := s.recordAt i
        if objKind rec_ ≠ 0 then s.badObj r else (s.putObj i (createdRecord rec_ kind)).finish r 0

/-- CREATE (R298); the record is read as an agent of its partition reads it. -/
def execCreate (req : MgmtReq) (s : State) : Out := .next (s.create req)

/-! Port slots (R359, R360, R381, R429). -/

/-- A PCB that a PORTMAP accepts: whole, with no reserved bit, a ring of the sizes given, aligned addresses, and a PROC of
the partition. -/
def State.pcbOk (s : State) (p : Nat) (b : BitVec 512) : Bool :=
  !pcbTorn b && fld b 56 8 == 0 && fld b 121 7 == 0 && fld b 132 60 == 0 && fld b 249 7 == 0 && fld b 288 192 == 0
    && decide (4 ≤ fld b 128 4) && fld b 64 57 % 16 == 0 && fld b 192 57 % 8 == 0
    && objKind (s.obj (fld b 32 24)) == kPROC && objPart (s.obj (fld b 32 24)) == p

/-- An update of a slot's PCB that is due or under way takes place at once (R430). -/
def State.pcbNow (s : State) (p k : Nat) : State :=
  let s1 := s.rollForward p k
  match s1.slot p k with
  | some x =>
    let b := s1.pcbAt p x.pcb
    if x.jstep = 1 && !pcbTorn b then
      (s1.modSlot p k fun y => { y with journal := journalFor (fld b 0 32) 8 x.next }).rollForward p k
    else s1
  | none => s1

/-- The PCB of a port that is unmapped holds its NEXTSEQ, unless the host has left the block torn, which stays (R429); where the block is
not to be had, the update goes on. -/
def State.pcbLast (s : State) (p k : Nat) : State :=
  match s.slot p k with
  | some x =>
    if s.deviceWaits (s.domKey x.pcb) then s
    else (s.pcbNow p k).modSlot p k fun y => { y with jstep := 0 }
  | none => s

/-- A slot is free: the port's untaken messages are dropped.  The port goes on, under a number that is no slot's, until the
messages that it has taken are complete and their records posted (R360, R364; log 76). -/
def State.unmapSlot (s0 : State) (p k : Nat) : State :=
  let s := s0.pcbLast p k
  match s.slot p k with
  | none => s
  | some x =>
    let n := 128 + s.nextId
    let ring (r : RingId) : RingId := if r = .slot p k then .slot p n else r
    let s1 : State := { s with
      nextId := s.nextId + 1
      slots := modWhere (fun y => y.part == p && y.slot == k) (fun y => { y with slot := n, bell := none }) s.slots
      grids := s.grids.map fun g => if g.part = p then { g with slot := g.slot.map fun q => if q.1 = k then (n, q.2) else q } else g
      runs := s.runs.map fun r => if r.part = p ∧ r.slot = k then { r with slot := n } else r
      records := s.records.map fun r => { r with ring := ring r.ring }
      posted := s.posted.map fun q => (ring q.1, q.2)
      bar2 := s.bar2.filter fun c => !(decide (slotBase p k ≤ c.1) && decide (c.1 < slotBase p k + 0x1000)) }
    let s2 := if x.ord.isSome then s1.post 1 (.ordStart p n) else s1
    let s3 := if x.jstep = 0 then s2 else s2.post 1 (.pcbStep p n)
    (s3.post 1 (.completionPost (.slot p n))).retirePort (.slot p n)

/-- The updates of the slots whose PCB lies at an address take place before it is read (R430). -/
def State.rolledAt (s : State) (pa : Nat) : State :=
  (s.slots.filter (·.pcb == pa)).foldl (fun s x => s.pcbNow x.part x.slot) s

/-- A PCB that can be read is mapped into a slot, if it is accepted (R360, R381). -/
def State.mapSlot (s : State) (r : MgmtReq) (p k pa : Nat) : State :=
  let b := s.pcbAt p pa
  if !s.pcbOk p b then s.badObj r
  else
    let x : PortSlot :=
      { part := p, slot := k, pcb := pa, vec := bitsNat r 80 11, proc := fld b 32 24, cring := fld b 64 57, crn := fld b 128 4
        fenceA := fld b 192 57, next := b.extractLsb' 256 32 }
    let s1 := s.unmapSlot p k
    let s2 := ({ s1 with slots := s1.slots ++ [x] } : State).setPosted (.slot p k) 0
    ((s2.writeFence x (x.next - 1)).tickBucket p (fld (s.obj x.proc) 288 8)).finish r 0

def State.portmap (s : State) (r : MgmtReq) : State :=
  let pa := bitsNat r 128 52
  s.asked r 10 (bitsNat r 71 9 != 0 || bitsNat r 91 37 != 0 || !bodyFrom r 180) <|
    if pa % 64 ≠ 0 || s.absentPa pa then s.badObj r
    else s.servedFrom r [s.domKey pa] ((s.rolledAt pa).mapSlot r (mPart r) (bitsNat r 64 7) pa)

/-- PORTMAP (R360, R381). -/
def execPortmap (req : MgmtReq) (s : State) : Out := .next (s.portmap req)

def State.portunmap (s : State) (r : MgmtReq) : State :=
  let p := mPart r
  let k := bitsNat r 64 7
  s.asked r 11 (!bodyFrom r 71) (if (s.slot p k).isSome then (s.unmapSlot p k).finish r 0 else s.badObj r)

/-- PORTUNMAP (R360). -/
def execPortunmap (req : MgmtReq) (s : State) : Out := .next (s.portunmap req)

/-! Transfers (R354, R407). -/

def State.xferdone (s : State) (r : MgmtReq) : State :=
  s.asked r 12 (!bodyFrom r 96) <|
    match s.xfers.find? fun x => x.seq == some (r.extractLsb' 64 32) with
    | some x => (s.xferEnds x).finish r 0
    | none => (s.badObj r).logErr 1 0 0 postOff (postVal r)

/-- XFERDONE (R354, R407). -/
def execXferdone (req : MgmtReq) (s : State) : Out := .next (s.xferdone req)

def State.xferhost (s : State) (r : MgmtReq) : State :=
  let a := bitsNat r 64 52
  let key := if hasBit r 116 then hostBase + a else s.domKey a
  s.asked r 13 (!bodyFrom r 117) <|
    if a % 2 ^ 21 ≠ 0 then s.badObj r
    else
      match s.regionOf key with
      | none => s.badObj r
      | some q =>
        if s.owner key = 1 || (rgnEn s && s.xfers.any fun x => x.host == q.1 && x.region == q.2) then
          s.startXfer q true none (some r)
        else (s.noteOwn q).finish r 0

/-- XFERHOST (R354): of a region that the accelerator does not own it has no effect. -/
def execXferhost (req : MgmtReq) (s : State) : Out := .next (s.xferhost req)

/-! Shootdowns (R347). -/

/-- The 128-bit value of R347 breaks a rule of its table. -/
def shootBad (b : BitVec 128) : Bool :=
  let sz := bitsNat b 24 2
  let np := bitsNat b 32 16
  let va := bitsNat b 64 57
  bitsNat b 27 5 != 0 || bitsNat b 48 16 != 0 || bitsNat b 121 7 != 0
    || (if hasBit b 26 then sz != 0 || np != 0 || va != 0 else np == 0 || va % pageBytes sz != 0)

def State.shootdown (s : State) (r : MgmtReq) (off : Nat := postOff) : State :=
  let b : BitVec 128 := r.extractLsb' 64 128
  let bad := shootBad b || !bodyFrom r 192
  let s0 := if mKind r = 15 && bad && !mHeaderBad r then s.logErr 1 (mPart r) 0 off (postVal r) else s
  s0.asked r 15 bad
    (s0.startShoot (mPart r)
      { id := 0, proc := bitsNat b 0 24, all := hasBit b 26, sz := bitsNat b 24 2, np := bitsNat b 32 16, va := b.extractLsb' 64 57
        for_ := .request r }) off

/-- SHOOTDOWN (R347). -/
def execShootdown (req : MgmtReq) (s : State) : Out := .next (s.shootdown req)

/-! The request windows (R416, R418). -/

/-- A request as its KIND says; KIND 0 and 16 to 255 are not requests. -/
def State.request (s : State) (r : MgmtReq) : State :=
  match mKind r with
  | 1 => s.preset r
  | 2 => s.dcreset r
  | 3 => s.drestart r
  | 4 => s.ddown r
  | 5 => s.pkreset r
  | 6 => s.patch r
  | 7 => s.preempt r
  | 8 => s.resume r
  | 9 => s.create r
  | 10 => s.portmap r
  | 11 => s.portunmap r
  | 12 => s.xferdone r
  | 13 => s.xferhost r
  | 14 => s.ctxresetAsked r
  | 15 => s.shootdown r
  | k => s.asked r k true s

/-- The earlier of two requests, by SEQ (R427). -/
def earlier (a b : MgmtReq) : MgmtReq := if (mSeq b - mSeq a).toNat < 2 ^ 31 then a else b

/-- The requests of a partition that wait, or the patches, are served in SEQ order: the first, and the others after it (R427). -/
def State.requestServe (s : State) (p : Nat) : State :=
  match s.waiting.filter (mLane · == p) with
  | [] => s
  | w :: ws =>
    let r := ws.foldl earlier w
    let s1 := ({ s with waiting := s.waiting.filter (mLane · != p) } : State).request r
    let s2 : State := { s1 with waiting := s1.waiting ++ (w :: ws).erase r }
    if s2.waiting.any (mLane · == p) then s2.postOnce (.requestServe p) else s2

end Sys2Proof.Machine
end

