-- ==== Sys2Proof/Machine/Registers.lean ====
section
/-! DEFINITION. The management space: its registers' writes and what they read, the host's windows, the Flask, the domain,
time and the host link (spec/25_recovery_power_keys.md R416, R417, R436 to R438; spec/24 R401 to R415; spec/16 to 22 for
the registers named in them; spec/00 R7). -/

namespace Sys2Proof.Machine

/-! A write (R7, R416, R417). -/

/-- A write that is not performed, or that sets a reserved bit, is logged. -/
def State.notPerformed (s : State) (part die off : Nat) (v : DWord) : State := s.logErr 1 part die off v.toNat

/-- A write of a whole register: one that sets a bit of `rsv` is not performed, and logged with code 2; one that its rule
forbids, with code 1 (log 49). -/
def State.regWrite (s : State) (part die off : Nat) (v rsv : DWord) (ok : Bool) (go : State) : State :=
  if v &&& rsv ≠ 0 then s.logErr 2 part die off v.toNat else if ok && decide (part < 16) then go else s.notPerformed part die off v

/-- Bits `lo + len - 1 : lo`. -/
def span (lo len : Nat) : DWord := BitVec.allOnes 64 >>> (64 - len) <<< lo

/-- The bits of `rw` take the written value; the others are read-only. -/
def State.setRw (s : State) (off : Nat) (v rw : DWord) : State := s.setMreg off ((s.mreg off &&& ~~~rw) ||| (v &&& rw))

def parts : List Nat := List.range 16

/-- The sum of a field over the partitions, with `v` in the register of `p`. -/
def State.shareSum (s : State) (off : Nat) (p : Nat) (v : DWord) (lo len : Nat) : Nat :=
  (parts.map fun q => bitsNat (if q = p then v else s.mreg (partBlock q + off)) lo len).sum

/-! Partition registers. -/

/-- Two ranges of indices meet, index 0 left out (R297). -/
def idxMeet (lo hi lo' hi' : Nat) : Bool := decide (max (max lo lo') 1 ≤ min hi hi')

def State.writeOid (s : State) (p d : Nat) (hi : Bool) (v : DWord) : State :=
  let off := if hi then oidHi p d else oidLo p d
  let a := bitsNat (if hi then s.mreg (oidLo p d) else v) 0 21
  let b := bitsNat (if hi then v else s.mreg (oidHi p d)) 0 21
  let meets (q : Nat) : Bool := q != p && idxMeet a b (bitsNat (s.mreg (oidLo q d)) 0 21) (bitsNat (s.mreg (oidHi q d)) 0 21)
  s.regWrite p d off v (span 21 43) (decide (p < 16) && decide (d < 8) && !parts.any meets) ((s.setMreg off v).feed)

/-- OID_RANGE_WRITE (R297). -/
def execOidRangeWrite (part die : Nat) (hi : Bool) (v : DWord) (s : State) : Out := .next (s.writeOid part die hi v)

def State.writeCrshare (s : State) (p : Nat) (v : DWord) : State :=
  let ok := decide (s.shareSum 0x10 p v 0 9 ≤ 256) && decide (s.shareSum 0x10 p v 16 9 ≤ 512)
    && decide (bitsNat v 16 10 ≤ 512) && decide (s.shareSum 0x10 p v 32 8 ≤ 256)
    && decide (4 ≤ bitsNat v 40 4) && decide (bitsNat v 40 4 ≤ 12)
  s.regWrite p 0 (partBlock p + 0x10) v (span 9 7 ||| span 25 7 ||| span 44 20) ok (s.setMreg (partBlock p + 0x10) v)

/-- CRSHARE_WRITE (R318). -/
def execCrshareWrite (part : Nat) (v : DWord) (s : State) : Out := .next (s.writeCrshare part v)

def State.writeHeatctl (s : State) (p : Nat) (v : DWord) : State :=
  s.regWrite p 0 (partBlock p + 0x8) v (span 5 59) (decide (4 ≤ bitsNat v 0 5) && decide (bitsNat v 0 5 ≤ 16))
    (s.setMreg (partBlock p + 0x8) v)

/-- HEATCTL_WRITE (R279). -/
def execHeatctlWrite (part : Nat) (v : DWord) (s : State) : Out := .next (s.writeHeatctl part v)

def State.writeTxctl (s : State) (p : Nat) (v : DWord) : State :=
  s.regWrite p 0 (partBlock p + 0x20) v (span 0 12 ||| span 52 12) (bitsNat v 41 11 == 0) (s.setMreg (partBlock p + 0x20) v)

/-- TXCTL_WRITE (R338). -/
def execTxctlWrite (part : Nat) (v : DWord) (s : State) : Out := .next (s.writeTxctl part v)

/-- Bits 63:32, to which R320 gives no field, are taken as reserved (R7; log 77). -/
def State.writeNsctl (s : State) (p : Nat) (v : DWord) : State :=
  s.regWrite p 0 (partBlock p + 0x18) v (span 16 48) true (s.setMreg (partBlock p + 0x18) v)

/-- NSCTL_WRITE (R320). -/
def execNsctlWrite (part : Nat) (v : DWord) (s : State) : Out := .next (s.writeNsctl part v)

/-- A partition's segment in slots. -/
def segMeets (v w : DWord) : Bool :=
  segCount v != 0 && segCount w != 0 && decide (segFirst v < segFirst w + segCount w)
    && decide (segFirst w < segFirst v + segCount v)

def State.writeCarseg (s : State) (p : Nat) (v : DWord) : State :=
  let old := carSeg s p
  let ok := decide (segFirst v + segCount v ≤ carNS s) && !(parts.any fun q => q != p && segMeets v (carSeg s q))
    && decide (s.shareSum 0x28 p v 32 10 ≤ 512)
  let moved := segFirst v != segFirst old || segCount v != segCount old
  s.regWrite p 0 (partBlock p + 0x28) v (span 13 3 ||| span 30 2 ||| span 42 22) ok
    ((if moved then ((s.segmentEnds p).freeRange old).freeRange v else s).setMreg (partBlock p + 0x28) v)

/-- CARSEG_WRITE (R385). -/
def execCarsegWrite (part : Nat) (v : DWord) (s : State) : Out := .next (s.writeCarseg part v)

/-- The bit of a die's fused cluster (R3, R436, R441). -/
def fusedBit (d : Nat) : DWord := (1 : DWord) <<< (Config.fusedCluster d).val

/-- The partition's teams that wait in run queues of clusters that it has no longer go to those that it has (R356). -/
def State.leaveQueues (s : State) (p d : Nat) : State :=
  let mine (oid : Nat) : Bool := (s.image oid).any (·.team.part == p)
  let lost := s.runq.filter fun q => q.die == d && !(s.clusters p d).contains q.cluster && mine q.oid
  { s with
    runq := s.runq.filter (!lost.contains ·)
    images := modWhere (fun i => lost.any (·.oid == i.team.oid)) (fun i => { i with due := true }) s.images }

def State.writePclu (s : State) (p d : Nat) (v : DWord) : State :=
  let w := if d < 8 then v &&& ~~~fusedBit d else v
  let taken := parts.any fun q => q != p && (s.mreg (pcluReg q d)) &&& w != 0
  s.regWrite p d (pcluReg p d) v (span 24 40) (decide (p < 16) && decide (d < 8) && !taken)
    ((((s.setMreg (pcluReg p d) w).leaveQueues p d).feed).pokeAll (some p))

/-- PCLU_WRITE (R441). -/
def execPcluWrite (part die : Nat) (v : DWord) (s : State) : Out := .next (s.writePclu part die v)

/-- A confidential range's first and last 2 MiB. -/
def confMeets (v w : DWord) : Bool :=
  hasBit w 63 && decide (bitsNat v 0 21 < bitsNat w 0 21 + bitsNat w 21 21)
    && decide (bitsNat w 0 21 < bitsNat v 0 21 + bitsNat v 21 21)

/-- Bits 62:58, to which R438 gives no field, are taken as reserved (R7; log 77). -/
def State.writeConf (s : State) (p r : Nat) (v : DWord) : State :=
  let mine := match s.keyOf (v.extractLsb' 42 16) with | some (_, q) => q == p | none => false
  let meets := parts.any fun q => (List.range 16).any fun k => !(q == p && k == r) && confMeets v (s.mreg (confReg q k))
  s.regWrite p 0 (confReg p r) v (span 58 5) (decide (p < 16) && decide (r < 16) && mine && !meets) (s.setMreg (confReg p r) v)

/-- CONF_RANGE_WRITE (R438). -/
def execConfRangeWrite (part range : Nat) (v : DWord) (s : State) : Out := .next (s.writeConf part range v)

def ringOff : RingId → Nat
  | .part p => partBlock p + 0x30
  | _ => 0x48

def State.writeRing (s : State) (ring : RingId) (v : DWord) : State :=
  let n := bitsNat v 0 4
  s.regWrite (match ring with | .part p => p | _ => 0) 0 (ringOff ring) v 0 (decide (n = 0) || decide (4 ≤ n))
    ((s.setMreg (ringOff ring) v).setPosted ring 0)

/-- RING_REGISTER_WRITE (R407). -/
def execRingRegisterWrite (ring : RingId) (v : DWord) (s : State) : Out :=
  .next <| match ring with
    | .slot _ _ => s
    | _ => s.writeRing ring v

/-- PSCHED: SWT is written; SPRUE is read-only (R357). -/
def State.writePsched (s : State) (p : Nat) (v : DWord) : State :=
  s.regWrite p 0 (partBlock p) v (span 10 22 ||| span 36 28) true (s.setRw (partBlock p) v (span 0 10)).watchBlocked

/-- A bucket's RATE and DEPTH (R366); ports whose bucket is no longer empty go on. -/
def State.writeBucket (s : State) (p k : Nat) (v : DWord) : State :=
  s.regWrite p 0 (bucketReg p k) v (span 48 16) true <|
    let s1 := (s.setMreg (bucketReg p k) v).tickBucket p k
    (s1.slots.filter fun x => x.part == p && fld (s1.obj x.proc) 288 8 == k).foldl (fun s x => s.poke x.part x.slot) s1

/-! Package registers. -/

def State.writeRgnctl (s : State) (v : DWord) : State :=
  s.regWrite 0 0 0x20 v (span 7 5 ||| span 52 12)
    (bitsNat v 41 11 == 0 && decide (21 ≤ bitsNat v 1 6) && decide (bitsNat v 1 6 ≤ 52)) (s.setMreg 0x20 v)

/-- RGNCTL_WRITE (R352). -/
def execRgnctlWrite (v : DWord) (s : State) : Out := .next (s.writeRgnctl v)

def State.anySegment (s : State) : Bool := parts.any fun p => segCount (carSeg s p) != 0

def State.writeCarctl (s : State) (v : DWord) : State :=
  s.regWrite 0 0 0x10 v (span 14 2 ||| span 25 39) (decide (bitsNat v 0 14 ≤ 8192) && !s.anySegment)
    (s.setRw 0x10 v (span 0 14))

/-- CARCTL_WRITE (R384). -/
def execCarctlWrite (v : DWord) (s : State) : Out := .next (s.writeCarctl v)

/-- Sends that wait at another package's Crucible complete with UNAVAILABLE, where it cannot be reached any more; a grant's send that has been
accepted goes on to its commit (R412; log 74). -/
def State.farEnds (s : State) (gone : Nat → Bool) : State :=
  let far (q : Req) : Bool := match q.far, q.stage with
    | some (p, _), .pending _ => gone p && !s.grants.any fun g => g.req == q.id
    | _, _ => false
  (s.reqs.filter far).foldl (fun s q => s.answer q.id stUNAVAILABLE 0) s

/-- A write of FLCTL (R410): BUSY is set until the connection table has changed. -/
def State.writeFlctl (s : State) (v : DWord) : State :=
  let old := s.mreg 0x50
  let ok := !hasBit old 39 && decide (bitsNat v 0 9 ≤ 256) && !(bitsNat v 0 9 != bitsNat old 0 9 && s.anySegment)
  s.regWrite 0 0 0x50 v (span 9 7 ||| span 17 15 ||| span 40 24) ok
    (((s.setRw 0x50 v (span 0 9 ||| span 16 1)).setRw 0x50 (span 39 1) (span 39 1)).later .flaskChangeDone)

/-- FLCTL_CARQ (R410). -/
def execFlctlCarq (v : DWord) (s : State) : Out := .next (s.writeFlctl v)

/-- FLCTL_DPUP (R410). -/
def execFlctlDpup (v : DWord) (s : State) : Out := .next (s.writeFlctl v)

/-- FLASK_CHANGE_DONE (R384, R410): NCH takes the value of CARQ, the domain ports that trained are up, each that did not is
logged, and BUSY clears. -/
def execFlaskChangeDone (s : State) : Out :=
  .next <|
    let v := s.mreg 0x50
    if !hasBit v 39 then s
    else
      let n := if hasBit v 16 then min 96 (Config.portsTrained s.ctr) else 0
      let s1 := ((s.setMreg 0x50 (setBits (setBits v 39 (0 : BitVec 1)) 32 (BitVec.ofNat 7 n))).setRw 0x10
        (BitVec.ofNat 64 (bitsNat v 0 9 * 2 ^ 16)) (span 16 9))
      let s2 : State := { ((if bitsNat v 0 9 = 0 then s1.ringStops else s1).farEnds fun _ => n == 0) with ctr := s1.ctr + 1 }
      if hasBit v 16 then (List.range (96 - n)).foldl (fun s k => s.logErr 4 0 0 0x50 (n + k)) s2 else s2

/-- Armed absolute timers, and the nodes that graph runs stand at, TIME nodes that wait among them, are compared against the counter as it
now stands and runs (R312, R373, R415). -/
def State.recompare (s : State) : State :=
  let abs (t : Nat) : Bool := let r := s.obj t; objKind r == kTIMER && hasBit r 192
  let rs := s.runs.filter (!·.waits)
  let s1 : State := { s with agenda := s.agenda.filter fun e => match e.2 with
    | .timerFire t => !abs t
    | .graphTimeNode g => !rs.any fun r => r.graph == g
    | _ => true }
  let ts := s.liveObjs.filter fun o => abs o.1 && (objState o.2 == 2 || (objState o.2 == 3 && fld o.2 128 64 != 0))
  let s2 := ts.foldl (fun s o => s.post (max 1 (s.timerWait o.2)) (.timerFire o.1)) s1
  rs.foldl (fun s r => s.post 1 (.graphTimeNode r.graph)) s2

/-- An event whose time is a bound in nanoseconds or microseconds (R4). -/
def Due.inTime : Due → Bool
  | .preemptResetDeadline _ _ | .blockedSwap _ _ | .bucketTick _ _ | .slotPassage _ _ _ | .catchLapTimeout _
  | .boardLapTimeout _ | .sensorTest => true
  | _ => false

/-- The time of a cycle at the present step. -/
def State.wallOf (s : State) (c : Nat) : Nat := s.wallBase + (c - s.wallAt) * 1000000 / s.mhz

/-- The clock step changes: time goes on from where it is, and what is due at a time stays due at it, a slot's passage in the cycle
that is now its instant's (R4, R387, R437). -/
def State.setStep (s : State) (v : DWord) : State :=
  let s1 : State := ({ s with wallBase := s.wall, wallAt := s.cycle } : State).setMreg 0x28 v
  if s1.mhz = s.mhz then s1
  else
    let moved (e : Nat × Due) : Nat × Due := match e.2 with
      | .slotPassage slot die _ =>
        (if e.1 ≤ s.cycle then s.cycle else s1.cycleAt (s.passAfter (s.wallOf e.1) slot die - s.lapPs), e.2)
      | _ => if e.2.inTime then (s.cycle + ((e.1 - s.cycle) * s1.mhz + s.mhz - 1) / s.mhz, e.2) else e
    ({ s1 with agenda := s1.agenda.map moved } : State).recompare

def State.writePwrctl (s : State) (v : DWord) : State :=
  s.regWrite 0 0 0x28 v (span 2 14 ||| span 29 35) (decide (1200 ≤ bitsNat v 16 13) && decide (bitsNat v 16 13 ≤ 4800))
    (s.setStep v)

/-- PWRCTL_STEP (R436, R437). -/
def execPwrctlStep (v : DWord) (s : State) : Out := .next (s.writePwrctl v)

/-- PWRCTL_CAP (R436, R437): what the cap throttles is time (log 2). -/
def execPwrctlCap (v : DWord) (s : State) : Out := .next (s.writePwrctl v)

def State.writeDomctl (s : State) (v : DWord) : State :=
  let id := bitsNat v 0 11
  let n := bitsNat v 16 11
  s.regWrite 0 0 0x08 v (span 11 5 ||| span 27 37) (decide (n ≤ 1536) && decide (id ≤ n || id == 0)) (s.setMreg 0x08 v)

/-- DOMCTL_WRITE (R409). -/
def execDomctlWrite (v : DWord) (s : State) : Out := .next (s.writeDomctl v)

/-! Dies. -/

/-- A write of PGATE (R436, R437): a cluster that becomes gated has its teams swapped and queued again, and loses its TLB
entries.  Bits 63:24, to which R436 gives no field, are taken as reserved (R7; log 77). -/
def State.writePgate (s : State) (d : Nat) (v : DWord) : State :=
  let off := dieBlock d + 0x38
  let w := v &&& ~~~fusedBit d
  let new := w &&& ~~~s.mreg off
  s.regWrite 0 d off v (span 24 40) (decide (d < 8)) <|
    let s1 := s.setMreg off w
    let ks := s1.cores.filter fun k => k.id.die == d && hasBit new k.id.cluster
    let s2 := ks.foldl (fun s k => k.teams.foldl (fun s t => s.forceSwap k.id t .requeue) s) s1
    { s2 with l2 := s2.l2.filter fun e => !(e.1 / 24 == d && hasBit new (e.1 % 24)) }

/-- PGATE_WRITE (R437). -/
def execPgateWrite (die : Nat) (v : DWord) (s : State) : Out := .next (s.writePgate die v)

/-! Every other write (R7, R401, R416). -/

/-- A write of a port slot's window or doorbell (R360); the writes of an unmapped slot, and of a slot's other bytes, are not
performed. -/
def State.writeBar2 (s : State) (o bytes : Nat) (v : DWord) : State :=
  let p := o / 0x100000
  let k := o % 0x100000 / 0x2000
  let w := o % 0x2000
  if w = 0x1008 then s.regWrite p 0 o v (span 2 30) true s
  else
  match s.slot p k with
  | none => s
  | some x =>
    if w + bytes ≤ 0x1000 then { s with bar2 := memWrites s.bar2 (cellsAt o (bytesLE bytes v.toNat)) }
    else if w = 0x1000 ∧ bytes = 4 then
      if 63 < ((v.setWidth 32 : Word) - x.next).toNat then s.notPerformed p 0 o v
      else (s.modSlot p k fun y => { y with bell := some (v.setWidth 32), stuck := false }).poke p k
    else s

/-- The writes of a request window: the fourth word posts the request (R416). -/
def State.writeWindow (s : State) (base off : Nat) (v : DWord) (post : MgmtReq → State → State) : State :=
  let s1 := s.setMreg off v
  if off = base + 24 then
    post (s1.mreg (base + 24) ++ s1.mreg (base + 16) ++ s1.mreg (base + 8) ++ s1.mreg base) s1
  else s1

/-- A partition's shootdown window accepts only KIND 15, and supplies PART (R416). -/
def State.shootWindow (p : Nat) (r : MgmtReq) (s : State) : State :=
  let off := partBlock p + 0x8018
  if mKind r = 15 then s.shootdown (setBits r 8 (BitVec.ofNat 4 p)) off else s.notPerformed p 0 off (BitVec.ofNat 64 (postVal r))

def State.writePart (s : State) (p o : Nat) (v : DWord) : State :=
  let off := partBlock p + o
  if o = 0x0 then s.writePsched p v
  else if o = 0x8 then s.writeHeatctl p v
  else if o = 0x10 then s.writeCrshare p v
  else if o = 0x18 then s.writeNsctl p v
  else if o = 0x20 then s.writeTxctl p v
  else if o = 0x28 then s.writeCarseg p v
  else if o = 0x30 then s.writeRing (.part p) v
  else if 0x100 ≤ o ∧ o < 0x180 then s.writePclu p ((o - 0x100) / 8) v
  else if 0x200 ≤ o ∧ o < 0x300 then s.writeOid p ((o - 0x200) / 16) (o % 16 == 8) v
  else if 0x400 ≤ o ∧ o < 0x480 then s.writeConf p ((o - 0x400) / 8) v
  else if 0x1000 ≤ o ∧ o < 0x2000 then
    (if o % 16 = 0 then s.writeBucket p ((o - 0x1000) / 16) v else s.regWrite p 0 off v (span 32 32) true s)
  else if 0x2000 ≤ o ∧ o < 0x2800 then
    s.regWrite p 0 off v (if o % 16 = 0 then span 37 27 else span 32 32) true s
  else if 0x8000 ≤ o ∧ o < 0x8020 then s.writeWindow (partBlock p + 0x8000) off v (State.shootWindow p)
  else s.notPerformed p 0 off v

def State.writeDie (s : State) (d o : Nat) (v : DWord) : State :=
  let off := dieBlock d + o
  if o = 0x0 then s.setMreg off v
  else if o = 0x8 then s.regWrite 0 d off v (span 3 61) true s
  else if o = 0x38 then s.writePgate d v
  else if 0x10 ≤ o ∧ o < 0x38 then s
  else if 0x2000 ≤ o ∧ o < 0x2000 + 128 * 384 then s
  else s.notPerformed 0 d off v

def State.writePackage (s : State) (off : Nat) (v : DWord) : State :=
  if off = 0x00 then s.regWrite 0 0 off v (span 8 56) true (s.setRw off v (span 1 1))
  else if off = 0x08 then s.writeDomctl v
  else if off = 0x10 then s.writeCarctl v
  else if off = 0x18 then s.regWrite 0 0 off v (span 3 61) true (s.setMreg off (s.mreg off &&& ~~~(v &&& span 2 1)))
  else if off = 0x20 then s.writeRgnctl v
  else if off = 0x28 then s.writePwrctl v
  else if off = 0x30 ∨ off = 0x40 then s
  else if off = 0x38 then s.regWrite 0 0 off v (span 40 24) true s
  else if off = 0x48 then s.writeRing .package v
  else if off = 0x50 then s.writeFlctl v
  else if 0x100 ≤ off ∧ off < 0x120 then s.writeWindow 0x100 off v fun r s => s.request r
  else if 0x10000 ≤ off ∧ off < 0x20000 then s
  else s.notPerformed 0 0 off v

/-- A host write: BAR0's offsets, and above its 64 MiB those of BAR2 (log 25). -/
def State.hostWrite (s : State) (off bytes : Nat) (v : DWord) : State :=
  if 0x4000000 ≤ off then s.writeBar2 (off - 0x4000000) bytes v
  else if 0x1000000 ≤ off ∧ off < 0x2000000 then
    { s with staging := memWrites s.staging (cellsAt (off - 0x1000000) (bytesLE bytes v.toNat)) }
  else if 0x2000000 ≤ off ∧ off < 0x2010000 then s
  else if bytes ≠ 8 ∨ off % 8 ≠ 0 then
    s.notPerformed (if 0x100000 ≤ off ∧ off < 0x200000 then (off - 0x100000) / 0x10000 else 0)
      (if 0x300000 ≤ off ∧ off < 0x400000 then (off - 0x300000) / 0x10000 else 0) off v
  else if off < 0x100000 then s.writePackage off v
  else if off < 0x200000 then s.writePart ((off - 0x100000) / 0x10000) (off % 0x10000) v
  else if off < 0x200200 then s.setMreg off v
  else if 0x300000 ≤ off ∧ off < 0x380000 then s.writeDie ((off - 0x300000) / 0x10000) (off % 0x10000) v
  else s.notPerformed 0 0 off v

/-- REGISTER_WRITE (R7, R416). -/
def execRegisterWrite (off bytes : Nat) (v : DWord) (s : State) : Out := .next (s.hostWrite off bytes v)

/-! What the management space reads (R416). -/

/-- SLOTST (R360). -/
def State.slotst (s : State) (p k : Nat) : DWord :=
  match s.slot p k with
  | none => 0
  | some x => BitVec.ofNat 64 (1 + (if s.dry p x.proc then 2 else 0) + x.next.toNat * 2 ^ 32)

/-- The 64-bit word at an aligned offset of BAR2: a mapped slot's window, and SLOTST; a slot's other bytes read as zero, the
write-only doorbell among them (R360). -/
def State.bar2Read (s : State) (o : Nat) : DWord :=
  let p := o / 0x100000
  let k := o % 0x100000 / 0x2000
  let w := o % 0x2000
  if w = 0x1008 then s.slotst p k
  else if decide (w < 0x1000) && (s.slot p k).isSome then BitVec.ofNat 64 (memNat s.bar2 o 8)
  else 0

/-- DSTATE (R420). -/
def State.dstate (s : State) (d : Nat) : DWord :=
  if 8 ≤ d then 3 else BitVec.ofNat 64 ((s.die d).st + if (s.die d).mc then 4 else 0)

/-- A word of the error log (R417): entry `k` holds the newest write of its place, whatever ERRHEAD has wrapped to. -/
def State.errWord (s : State) (o : Nat) : DWord :=
  let n := s.errHead.toNat
  let age := (n + 4095 - o / 16 % 4096) % 4096
  match s.errs.reverse[age]? with
  | some e => e.extractLsb' (if o % 16 = 0 then 0 else 64) 64
  | none => 0

/-- PWRST (R436): THR, the input power and the input voltage, whose values are free (log 2). -/
def State.pwrst (s : State) : DWord := Config.powerStatus s.cycle &&& (span 0 8 ||| span 16 12 ||| span 32 10)

/-- The 64-bit word at an aligned offset of BAR0, and above its 64 MiB of BAR2 (log 25; R357, R402, R416, R420, R430, R436); an offset that no
block defines reads as zero. -/
def State.hostRead (s : State) (off : Nat) : DWord :=
  let o := off % 0x10000
  if 0x4000000 ≤ off then s.bar2Read (off - 0x4000000)
  else if off = 0x30 then s.pwrst
  else if off = 0x40 then s.errHead.setWidth 64
  else if 0x1000000 ≤ off ∧ off < 0x2000000 then BitVec.ofNat 64 (memNat s.staging (off - 0x1000000) 8)
  else if 0x10000 ≤ off ∧ off < 0x20000 then s.errWord (off - 0x10000)
  else if 0x100000 ≤ off ∧ off < 0x200000 then
    let p := (off - 0x100000) / 0x10000
    if o = 0 then s.mreg off ||| BitVec.ofNat 64 (((s.sprue p).getD 0) * 2 ^ 32)
    else if 0x2000 ≤ o ∧ o < 0x2800 then
      match s.slot p ((o - 0x2000) / 16) with
      | some x => x.journal.extractLsb' (if o % 16 = 0 then 0 else 64) 64
      | none => 0
    else s.mreg off
  else if 0x300000 ≤ off ∧ off < 0x400000 ∧ o = 8 then s.dstate ((off - 0x300000) / 0x10000)
  else s.mreg off

/-! Time (R414, R415). -/

/-- PTP_INPUT (R414, R415): an offset above 1 ms is stepped; a smaller one is slewed, to meet the next second's pulse where
100 ppm allow it: an offset of so many nanoseconds, by so many parts per billion. -/
def execPtpInput (sec ns : Nat) (s : State) : Out :=
  .next <|
    let t : Nat := sec % 2 ^ 48 * 1000000000 + ns % 1000000000
    let off : Int := (t : Int) - (s.ptpNanos : Int)
    let lock : DWord := if off.natAbs ≤ 50 then 1 else 0
    let st := s.mreg 0x18 &&& span 2 1
    if 1000000 < off.natAbs then
      ((({ s with ptpBase := t, ptpAt := s.wall, ptpRate := 0 } : State).setMreg 0x18 5)).recompare
    else
      ((({ s with ptpBase := s.ptpNanos, ptpAt := s.wall, ptpRate := max (-100000) (min 100000 off) } : State).setMreg 0x18
        (st ||| lock))).recompare

/-- PTP_INPUT_LOSS (R415): holdover at the last rate. -/
def execPtpInputLoss (s : State) : Out := .next (s.setMreg 0x18 ((s.mreg 0x18 &&& span 2 1) ||| 2))

/-! Other packages (R412), and the host link (R406). -/

/-- REMOTE_UNREACHABLE (R412): it is logged, and kernel requests to the package complete with UNAVAILABLE. -/
def execRemoteUnreachable (pkg : Nat) (s : State) : Out :=
  .next <|
    if pkg = 0 ∨ pkg = s.pkgId then s
    else
      (({ s with unreachable := s.unreachable.filter (· != pkg) ++ [pkg] } : State).logErr 4 0 0 0 pkg).farEnds (· == pkg)

/-- PACKAGE_REACHABLE (R412): what waits goes on. -/
def execPackageReachable (pkg : Nat) (s : State) : Out :=
  .next { s with unreachable := s.unreachable.filter (· != pkg) }

/-- LINK_FAILURE (R406): records that are written stay uncounted. -/
def execLinkFailure (s : State) : Out := .next { s with linkDown := true }

/-- LINK_RETURN (R406): a record that was not counted is written again, to the same slot. -/
def execLinkReturn (s : State) : Out :=
  .next { s with linkDown := false, records := s.records.map fun r => { r with written := false } }

/-! Keys and attestation (R438, R440). -/

/-- The lowest slot of the key table that holds no key, with its generation. -/
def State.freeKey (s : State) : Option (Nat × BitVec 8) :=
  (List.range 256).findSome? fun k =>
    match s.keys.find? (·.slot == k) with
    | none => some (k, 0)
    | some x => if x.key.isNone then some (k, x.gen) else none

/-- KEY_IMPORT (R438): the handle is returned through the mailbox; a full table returns none. -/
def execKeyImport (part : Nat) (blob : List Byte) (s : State) : Out :=
  .next <|
    match s.freeKey with
    | none => { s with mail := s.mail ++ [[]] }
    | some (k, g) =>
      { s with
        keys := putWhere (·.slot == k) ⟨k, g, some (Config.decapsulate blob, part)⟩ s.keys
        mail := s.mail ++ [[BitVec.ofNat 8 k, g]] }

/-- KEY_DESTROY (R438): with a MAC that verifies, the key goes and its slot has the next generation. -/
def execKeyDestroy (handle : BitVec 16) (mac : List Byte) (s : State) : Out :=
  .next <|
    match s.keyOf handle with
    | none => s
    | some (k, _) =>
      if Config.destroyMacOk k mac then
        { s with keys := s.keys.map fun x =>
            if x.slot == bitsNat handle 0 8 then { x with gen := x.gen + 1, key := none } else x }
      else s

/-- What a report signs (R440): the nonce, the hash of the pattern store as bring-up measured it, VER and hash of every armed patch set,
the hashes of the Cupola image and of the partition's configuration, and the ML-KEM public key, in that order (log 24). -/
def State.attested (s : State) (part : Nat) (nonce : List Byte) : List Byte :=
  let hash (h : BitVec 256) : List Byte := bytesBE 32 h.toNat
  let block (o : Nat) : Bool := decide (partBlock part ≤ o) && decide (o < partBlock part + 0x10000)
  nonce ++ hash (s.measured.getD 0) ++ (s.patchSets.flatMap fun p => bytesLE 4 p.ver.toNat ++ hash p.hash)
    ++ hash (Config.cupolaHash s.attIndex) ++ hash (Config.configHash part (s.mgmt.filter fun q => block q.1)) ++ Config.mlkemKey

/-- ATTESTATION_REPORT (R440): each report uses the next index; with none left it completes with status 21 EXHAUSTED. -/
def execAttestationReport (part : Nat) (nonce : List Byte) (s : State) : Out :=
  .next <|
    if 2 ^ 30 ≤ s.attIndex then { s with mail := s.mail ++ [[21]] }
    else { s with attIndex := s.attIndex + 1, mail := s.mail ++ [Config.attestReport s.attIndex (s.attested part nonce)] }

end Sys2Proof.Machine
end

