-- ==== Sys2Proof/Machine/Dispatch.lean ====
section
/-! DEFINITION. One arm per instruction and event. -/

namespace Sys2Proof.Machine

def exec (i : Instr) (s : State) : Host.Outcome State Fault Refusal :=
  match i with
  | .iadd f => Sys2Proof.Machine.execIadd f s
  | .iaddImm f => Sys2Proof.Machine.execIaddImm f s
  | .isub f => Sys2Proof.Machine.execIsub f s
  | .isubImm f => Sys2Proof.Machine.execIsubImm f s
  | .iadd3 f => Sys2Proof.Machine.execIadd3 f s
  | .iaddc f => Sys2Proof.Machine.execIaddc f s
  | .imul f => Sys2Proof.Machine.execImul f s
  | .imulImm f => Sys2Proof.Machine.execImulImm f s
  | .imulh f => Sys2Proof.Machine.execImulh f s
  | .imulhImm f => Sys2Proof.Machine.execImulhImm f s
  | .imad f => Sys2Proof.Machine.execImad f s
  | .imadw f => Sys2Proof.Machine.execImadw f s
  | .imin f => Sys2Proof.Machine.execImin f s
  | .iminImm f => Sys2Proof.Machine.execIminImm f s
  | .imax f => Sys2Proof.Machine.execImax f s
  | .imaxImm f => Sys2Proof.Machine.execImaxImm f s
  | .iabs f => Sys2Proof.Machine.execIabs f s
  | .ineg f => Sys2Proof.Machine.execIneg f s
  | .icmp f => Sys2Proof.Machine.execIcmp f s
  | .icmpImm cc f => Sys2Proof.Machine.execIcmpImm cc f s
  | .isel f => Sys2Proof.Machine.execIsel f s
  | .lea f => Sys2Proof.Machine.execLea f s
  | .leaImm f => Sys2Proof.Machine.execLeaImm f s
  | .clamp f => Sys2Proof.Machine.execClamp f s
  | .and f => Sys2Proof.Machine.execAnd f s
  | .andImm f => Sys2Proof.Machine.execAndImm f s
  | .or f => Sys2Proof.Machine.execOr f s
  | .orImm f => Sys2Proof.Machine.execOrImm f s
  | .xor f => Sys2Proof.Machine.execXor f s
  | .xorImm f => Sys2Proof.Machine.execXorImm f s
  | .andn f => Sys2Proof.Machine.execAndn f s
  | .andnImm f => Sys2Proof.Machine.execAndnImm f s
  | .orn f => Sys2Proof.Machine.execOrn f s
  | .ornImm f => Sys2Proof.Machine.execOrnImm f s
  | .shl f => Sys2Proof.Machine.execShl f s
  | .shlImm f => Sys2Proof.Machine.execShlImm f s
  | .shr f => Sys2Proof.Machine.execShr f s
  | .shrImm f => Sys2Proof.Machine.execShrImm f s
  | .sar f => Sys2Proof.Machine.execSar f s
  | .sarImm f => Sys2Proof.Machine.execSarImm f s
  | .rol f => Sys2Proof.Machine.execRol f s
  | .rolImm f => Sys2Proof.Machine.execRolImm f s
  | .fsh f => Sys2Proof.Machine.execFsh f s
  | .bfx f => Sys2Proof.Machine.execBfx f s
  | .bfxImm f => Sys2Proof.Machine.execBfxImm f s
  | .bfi f => Sys2Proof.Machine.execBfi f s
  | .popc f => Sys2Proof.Machine.execPopc f s
  | .clz f => Sys2Proof.Machine.execClz f s
  | .ctz f => Sys2Proof.Machine.execCtz f s
  | .brev f => Sys2Proof.Machine.execBrev f s
  | .perm f => Sys2Proof.Machine.execPerm f s
  | .mov f => Sys2Proof.Machine.execMov f s
  | .movi f => Sys2Proof.Machine.execMovi f s
  | .pand f => Sys2Proof.Machine.execPand f s
  | .por f => Sys2Proof.Machine.execPor f s
  | .pxor f => Sys2Proof.Machine.execPxor f s
  | .pnot f => Sys2Proof.Machine.execPnot f s
  | .pset f => Sys2Proof.Machine.execPset f s
  | .fadd f => Sys2Proof.Machine.execFadd f s
  | .faddImm f => Sys2Proof.Machine.execFaddImm f s
  | .fsub f => Sys2Proof.Machine.execFsub f s
  | .fsubImm f => Sys2Proof.Machine.execFsubImm f s
  | .fmul f => Sys2Proof.Machine.execFmul f s
  | .fmulImm f => Sys2Proof.Machine.execFmulImm f s
  | .ffma f => Sys2Proof.Machine.execFfma f s
  | .fmin f => Sys2Proof.Machine.execFmin f s
  | .fminImm f => Sys2Proof.Machine.execFminImm f s
  | .fmax f => Sys2Proof.Machine.execFmax f s
  | .fmaxImm f => Sys2Proof.Machine.execFmaxImm f s
  | .fminn f => Sys2Proof.Machine.execFminn f s
  | .fminnImm f => Sys2Proof.Machine.execFminnImm f s
  | .fmaxn f => Sys2Proof.Machine.execFmaxn f s
  | .fmaxnImm f => Sys2Proof.Machine.execFmaxnImm f s
  | .fcmp f => Sys2Proof.Machine.execFcmp f s
  | .fcmpImm cc f => Sys2Proof.Machine.execFcmpImm cc f s
  | .fclass f => Sys2Proof.Machine.execFclass f s
  | .frcp f => Sys2Proof.Machine.execFrcp f s
  | .frsq f => Sys2Proof.Machine.execFrsq f s
  | .fsqrt f => Sys2Proof.Machine.execFsqrt f s
  | .fexp2 f => Sys2Proof.Machine.execFexp2 f s
  | .flog2 f => Sys2Proof.Machine.execFlog2 f s
  | .fsin f => Sys2Proof.Machine.execFsin f s
  | .fcos f => Sys2Proof.Machine.execFcos f s
  | .ftanh f => Sys2Proof.Machine.execFtanh f s
  | .frnd f => Sys2Proof.Machine.execFrnd f s
  | .ffrc f => Sys2Proof.Machine.execFfrc f s
  | .fldexp f => Sys2Proof.Machine.execFldexp f s
  | .fldexpImm f => Sys2Proof.Machine.execFldexpImm f s
  | .fgetexp f => Sys2Proof.Machine.execFgetexp f s
  | .hadd2 f => Sys2Proof.Machine.execHadd2 f s
  | .hmul2 f => Sys2Proof.Machine.execHmul2 f s
  | .hfma2 f => Sys2Proof.Machine.execHfma2 f s
  | .hmin2 f => Sys2Proof.Machine.execHmin2 f s
  | .hmax2 f => Sys2Proof.Machine.execHmax2 f s
  | .fdot2 f => Sys2Proof.Machine.execFdot2 f s
  | .fdot4 f => Sys2Proof.Machine.execFdot4 f s
  | .idot4 f => Sys2Proof.Machine.execIdot4 f s
  | .cvt f => Sys2Proof.Machine.execCvt f s
  | .cvtpk f => Sys2Proof.Machine.execCvtpk f s
  | .bxpack f => Sys2Proof.Machine.execBxpack f s
  | .bxunpk f => Sys2Proof.Machine.execBxunpk f s
  | .shfl f => Sys2Proof.Machine.execShfl f s
  | .vote f => Sys2Proof.Machine.execVote f s
  | .redw f => Sys2Proof.Machine.execRedw f s
  | .scanw f => Sys2Proof.Machine.execScanw f s
  | .matchw f => Sys2Proof.Machine.execMatchw f s
  | .sadd f => Sys2Proof.Machine.execSadd f s
  | .saddImm f => Sys2Proof.Machine.execSaddImm f s
  | .ssub f => Sys2Proof.Machine.execSsub f s
  | .ssubImm f => Sys2Proof.Machine.execSsubImm f s
  | .smul f => Sys2Proof.Machine.execSmul f s
  | .smulImm f => Sys2Proof.Machine.execSmulImm f s
  | .smad f => Sys2Proof.Machine.execSmad f s
  | .sand f => Sys2Proof.Machine.execSand f s
  | .sandImm f => Sys2Proof.Machine.execSandImm f s
  | .sor f => Sys2Proof.Machine.execSor f s
  | .sorImm f => Sys2Proof.Machine.execSorImm f s
  | .sxor f => Sys2Proof.Machine.execSxor f s
  | .sxorImm f => Sys2Proof.Machine.execSxorImm f s
  | .sshl f => Sys2Proof.Machine.execSshl f s
  | .sshlImm f => Sys2Proof.Machine.execSshlImm f s
  | .sshr f => Sys2Proof.Machine.execSshr f s
  | .sshrImm f => Sys2Proof.Machine.execSshrImm f s
  | .ssar f => Sys2Proof.Machine.execSsar f s
  | .ssarImm f => Sys2Proof.Machine.execSsarImm f s
  | .smin f => Sys2Proof.Machine.execSmin f s
  | .sminImm f => Sys2Proof.Machine.execSminImm f s
  | .smax f => Sys2Proof.Machine.execSmax f s
  | .smaxImm f => Sys2Proof.Machine.execSmaxImm f s
  | .scmp f => Sys2Proof.Machine.execScmp f s
  | .scmpImm cc f => Sys2Proof.Machine.execScmpImm cc f s
  | .ssel f => Sys2Proof.Machine.execSsel f s
  | .smov f => Sys2Proof.Machine.execSmov f s
  | .smovi f => Sys2Proof.Machine.execSmovi f s
  | .sbfx f => Sys2Proof.Machine.execSbfx f s
  | .sbfxImm f => Sys2Proof.Machine.execSbfxImm f s
  | .spopc f => Sys2Proof.Machine.execSpopc f s
  | .sfirst f => Sys2Proof.Machine.execSfirst f s
  | .srd f => Sys2Proof.Machine.execSrd f s
  | .swr f => Sys2Proof.Machine.execSwr f s
  | .ldb f => Sys2Proof.Machine.execLdb f s
  | .stb f => Sys2Proof.Machine.execStb f s
  | .atb f => Sys2Proof.Machine.execAtb f s
  | .redb f => Sys2Proof.Machine.execRedb f s
  | .lds f => Sys2Proof.Machine.execLds f s
  | .sts f => Sys2Proof.Machine.execSts f s
  | .ats f => Sys2Proof.Machine.execAts f s
  | .ldc f => Sys2Proof.Machine.execLdc f s
  | .pref f => Sys2Proof.Machine.execPref f s
  | .cinv f => Sys2Proof.Machine.execCinv f s
  | .cwb f => Sys2Proof.Machine.execCwb f s
  | .tcopy f => Sys2Proof.Machine.execTcopy f s
  | .tstore f => Sys2Proof.Machine.execTstore f s
  | .tred f => Sys2Proof.Machine.execTred f s
  | .bcopy f => Sys2Proof.Machine.execBcopy f s
  | .gathr f => Sys2Proof.Machine.execGathr f s
  | .dcopy f => Sys2Proof.Machine.execDcopy f s
  | .acopy f => Sys2Proof.Machine.execAcopy f s
  | .rfence f => Sys2Proof.Machine.execRfence f s
  | .wait f => Sys2Proof.Machine.execWait f s
  | .twait f => Sys2Proof.Machine.execTwait f s
  | .tfind f => Sys2Proof.Machine.execTfind f s
  | .fence f => Sys2Proof.Machine.execFence f s
  | .barinit f => Sys2Proof.Machine.execBarinit f s
  | .bara f => Sys2Proof.Machine.execBara f s
  | .barx f => Sys2Proof.Machine.execBarx f s
  | .barw f => Sys2Proof.Machine.execBarw f s
  | .bart f => Sys2Proof.Machine.execBart f s
  | .mma f => Sys2Proof.Machine.execMma f s
  | .mzero f => Sys2Proof.Machine.execMzero f s
  | .mload f => Sys2Proof.Machine.execMload f s
  | .mdrain f => Sys2Proof.Machine.execMdrain f s
  | .mbarw f => Sys2Proof.Machine.execMbarw f s
  | .mbara f => Sys2Proof.Machine.execMbara f s
  | .mloop f => Sys2Proof.Machine.execMloop f s
  | .mjmp f => Sys2Proof.Machine.execMjmp f s
  | .maddi f => Sys2Proof.Machine.execMaddi f s
  | .mend f => Sys2Proof.Machine.execMend f s
  | .mnop f => Sys2Proof.Machine.execMnop f s
  | .nop f => Sys2Proof.Machine.execNop f s
  | .bra f => Sys2Proof.Machine.execBra f s
  | .brx f => Sys2Proof.Machine.execBrx f s
  | .call f => Sys2Proof.Machine.execCall f s
  | .ret f => Sys2Proof.Machine.execRet f s
  | .rcv f => Sys2Proof.Machine.execRcv f s
  | .exit f => Sys2Proof.Machine.execExit f s
  | .yield f => Sys2Proof.Machine.execYield f s
  | .trap f => Sys2Proof.Machine.execTrap f s
  | .bkpt f => Sys2Proof.Machine.execBkpt f s
  | .mstart f => Sys2Proof.Machine.execMstart f s
  | .migr f => Sys2Proof.Machine.execMigr f s
  | .tret f => Sys2Proof.Machine.execTret f s
  | .heatc f => Sys2Proof.Machine.execHeatc f s
  | .perfr f => Sys2Proof.Machine.execPerfr f s
  | .kwave f => Sys2Proof.Machine.execKwave f s
  | .ksend f => Sys2Proof.Machine.execKsend f s
  | .krecv f => Sys2Proof.Machine.execKrecv f s
  | .kwait f => Sys2Proof.Machine.execKwait f s
  | .karm f => Sys2Proof.Machine.execKarm f s
  | .kcancel f => Sys2Proof.Machine.execKcancel f s
  | .kbind f => Sys2Proof.Machine.execKbind f s
  | .kunbind f => Sys2Proof.Machine.execKunbind f s
  | .klook f => Sys2Proof.Machine.execKlook f s
  | .kname f => Sys2Proof.Machine.execKname f s
  | .kdup f => Sys2Proof.Machine.execKdup f s
  | .kdrop f => Sys2Proof.Machine.execKdrop f s
  | .kinfo f => Sys2Proof.Machine.execKinfo f s
  | .knext f => Sys2Proof.Machine.execKnext f s
  | .board f => Sys2Proof.Machine.execBoard f s
  | .alight f => Sys2Proof.Machine.execAlight f s
  | .catchTile f => Sys2Proof.Machine.execCatchTile f s
  | .cwrite f => Sys2Proof.Machine.execCwrite f s
  | .clauseEntry w => Sys2Proof.Machine.execClauseEntry w s
  | .spinDemotionExpiry w tid => Sys2Proof.Machine.execSpinDemotionExpiry w tid s
  | .fairnessTimeout w => Sys2Proof.Machine.execFairnessTimeout w s
  | .scratchpadBankServe c bank => Sys2Proof.Machine.execScratchpadBankServe c bank s
  | .loadResult w op => Sys2Proof.Machine.execLoadResult w op s
  | .translationWalkDone c proc va => Sys2Proof.Machine.execTranslationWalkDone c proc va s
  | .faultReply team key deny mask => Sys2Proof.Machine.execFaultReply team key deny mask s
  | .copyLand c team copy => Sys2Proof.Machine.execCopyLand c team copy s
  | .dcopyFlagAdd c team copy => Sys2Proof.Machine.execDcopyFlagAdd c team copy s
  | .engineWordComplete c team => Sys2Proof.Machine.execEngineWordComplete c team s
  | .streamFetch c team => Sys2Proof.Machine.execStreamFetch c team s
  | .mstreamTrapTake c team => Sys2Proof.Machine.execMstreamTrapTake c team s
  | .heatCloseTimeout c => Sys2Proof.Machine.execHeatCloseTimeout c s
  | .heatCloseLog c => Sys2Proof.Machine.execHeatCloseLog c s
  | .heatSet c => Sys2Proof.Machine.execHeatSet c s
  | .holdbackDepart c => Sys2Proof.Machine.execHoldbackDepart c s
  | .strikeReport cores => Sys2Proof.Machine.execStrikeReport cores s
  | .rollbackComplete c => Sys2Proof.Machine.execRollbackComplete c s
  | .strikeReportUnit die u retries beyond => Sys2Proof.Machine.execStrikeReportUnit die u retries beyond s
  | .teamAdmit c team => Sys2Proof.Machine.execTeamAdmit c team s
  | .teamRetire c team => Sys2Proof.Machine.execTeamRetire c team s
  | .swapOut c team => Sys2Proof.Machine.execSwapOut c team s
  | .blockedSwap c team => Sys2Proof.Machine.execBlockedSwap c team s
  | .migrShip c team => Sys2Proof.Machine.execMigrShip c team s
  | .migrArrival team => Sys2Proof.Machine.execMigrArrival team s
  | .crucibleServe die => Sys2Proof.Machine.execCrucibleServe die s
  | .requestResend c => Sys2Proof.Machine.execRequestResend c s
  | .crucibleFrame die => Sys2Proof.Machine.execCrucibleFrame die s
  | .kernelResultDelivery id => Sys2Proof.Machine.execKernelResultDelivery id s
  | .knextServe id => Sys2Proof.Machine.execKnextServe id s
  | .kwaitDeadline wset => Sys2Proof.Machine.execKwaitDeadline wset s
  | .timerFire timer => Sys2Proof.Machine.execTimerFire timer s
  | .directoryInsert x => Sys2Proof.Machine.execDirectoryInsert x s
  | .nameLookup id => Sys2Proof.Machine.execNameLookup id s
  | .farPortSend x => Sys2Proof.Machine.execFarPortSend x s
  | .grantPteUpdate id => Sys2Proof.Machine.execGrantPteUpdate id s
  | .shootdownAck c id => Sys2Proof.Machine.execShootdownAck c id s
  | .grantCommit id => Sys2Proof.Machine.execGrantCommit id s
  | .regionTransferDone host region => Sys2Proof.Machine.execRegionTransferDone host region s
  | .launch part slot => Sys2Proof.Machine.execLaunch part slot s
  | .rungraph part slot => Sys2Proof.Machine.execRungraph part slot s
  | .fenceMessage part slot => Sys2Proof.Machine.execFenceMessage part slot s
  | .ordStart part slot => Sys2Proof.Machine.execOrdStart part slot s
  | .runnerRangeReport launch die => Sys2Proof.Machine.execRunnerRangeReport launch die s
  | .completionPost ring => Sys2Proof.Machine.execCompletionPost ring s
  | .graphTimeNode graph => Sys2Proof.Machine.execGraphTimeNode graph s
  | .bucketTick part bucket => Sys2Proof.Machine.execBucketTick part bucket s
  | .doorbell part slot value => Sys2Proof.Machine.execDoorbell part slot value s
  | .preset req => Sys2Proof.Machine.execPreset req s
  | .dcreset req => Sys2Proof.Machine.execDcreset req s
  | .drestart req => Sys2Proof.Machine.execDrestart req s
  | .ddown req => Sys2Proof.Machine.execDdown req s
  | .ddownProceed die => Sys2Proof.Machine.execDdownProceed die s
  | .pkreset req => Sys2Proof.Machine.execPkreset req s
  | .patch req => Sys2Proof.Machine.execPatch req s
  | .preempt req => Sys2Proof.Machine.execPreempt req s
  | .preemptDrainDeadline part proc => Sys2Proof.Machine.execPreemptDrainDeadline part proc s
  | .preemptResetDeadline part proc => Sys2Proof.Machine.execPreemptResetDeadline part proc s
  | .resume req => Sys2Proof.Machine.execResume req s
  | .create req => Sys2Proof.Machine.execCreate req s
  | .portmap req => Sys2Proof.Machine.execPortmap req s
  | .portunmap req => Sys2Proof.Machine.execPortunmap req s
  | .xferdone req => Sys2Proof.Machine.execXferdone req s
  | .xferhost req => Sys2Proof.Machine.execXferhost req s
  | .ctxreset req => Sys2Proof.Machine.execCtxreset req s
  | .shootdown req => Sys2Proof.Machine.execShootdown req s
  | .oidRangeWrite part die hi v => Sys2Proof.Machine.execOidRangeWrite part die hi v s
  | .crshareWrite part v => Sys2Proof.Machine.execCrshareWrite part v s
  | .heatctlWrite part v => Sys2Proof.Machine.execHeatctlWrite part v s
  | .txctlWrite part v => Sys2Proof.Machine.execTxctlWrite part v s
  | .nsctlWrite part v => Sys2Proof.Machine.execNsctlWrite part v s
  | .rgnctlWrite v => Sys2Proof.Machine.execRgnctlWrite v s
  | .carctlWrite v => Sys2Proof.Machine.execCarctlWrite v s
  | .carsegWrite part v => Sys2Proof.Machine.execCarsegWrite part v s
  | .flctlCarq v => Sys2Proof.Machine.execFlctlCarq v s
  | .flctlDpup v => Sys2Proof.Machine.execFlctlDpup v s
  | .flaskChangeDone => Sys2Proof.Machine.execFlaskChangeDone s
  | .pcluWrite part die v => Sys2Proof.Machine.execPcluWrite part die v s
  | .pgateWrite die v => Sys2Proof.Machine.execPgateWrite die v s
  | .pwrctlStep v => Sys2Proof.Machine.execPwrctlStep v s
  | .pwrctlCap v => Sys2Proof.Machine.execPwrctlCap v s
  | .domctlWrite v => Sys2Proof.Machine.execDomctlWrite v s
  | .ringRegisterWrite ring v => Sys2Proof.Machine.execRingRegisterWrite ring v s
  | .confRangeWrite part range v => Sys2Proof.Machine.execConfRangeWrite part range v s
  | .registerWrite off bytes v => Sys2Proof.Machine.execRegisterWrite off bytes v s
  | .carouselIndexAccept id => Sys2Proof.Machine.execCarouselIndexAccept id s
  | .slotPassage slot die strike => Sys2Proof.Machine.execSlotPassage slot die strike s
  | .catchRegister id => Sys2Proof.Machine.execCatchRegister id s
  | .catchLapTimeout id => Sys2Proof.Machine.execCatchLapTimeout id s
  | .boardLapTimeout id => Sys2Proof.Machine.execBoardLapTimeout id s
  | .ptpInput sec ns => Sys2Proof.Machine.execPtpInput sec ns s
  | .remoteUnreachable pkg => Sys2Proof.Machine.execRemoteUnreachable pkg s
  | .linkReturn => Sys2Proof.Machine.execLinkReturn s
  | .patternWatchdog die => Sys2Proof.Machine.execPatternWatchdog die s
  | .resetRelease => Sys2Proof.Machine.execResetRelease s
  | .sensorSelftest failed => Sys2Proof.Machine.execSensorSelftest failed s
  | .powerInputFault => Sys2Proof.Machine.execPowerInputFault s
  | .functionLevelReset => Sys2Proof.Machine.execFunctionLevelReset s
  | .keyImport part blob => Sys2Proof.Machine.execKeyImport part blob s
  | .keyDestroy handle mac => Sys2Proof.Machine.execKeyDestroy handle mac s
  | .attestationReport part nonce => Sys2Proof.Machine.execAttestationReport part nonce s
  | .storePerformed w op => Sys2Proof.Machine.execStorePerformed w op s
  | .hostMemoryAccess a => Sys2Proof.Machine.execHostMemoryAccess a s
  | .packageReachable pkg => Sys2Proof.Machine.execPackageReachable pkg s
  | .ptpInputLoss => Sys2Proof.Machine.execPtpInputLoss s
  | .linkFailure => Sys2Proof.Machine.execLinkFailure s

end Sys2Proof.Machine
end

