-- ==== Sys2Proof/Machine/Caches.lean ====
section
/-! DEFINITION. What a core, its cluster and its die cache changes by itself, at free times and by free choices: an entry may leave a
cache at any time, and a line of a cached shape record may be read again (spec/03 R34, spec/12 R216, spec/18 R296, spec/20 R346; log 20). -/

namespace Sys2Proof.Machine

/-- A cached shape record of which the lines that `m` marks are as memory holds them now (R216). -/
def State.reread (s : State) (k : Core) (m : Nat) (e : RecEnt) : RecEnt :=
  let line (i : Nat) : Nat := bitsNat e.rcd (512 * i) 512
  let now (i : Nat) : Nat :=
    match e.keys[i]? with
    | some a =>
      if m.testBit i && !s.deviceWaits a then natLE ((List.range 64).map fun j => s.coreRead k e.part (a + j)) else line i
    | none => line i
  { e with rcd := BitVec.ofNat 1536 (now 0 + now 1 * 2 ^ 512 + now 2 * 2 ^ 1024) }

/-- Nothing that a core keeps could change by itself. -/
def Core.cachesNothing (k : Core) : Bool := k.tlb.isEmpty && k.rcache.isEmpty && k.l1.isEmpty && k.code.isEmpty

/-- Some entries leave the core's TLB, its record cache, its L1, where no line that is pinned leaves (R280), and the code that it has
fetched; lines of records that are left are read again. -/
def State.ageCore (s : State) (k : Core) : Core :=
  let m (i : Nat) : Nat := Config.freeSubset (s.ctr + i)
  { k with
    tlb := dropBits (m 0) k.tlb
    rcache := (dropBits (m 1) k.rcache).mapIdx fun i e => s.reread k (m 2 / 8 ^ i) e
    l1 := k.l1.filter fun l => k.pinned.contains l || !(m 3).testBit l
    code := dropBits (m 4) k.code }

/-- What the core `c`, its cluster and its die's Crucible cache ages; it does so again at a free time, while there is something to age. -/
def State.cacheAge (s : State) (c : CoreId) : State :=
  let k := s.core c
  let m (i : Nat) : Nat := Config.freeSubset (s.ctr + i)
  let own (cl : Nat) : Bool := cl == clusterOf c
  let s1 : State := { s.setCore (s.ageCore k) with
    ctr := s.ctr + 8
    objs := s.objs.filter fun o => objHome o.1 != c.die || s.dirty.contains o.1 || !(m 7).testBit o.1
    l2 := s.l2.filter (!own ·.1) ++ dropBits (m 5) (s.l2.filter (own ·.1))
    l2c := s.l2c.filter (!own ·.1) ++ dropBits (m 6) (s.l2c.filter (own ·.1)) }
  if k.cachesNothing then s1 else s1.ages c

end Sys2Proof.Machine
end

