-- ==== Sys2Proof/Machine/Agenda.lean ====
section
/-! DEFINITION. The events that the machine has scheduled, as the meanings of the events of the same names, and what a step
keeps watch of (spec/17 R282; spec/21 R374). -/

namespace Sys2Proof.Machine

/-- A scheduled event takes place (log 23). -/
def runDue (d : Due) (s : State) : Out :=
  match d with
  | .spinDemotionExpiry w tid => execSpinDemotionExpiry w tid s
  | .scratchpadBankServe c bank => execScratchpadBankServe c bank s
  | .loadResult w op => execLoadResult w op s
  | .storePerformed w op => execStorePerformed w op s
  | .copyLand c team copy => execCopyLand c team copy s
  | .copyMove c team copy => .next (s.copyMove c team copy)
  | .cacheAge c => .next (s.cacheAge c)
  | .dcopyFlagAdd c team copy => execDcopyFlagAdd c team copy s
  | .engineWordComplete c team => execEngineWordComplete c team s
  | .streamFetch c team => execStreamFetch c team s
  | .mstreamTrapTake c team => execMstreamTrapTake c team s
  | .heatCloseTimeout c => execHeatCloseTimeout c s
  | .heatCloseLog c => execHeatCloseLog c s
  | .heatSet c => execHeatSet c s
  | .holdbackDepart c => execHoldbackDepart c s
  | .rollbackComplete c => execRollbackComplete c s
  | .teamAdmit c team => execTeamAdmit c team s
  | .teamRetire c team => execTeamRetire c team s
  | .swapOut c team => execSwapOut c team s
  | .blockedSwap c team => execBlockedSwap c team s
  | .migrShip c team => execMigrShip c team s
  | .migrArrival team => execMigrArrival team s
  | .crucibleServe die => execCrucibleServe die s
  | .requestResend c => execRequestResend c s
  | .crucibleFrame die => execCrucibleFrame die s
  | .kernelResultDelivery id => execKernelResultDelivery id s
  | .knextServe id => execKnextServe id s
  | .kwaitDeadline wset => execKwaitDeadline wset s
  | .timerFire timer => execTimerFire timer s
  | .directoryInsert id => execDirectoryInsert (.own id) s
  | .nameLookup id => execNameLookup id s
  | .grantPteUpdate id => execGrantPteUpdate id s
  | .shootdownAck c id => execShootdownAck c id s
  | .grantCommit id => execGrantCommit id s
  | .regionTransferDone host region => execRegionTransferDone host region s
  | .launch part slot => execLaunch part slot s
  | .rungraph part slot => execRungraph part slot s
  | .fenceMessage part slot => execFenceMessage part slot s
  | .ordStart part slot => execOrdStart part slot s
  | .runnerRangeReport launch die => execRunnerRangeReport launch die s
  | .completionPost ring => execCompletionPost ring s
  | .graphTimeNode graph => execGraphTimeNode graph s
  | .bucketTick part bucket => execBucketTick part bucket s
  | .dcresetGoesOn die => .next (s.dcresetGoesOn die)
  | .drestartGoesOn die => .next (s.drestartGoesOn die)
  | .pcbStep part slot => .next (s.pcbStep part slot)
  | .requestServe part => .next (s.requestServe part)
  | .sensorTest => .next s.sensorTest
  | .recordBack id => .next (s.recordBack id)
  | .tableEdit unmap part x => .next (s.tableEdit unmap part x)
  | .farGrant id => .next (s.farAnswered id .ok)
  | .ddownProceed die => execDdownProceed die s
  | .preemptDrainDeadline part proc => execPreemptDrainDeadline part proc s
  | .preemptResetDeadline part proc => execPreemptResetDeadline part proc s
  | .flaskChangeDone => execFlaskChangeDone s
  | .carouselIndexAccept id => execCarouselIndexAccept id s
  | .catchRegister id => execCatchRegister id s
  | .catchLapTimeout id => execCatchLapTimeout id s
  | .boardLapTimeout id => execBoardLapTimeout id s
  | .slotPassage slot die strike => execSlotPassage slot die strike s
  | .resetRelease => execResetRelease s
  | .faultReply team key deny mask => execFaultReply team key deny mask s

/-! Watch. -/

/-- The team is blocked (R374): every wave that has not ended waits for KC alone, in a WAIT or at a header, and a KWAIT is
outstanding. -/
def State.blockedNow (s : State) (c : CoreId) (t : Team) : Bool :=
  t.waves.any (!·.ended) && t.waves.all (fun w => w.ended || w.kcWait || s.headerKc ⟨c, t.oid, w.wid⟩) && s.kwaiting t.oid

/-- A team that becomes blocked, or no longer is. -/
def State.watchTeam (s : State) (k : Core) (t : Team) : Option State :=
  let b := s.blockedNow k.id t
  if t.leave.isSome || b == t.blocked.isSome then none
  else if b then
    let swt := bitsNat (s.mreg (partBlock t.part)) 0 10
    let s1 := s.modTeam k.id t.oid fun u => { u with blocked := some s.wall }
    some (if swt = 0 then s1 else s1.post (s.cyclesIn (micros swt)) (.blockedSwap k.id t.oid))
  else some (s.modTeam k.id t.oid fun u => { u with blocked := none })

/-- A core whose undo log has reached 2,304 entries (R282), unless its close is on the agenda. -/
def State.watchLog (s : State) (k : Core) : Option State :=
  if decide (2304 ≤ Ctx.heatLoad k.cur + Ctx.heatLoad k.old) && k.rollback.isNone && !k.closeReq && k.cur.isSome
      && !s.agenda.any fun e => e.2 == .heatCloseLog k.id then
    some (s.post 0 (.heatCloseLog k.id))
  else none

/-- The access still waits to be performed: a wave's while a thread that is neither parked nor exited stands at its word. -/
def State.asks (s : State) : Asker → Bool
  | .wave w pc => match (s.core w.core).team w.team with
    | some t => (match t.wave w.wid with | some v => !v.ended && v.threads.any fun t => t.eligible && t.pc == pc | none => false)
    | none => false
  | .held c r => match (s.core c).held with | h :: _ => h.ref == r | [] => false
  | .event d => s.agenda.any (·.2 == d)

/-- The first access of a transfer that has been performed, or is gone, is followed by the next; with the last, the transfer is
over (R353, R354). -/
def State.watchXfer (s : State) : Option State :=
  (s.xfers.find? fun x => x.owed && !(x.askers.head?.map s.asks).getD false).map fun x =>
    if x.askers.length ≤ 1 then s.xferOver x
    else { s with xfers := s.xfers.map fun y => if y == x then { y with askers := y.askers.drop 1 } else y }

/-- What is to be noted before the next agent acts (log 61). -/
def State.watch (s : State) : Option State :=
  s.watchXfer.or (s.cores.findSome? fun k => (s.watchLog k).or (k.teams.findSome? (s.watchTeam k)))

end Sys2Proof.Machine
end

