-- ==== Sys2Proof/Machine/Fetch.lean ====
section
/-! DEFINITION. Which agent acts next, and fetching what it acts on (spec/02 R26, R33, R37; spec/11 R198; spec/14 R235,
R246; spec/20 R349, R350; log 2). -/

namespace Sys2Proof.Machine

/-- What a step does: an event that the machine has scheduled, an instruction or an outside event, or neither. -/
inductive Plan where
  | due (d : Due) (s : State)
  | instr (i : Instr) (s : State)
  | still (s : State)

/-! Agents (R26, R198). -/

inductive Agent where
  | lane (c : CoreId) (l : Nat)
  | seq (c : CoreId) (team : Nat)
  deriving DecidableEq, Repr

def Core.works (k : Core) : Bool := !k.inReset && k.rollback.isNone

/-- The waves of a core that have an eligible thread, each with its team. -/
def Core.runnable (k : Core) : List (Nat × Wave) :=
  if k.works then
    (k.teams.filter (·.leave.isNone)).flatMap fun t =>
      (t.waves.filter fun w => !w.ended && !w.eligibles.isEmpty).map fun w => (t.oid, w)
  else []

/-- The earlier of two slots of a lane in round-robin order after the slot served last (R198). -/
def slotBefore (last : Nat) (a b : Nat) : Bool := decide ((a + 4 - last - 1) % 4 < (b + 4 - last - 1) % 4)

/-- The waves that can issue: a wave at a header whose thresholds are not met is passed over (R26, R198). -/
def State.ready (s : State) (k : Core) : List (Nat × Wave) :=
  k.runnable.filter fun q => !s.waitsAtHeader ⟨k.id, q.1, q.2.wid⟩

/-- The wave a lane serves: the one inside a clause, else the next in round-robin order that can issue (R26, R198). -/
def State.laneWave (s : State) (k : Core) (l : Nat) : Option WaveId :=
  let ws := (s.ready k).filter fun q => q.2.lane == l
  let last := (k.laneLast.lookup l).getD 3
  let name (q : Nat × Wave) : WaveId := ⟨k.id, q.1, q.2.wid⟩
  match ws.find? fun q => !q.2.atBoundary with
  | some q => some (name q)
  | none =>
    match ws with
    | [] => none
    | q :: qs => some (name (qs.foldl (fun b q => if slotBefore last q.2.unit b.2.unit then q else b) q))

def State.agentsOf (s : State) (k : Core) : List Agent :=
  (((s.ready k).map fun q => q.2.lane).eraseDups.map (Agent.lane k.id)) ++
    (if k.works then (k.teams.filter fun t => t.leave.isNone && t.seq.run && t.seq.word.isSome).map fun t => Agent.seq k.id t.oid
    else [])

def State.agents (s : State) : List Agent := s.cores.flatMap s.agentsOf

/-- The agent in focus. -/
def State.focused (s : State) : Option Agent :=
  match s.focus with
  | .none => none
  | .seq c t => some (.seq c t)
  | .wave w => (s.waveAt w).map fun q => .lane w.core q.2.lane

/-- The agent after the one in focus, in turn. -/
def State.nextAgent (s : State) : Option Agent :=
  let as := s.agents
  match s.focused with
  | none => as.head?
  | some a => if as.contains a then as[(as.idxOf a + 1) % as.length]? else as.head?

def State.focusOf (s : State) : Agent → Focus
  | .seq c t => .seq c t
  | .lane c l => match s.laneWave (s.core c) l with | some w => .wave w | none => .none

/-- The focus passes on; a wave at a clause boundary selects its run, and its lane keeps which slot it served. -/
def State.passFocus (s : State) (f : Focus) : State :=
  let s1 : State := { s with focus := f, focusAt := s.cycle }
  match f with
  | .wave w =>
    match s.waveAt w with
    | some (_, v) => (s1.modTeam w.core w.team (·.setWave v.select)).modCore w.core fun k =>
      { k with laneLast := putWhere (·.1 == v.lane) (v.lane, v.unit) k.laneLast }
    | none => s1
  | _ => s1

/-- The agent in focus can act; a wave that has come to a clause boundary since gives its lane up (R198). -/
def State.focusActs (s : State) : Bool :=
  match s.focus with
  | .none => false
  | .wave w => (s.ready (s.core w.core)).any fun q => q.1 == w.team && q.2.wid == w.wid && !q.2.members.isEmpty
  | .seq c t => (s.agentsOf (s.core c)).contains (.seq c t)

/-! Fetch (R33, R34, R350). -/

/-- Threads take a trap on the word at the run's PC, of which `words` have been issued (R288). -/
def Ctx.fetchTrap (x : Ctx) (words : Nat) (ts : List Nat) (tr : Nat → Trap) : State :=
  if x.room (x.rcdKeys ts) then (ts.foldl (fun y t => y.trap t (tr t)) x).close 1 0 (words := words) else x.holdFor 9

/-- The run's next word: its instruction, in the class of its clause (R35, R50); or a trap, a park or a wait.  A word that
is no instruction of the class raises ILLEGAL_OP (R31). -/
def Ctx.instruction (x : Ctx) : Plan :=
  let va := wordVa x.pc
  match x.run.filter fun t => ((x.thread t).deny.map fun (d : FaultKey × BitVec 3) => d.1 == FaultKey.ofVa va true).getD false with
  | d :: ds =>
    .still (x.fetchTrap 0 (d :: ds) fun t => ⟨6, va, (((x.thread t).deny.map fun (d : FaultKey × BitVec 3) => d.2).getD 0).setWidth 32⟩)
  | [] =>
    match x.fetch x.pc with
    | (y, .refused c aux) => .still (y.fetchTrap 0 y.run fun _ => ⟨c, va, aux⟩)
    | (y, .miss c) => .still ((x.run.foldl (fun y t => y.park t [FaultKey.ofVa va true]) (y.miss va true 4 c)).close 0 0 (words := 0))
    | (y, .waits a) => .still (y.modState (·.askFor [a] (.wave y.w y.pc))).hold
    | (y, .word w) =>
      match decodeWord (Header.ofWord (x.thread (x.run.headD 0)).hdr).cls.toNat w with
      | .ok i => .instr i y.state
      | .error _ => .still (y.fetchTrap 1 y.run fun _ => ⟨1, 0, hi32 w⟩)

/-- What the agent in focus does: a pending MSTREAM is taken, a clause is entered, a word is fetched and executed.  A stream word
that is no instruction raises MSTREAM once the stream's earlier engine word has completed (R236, R246). -/
def State.act (s : State) : Plan :=
  match s.focus with
  | .none => .still s
  | .wave w =>
    match s.ctxAt w with
    | none => .still s
    | some x =>
      if !x.wave.mtrapped.isEmpty then
        if x.room (x.rcdKeys x.wave.mtrapped) then .due (.mstreamTrapTake w.core w.team) s else .still (x.holdFor 9)
      else if x.run.any fun t => (x.thread t).mark then .instr (.clauseEntry w) s
      else x.instruction
  | .seq c oid =>
    match (s.core c).team oid with
    | none => .still s
    | some t =>
      match t.seq.word with
      | none => .still s
      | some w =>
        match decodeWord 4 w with
        | .ok i => .instr i s
        | .error _ => .still (if t.seq.busy then s.tick 1 else s.mstream c t (hi32 w))

/-! The order of a step. -/

/-- The earliest entry that is due. -/
def earliest {α : Type} (now : Nat) : List (Nat × α) → Option (Nat × α)
  | [] => none
  | e :: es =>
    match earliest now es with
    | none => if e.1 ≤ now then some e else none
    | some f => if e.1 ≤ now ∧ e.1 ≤ f.1 then some e else some f

/-- The cycle of the next event, where no agent can act before it. -/
def State.nextTime (s : State) : Nat :=
  match s.agenda.map (·.1) ++ s.inputs.map (·.1) with
  | [] => s.cycle + 1
  | t :: ts => max (s.cycle + 1) (ts.foldl min t)


/-- Of the events that are due, on the agenda and from outside, the earliest comes first, one of the agenda before one from
outside of the same cycle; then the agent that has the focus since this cycle; then the focus passes on, and with no agent
time passes. -/
def State.plan (s : State) : Plan :=
  let outer (e : Nat × Instr) : Plan := .instr e.2 { s with inputs := s.inputs.erase e }
  let inner (e : Nat × Due) : Plan := .due e.2 { s with agenda := s.agenda.erase e }
  match earliest s.cycle s.agenda, earliest s.cycle s.inputs with
  | some e, some o => if o.1 < e.1 then outer o else inner e
  | some e, none => inner e
  | none, some o => outer o
  | none, none =>
    if s.focusAt == s.cycle && s.focusActs then s.act
    else
      match s.watch with
      | some s1 => .still s1
      | none =>
        match s.nextAgent with
        | some a => .still (s.passFocus (s.focusOf a))
        | none => .still { s with cycle := s.nextTime }

/-! A word where the next step fetches it (log 26). -/

/-- The class in which a word alone is read: the first in which it is an instruction. -/
def classOfWord (w : DWord) : Nat :=
  ([0, 1, 2, 3, 4, 5, 6, 7].find? fun c => match decodeWord c w with | .ok _ => true | .error _ => false).getD 0

/-- A team of one wave with every resource, inside a clause at word address 1, whose page is mapped at physical address 0;
its sequencer runs there for a word of stream text. -/
def loadedTeam (cls : Nat) (hdr w : DWord) : Team :=
  let d : Rec256 := BitVec.ofNat 256 (8 * 2 ^ 6 + 2 ^ 10 + 64 * 2 ^ 16 + 0x20 * 2 ^ 32 + 4096 * 2 ^ 160)
  { oid := 1, proc := 1, desc := d, sz := 4096, bars := List.replicate 16 { e := 1 }
    waves := [{ wid := 0, threads := List.replicate 32 { pc := 1, hdr := hdr }, run := 0xFFFFFFFF, prev := 0xFFFFFFFF }]
    seq := if cls = 4 then { spc := 1, run := true, recorder := some (0, 0), word := some w } else {} }

/-- The team resident on core 0 and in focus, its words in memory, and nothing else due. -/
def State.loadWord (s : State) (cls : Nat) (hdr w : DWord) : State :=
  let c : CoreId := ⟨0, 0, 0⟩
  let k := s.core c
  let s1 : State := { s with
    agenda := s.agenda.filter fun e => decide (s.cycle < e.1)
    inputs := s.inputs.filter fun e => decide (s.cycle < e.1)
    mem := memWrites s.mem (cellsAt 0 (bytesLE 8 hdr.toNat ++ bytesLE 8 w.toNat))
    dies := s.dies.map fun d => if d.die == 0 then { d with st := 2 } else d
    focus := if cls = 4 then .seq c 1 else .wave ⟨c, 1, 0⟩, focusAt := s.cycle }
  s1.setCore { k with
    teams := k.teams.filter (·.oid != 1) ++ [loadedTeam cls hdr w], tlb := ({ proc := 1, vpn := 0, sz := 0, pfn := 0 } : Tlb) :: k.tlb
    rollback := none, inReset := false, code := [] }

end Sys2Proof.Machine
end

