-- ==== Sys2Proof/Machine/Step.lean ====
section
/-! DEFINITION. One step of the package, and a word placed where the next step fetches it. -/

namespace Sys2Proof.Machine

/-- One step: what the plan says (log 2). -/
def step (s : State) : Host.Outcome State Fault Refusal :=
  match s.plan with
  | .due d t => runDue d t
  | .instr i t => exec i t
  | .still t => .next t

/-- The instruction of `decodeTableWord`, stored where `step` fetches next (log 26): alone under a header of its class, or
with the header given. -/
def State.withFetchWord (s : State) (nbits w : Nat) : State :=
  if nbits ≤ 64 then
    let x := BitVec.ofNat 64 w
    let c := classOfWord x
    s.loadWord c (Header.plain (BitVec.ofNat 4 c)).toWord x
  else
    let h := BitVec.ofNat 64 w
    s.loadWord ((Header.ofWord h).cls.toNat) h (BitVec.ofNat 64 (w >>> 64))

end Sys2Proof.Machine
end

