-- ==== Sys2Proof/Safety.lean ====
section
/-! DEFINITION. What claims observe of a package, and the invariant that every step keeps. -/

namespace Sys2Proof.Machine

/-! Observations of a resident wave (R17). -/

/-- A thread of a wave, or one at rest where there is no such wave. -/
def State.threadAt (s : State) (w : WaveId) (t : Nat) : Thread :=
  match s.waveAt w with
  | some (_, v) => v.thread t
  | none => {}

def State.vreg (s : State) (w : WaveId) (t n : Nat) : Word := (s.threadAt w t).reg n
def State.preg (s : State) (w : WaveId) (t n : Nat) : Bool := (s.threadAt w t).pred n
def State.pcAt (s : State) (w : WaveId) (t : Nat) : WAddr := (s.threadAt w t).pc
def State.recAt (s : State) (w : WaveId) (t : Nat) : Rec256 := (s.threadAt w t).rcd
def State.sreg (s : State) (w : WaveId) (n : Nat) : Word :=
  match s.waveAt w with
  | some (_, v) => v.sreg n
  | none => 0
def State.breg (s : State) (w : WaveId) (n : Nat) : BufRec :=
  match s.waveAt w with
  | some (_, v) => v.breg n
  | none => 0

/-- The team of a wave. -/
def State.teamOf (s : State) (w : WaveId) : Option Team := (s.core w.core).team w.team

/-- One byte of memory by its key: domain addresses, and host memory from `hostBase` on (log 3). -/
def State.byte (s : State) (a : Nat) : Byte := memRead s.mem a

/-! What a list of register writes leaves: the last write to a register, if there is one. -/

def lastV : List RegWrite → Nat → Nat → Option Word
  | [], _, _ => none
  | q :: r, t, n => (lastV r t n).or (match q with | .v u m x => if u = t ∧ m = n then some x else none | _ => none)

def lastP : List RegWrite → Nat → Nat → Option Bool
  | [], _, _ => none
  | q :: r, t, n => (lastP r t n).or (match q with | .p u m x => if u = t ∧ m = n then some x else none | _ => none)

def lastS : List RegWrite → Nat → Option Word
  | [], _ => none
  | q :: r, n => (lastS r n).or (match q with | .s m x => if m = n then some x else none | _ => none)

def lastB : List RegWrite → Nat → Option BufRec
  | [], _ => none
  | q :: r, n => (lastB r n).or (match q with | .b m x => if m = n then some x else none | _ => none)

/-! What one instruction does to the wave that issues it. -/

/-- An instruction with issue shape `i` issues: its wave, with the run and everything else in `x`, is in focus and has not
ended, its guard's predicate is not awaited, `act` are the threads whose guard passes and there is one, every v register is
within the budget, and no register it names is awaited (R19, R24 to R26, R39). -/
structure State.Issues (s : State) (i : Issue) (x : Ctx) (act : List Nat) : Prop where
  ctx : s.ctx = some x
  live : x.wave.ended = false
  guard : x.pends [.p i.g.gp.toNat] = false
  active : x.active i.g = act
  some_ : act ≠ []
  budget : overBudget x.wave.budget (i.reads ++ i.writes) = none
  ready : x.pends (i.reads ++ i.writes) = false

/-- The registers of wave `w` in `t` are those in `s` with the writes made. -/
structure State.Wrote (s t : State) (w : WaveId) (ws : List RegWrite) : Prop where
  v : ∀ a n, a < 32 → n < 64 → t.vreg w a n = (lastV ws a n).getD (s.vreg w a n)
  p : ∀ a n, a < 32 → n < 31 → t.preg w a n = (lastP ws a n).getD (s.preg w a n)
  sr : ∀ n, n < 64 → t.sreg w n = (lastS ws n).getD (s.sreg w n)
  br : ∀ n, n < 16 → t.breg w n = (lastB ws n).getD (s.breg w n)

/-- A core but for its teams, its performance counters, the code that it has fetched and the lines of its open heat's undo log. -/
def Core.quiet (k : Core) : Core := { k with teams := [], perf := [], code := [], cur := k.cur.map fun h => { h with log := [] } }

/-- Nothing changes outside wave `w` but time, what is scheduled, the free-value counter, the core's performance counters, fetched code and undo log, and its team's FPS and
reason to leave: not memory, no other core, team or wave, and nothing else of the team (its scratchpad, tiles, sequencer,
barriers, tags and copies). -/
structure State.WaveOnly (s t : State) (w : WaveId) : Prop where
  rest : { t with cycle := s.cycle, agenda := s.agenda, cores := s.cores, ctr := s.ctr } = s
  agenda : s.agenda <+: t.agenda
  cores : ∀ c, c ≠ w.core → t.core c = s.core c
  core : (t.core w.core).quiet = (s.core w.core).quiet
  teams : ∀ o, o ≠ w.team → (t.core w.core).team o = (s.core w.core).team o
  team : (t.teamOf w).map (fun q => { q with waves := [], leave := none, fps := 0 })
    = (s.teamOf w).map (fun q => { q with waves := [], leave := none, fps := 0 })
  waves : ∀ n, n ≠ w.wid → (t.teamOf w).map (·.wave n) = (s.teamOf w).map (·.wave n)
  ops : (t.waveAt w).map (fun q => (q.2.ops, q.2.role, q.2.budget, q.2.lane, q.2.unit)) =
    (s.waveAt w).map (fun q => (q.2.ops, q.2.role, q.2.budget, q.2.lane, q.2.unit))

/-- The PC that follows the run's for a thread: the next word, or the first word after the header that ends the clause which the thread is in
(R122). -/
def Ctx.nextPc (x : Ctx) (a : Nat) : WAddr :=
  if x.pc + 1 = (x.thread a).clauseEnd then x.pc + 2 else x.pc + 1

/-- What an instruction that delivers results leaves: the writes `ws` made, the flags `fl` gathered, the threads of `bad`
in their traps, the other threads of the run at the next PC, and every other thread where it was. -/
structure State.Delivered (s t : State) (x : Ctx) (ws : List RegWrite) (fl : BitVec 5) (bad : List Nat) (tr : Nat → Trap)
    (cost : Nat) : Prop where
  wrote : s.Wrote t x.w ws
  only : s.WaveOnly t x.w
  flags : (t.teamOf x.w).map (·.fps) = (s.teamOf x.w).map (·.fps ||| fl)
  moved : ∀ a ∈ x.run, a ∉ bad → t.pcAt x.w a = x.nextPc a ∧ t.recAt x.w a = s.recAt x.w a
    ∧ (t.threadAt x.w a).life = .eligible
  trapped : ∀ a ∈ bad, t.pcAt x.w a = ((s.threadAt x.w a).take x.team (tr a) x.pc (s.threadAt x.w a).cb).1.pc
    ∧ t.recAt x.w a = ((s.threadAt x.w a).take x.team (tr a) x.pc (s.threadAt x.w a).cb).1.rcd
    ∧ (t.threadAt x.w a).life = ((s.threadAt x.w a).take x.team (tr a) x.pc (s.threadAt x.w a).cb).1.life
  others : ∀ a, a < 32 → a ∉ x.run → t.pcAt x.w a = s.pcAt x.w a ∧ t.recAt x.w a = s.recAt x.w a
    ∧ (t.threadAt x.w a).life = (s.threadAt x.w a).life
  time : t.cycle = s.cycle + cost

/-- Nothing changes outside the wave's own team and core but time, what is scheduled, the counters of names and of free
values, what the cluster caches and the requests at the service cores: not memory, no object, no register of the
package, no other core, team or wave. -/
structure State.Elsewhere (s t : State) (w : WaveId) : Prop where
  rest : { t with cycle := s.cycle, agenda := s.agenda, cores := s.cores, ctr := s.ctr, nextId := s.nextId, l2 := s.l2, l2c := s.l2c, cupola := s.cupola } = s
  agenda : s.agenda <+: t.agenda
  cores : ∀ c, c ≠ w.core → t.core c = s.core c
  teams : ∀ o, o ≠ w.team → (t.core w.core).team o = (s.core w.core).team o
  waves : ∀ n, n ≠ w.wid → (t.teamOf w).map (·.wave n) = (s.teamOf w).map (·.wave n)

/-- The run goes on to its next PC with no register changed, and nothing changes elsewhere. -/
structure State.Passed (s t : State) (x : Ctx) (cost : Nat) : Prop where
  elsewhere : s.Elsewhere t x.w
  regs : s.Wrote t x.w []
  moved : ∀ a ∈ x.run, t.pcAt x.w a = x.nextPc a ∧ t.recAt x.w a = s.recAt x.w a ∧ (t.threadAt x.w a).life = .eligible
  others : ∀ a, a < 32 → a ∉ x.run → t.pcAt x.w a = s.pcAt x.w a ∧ t.recAt x.w a = s.recAt x.w a
    ∧ (t.threadAt x.w a).life = (s.threadAt x.w a).life
  time : t.cycle = s.cycle + cost

/-- The run is held at issue: one cycle passes and it stands where it stood (R26). -/
structure State.Held (s t : State) (x : Ctx) : Prop where
  elsewhere : s.Elsewhere t x.w
  regs : s.Wrote t x.w []
  stays : ∀ a, t.pcAt x.w a = s.pcAt x.w a ∧ t.recAt x.w a = s.recAt x.w a
    ∧ (t.threadAt x.w a).life = (s.threadAt x.w a).life
  time : t.cycle = s.cycle + 1

/-- The threads whose results are written, and those that trap on an enabled flag instead (R25, R97, R103). -/
def goodOf (x : Ctx) (mode : Mode) (act : List Nat) (fl : Nat → BitVec 5) : List Nat :=
  match mode with
  | .perThread => act.filter fun t => !(fl t &&& x.team.fpe != 0)
  | .once => if fl (act.headD 0) &&& x.team.fpe != 0 then [] else [act.headD 0]
  | .wholeRun => x.run

def badOf (x : Ctx) (mode : Mode) (act : List Nat) (fl : Nat → BitVec 5) : List Nat :=
  match mode with
  | .perThread => act.filter fun t => fl t &&& x.team.fpe != 0
  | .once => if fl (act.headD 0) &&& x.team.fpe != 0 then act else []
  | .wholeRun => []

/-- FPX for a thread (R31, R103): AUX holds the enabled flags that it raises. -/
def fpxOf (x : Ctx) (mode : Mode) (act : List Nat) (fl : Nat → BitVec 5) (t : Nat) : Trap :=
  ⟨9, 0, (fl (if mode = .perThread then t else act.headD 0) &&& x.team.fpe).setWidth 32⟩

/-! The invariant. -/

/-- Every memory is in canonical form: equal memories are equal data. -/
def State.Inv (s : State) : Prop :=
  Memory.wf s.mem = true ∧ Memory.wf s.bar2 = true ∧ Memory.wf s.staging = true

/-! Runs. -/

/-- `n` steps lead from one state to another. -/
inductive Steps : Nat → State → State → Prop where
  | refl (s : State) : Steps 0 s s
  | tail {n : Nat} {s t u : State} : Steps n s t → step t = .next u → Steps (n + 1) s u

/-- A state that some run from reset, with some outside events to come, reaches. -/
def State.Reachable (s : State) : Prop := ∃ n ins, Steps n { State.reset with inputs := ins } s

end Sys2Proof.Machine
end

