-- ==== Sys2Proof/Claims.lean ====
section
/-! DEFINITION. The terms in which the statements of Certificates/ speak: what each instruction that delivers results
delivers, as the rules give it, and the conditions under which memory, control and class-6 instructions complete. -/

namespace Sys2Proof.Claims

open Sys2Proof.Machine

/-! Instructions that deliver results (R25, R59, R80, R97). -/

/-- How an instruction issues, where its results go, and what it delivers for a thread: register writes and flags. -/
structure Row where
  issue : Issue
  mode : Mode
  res : Ctx → List Nat → Nat → List RegWrite × BitVec 5

def Row.good (r : Row) (x : Ctx) (act : List Nat) : List Nat := goodOf x r.mode act fun t => (r.res x act t).2
def Row.bad (r : Row) (x : Ctx) (act : List Nat) : List Nat := badOf x r.mode act fun t => (r.res x act t).2
def Row.trap (r : Row) (x : Ctx) (act : List Nat) : Nat → Trap := fpxOf x r.mode act fun t => (r.res x act t).2
def Row.writes (r : Row) (x : Ctx) (act : List Nat) : List RegWrite := (r.good x act).flatMap fun t => (r.res x act t).1
def Row.flags (r : Row) (x : Ctx) (act : List Nat) : BitVec 5 := (r.good x act).foldl (fun f t => f ||| (r.res x act t).2) 0

/-- The undo log has room for the lines that the results and the trap records touch (R282). -/
def Row.Fits (r : Row) (x : Ctx) (act : List Nat) : Prop :=
  x.room ((r.writes x act).map (·.logKey x.w.team x.w.wid) ++ x.rcdKeys (r.bad x act)) = true

/-- The results are delivered: the state after the instruction. -/
def Row.Done (r : Row) (s t : State) (x : Ctx) (act : List Nat) : Prop :=
  s.Delivered t x (r.writes x act) (r.flags x act) (r.bad x act) (r.trap x act) (r.issue.cost act)

/-- An operation in format R or I: each active thread's result from its sources, or one result for the wave. -/
def rowR (sp : RSpec) (f : RForm) (per : Nat) (op : Src → Res) : Row := ⟨issueOfR sp f per, modeOfR sp f per, resOfR sp f per op⟩
def rowI (sp : ISpec) (f : IForm) (op : Src → Res) : Row := ⟨issueOfI sp f, modeOfI sp f, resOfI sp f op⟩

/-- Class 0, integer, address, bit and predicate instructions (R83 to R94). -/
inductive IntegerRow : Instr → Row → Prop where
  | iadd (f : RForm) : IntegerRow (.iadd f) (rowR (Spec.bin tyInts true) f 1 (intRes f.ty f.sat addOp))
  | iaddImm (f : IForm) : IntegerRow (.iaddImm f) (rowI (Spec.iBin tyInts) f (intRes f.mod4 false addOp))
  | isub (f : RForm) : IntegerRow (.isub f) (rowR (Spec.bin tyInts true) f 1 (intRes f.ty f.sat subOp))
  | isubImm (f : IForm) : IntegerRow (.isubImm f) (rowI (Spec.iBin tyInts) f (intRes f.mod4 false subOp))
  | iadd3 (f : RForm) : IntegerRow (.iadd3 f) (rowR (Spec.tri tyWide true) f 1 (intRes f.ty f.sat add3Op))
  | iaddc (f : RForm) : IntegerRow (.iaddc f) (rowR Spec.iaddc f 1 (addcRes (hasBit f.sub 0) (f.c.toNat % 32)))
  | imul (f : RForm) : IntegerRow (.imul f) (rowR (Spec.bin tyInts true) f 1 (intRes f.ty f.sat mulOp))
  | imulImm (f : IForm) : IntegerRow (.imulImm f) (rowI (Spec.iBin tyInts) f (intRes f.mod4 false mulOp))
  | imulh (f : RForm) : IntegerRow (.imulh f) (rowR (Spec.bin tyWide false) f 1 (mulhRes f.ty))
  | imulhImm (f : IForm) : IntegerRow (.imulhImm f) (rowI (Spec.iBin tyWide) f (mulhRes f.mod4))
  | imad (f : RForm) : IntegerRow (.imad f) (rowR (Spec.tri tyInts true) f 1 (intRes f.ty f.sat madOp))
  | imadw (f : RForm) : IntegerRow (.imadw f) (rowR Spec.imadw f 1 (madwRes f.ty f.sat))
  | imin (f : RForm) : IntegerRow (.imin f) (rowR (Spec.bin tyInts false) f 1 (intRes f.ty false minOp))
  | iminImm (f : IForm) : IntegerRow (.iminImm f) (rowI (Spec.iBin tyInts) f (intRes f.mod4 false minOp))
  | imax (f : RForm) : IntegerRow (.imax f) (rowR (Spec.bin tyInts false) f 1 (intRes f.ty false maxOp))
  | imaxImm (f : IForm) : IntegerRow (.imaxImm f) (rowI (Spec.iBin tyInts) f (intRes f.mod4 false maxOp))
  | iabs (f : RForm) : IntegerRow (.iabs f) (rowR (Spec.un [0, 2, 4, 13] true) f 1 (intRes f.ty f.sat absOp))
  | ineg (f : RForm) : IntegerRow (.ineg f) (rowR (Spec.un [0, 2, 4, 13] true) f 1 (intRes f.ty f.sat negOp))
  | icmp (f : RForm) : IntegerRow (.icmp f) (rowR Spec.icmp f 1 (cmpRes f.ty f.cc.toNat))
  | icmpImm (cc : Fin 6) (f : IForm) : IntegerRow (.icmpImm cc f) (rowI (Spec.iCmp tyInts) f (cmpRes f.mod4 cc))
  | isel (f : RForm) : IntegerRow (.isel f) (rowR Spec.isel f 1 selRes)
  | lea (f : RForm) : IntegerRow (.lea f) (rowR Spec.lea f 1 (leaRes f.ty (bitsNat f.sub 0 4)))
  | leaImm (f : IForm) : IntegerRow (.leaImm f) (rowI Spec.iLea f (leaImmRes f.mod4 f.imm))
  | clamp (f : RForm) : IntegerRow (.clamp f) (rowR (Spec.tri tyInts false) f 1 (intRes f.ty false clampOp))
  | and (f : RForm) : IntegerRow (.and f) (rowR (Spec.bin tyWide false) f 1 (bitRes f.ty (· &&& ·)))
  | andImm (f : IForm) : IntegerRow (.andImm f) (rowI (Spec.iBin tyWide) f (bitRes f.mod4 (· &&& ·)))
  | or (f : RForm) : IntegerRow (.or f) (rowR (Spec.bin tyWide false) f 1 (bitRes f.ty (· ||| ·)))
  | orImm (f : IForm) : IntegerRow (.orImm f) (rowI (Spec.iBin tyWide) f (bitRes f.mod4 (· ||| ·)))
  | xor (f : RForm) : IntegerRow (.xor f) (rowR (Spec.bin tyWide false) f 1 (bitRes f.ty (· ^^^ ·)))
  | xorImm (f : IForm) : IntegerRow (.xorImm f) (rowI (Spec.iBin tyWide) f (bitRes f.mod4 (· ^^^ ·)))
  | andn (f : RForm) : IntegerRow (.andn f) (rowR (Spec.bin tyWide false) f 1 (bitRes f.ty fun a b => a &&& ~~~b))
  | andnImm (f : IForm) : IntegerRow (.andnImm f) (rowI (Spec.iBin tyWide) f (bitRes f.mod4 fun a b => a &&& ~~~b))
  | orn (f : RForm) : IntegerRow (.orn f) (rowR (Spec.bin tyWide false) f 1 (bitRes f.ty fun a b => a ||| ~~~b))
  | ornImm (f : IForm) : IntegerRow (.ornImm f) (rowI (Spec.iBin tyWide) f (bitRes f.mod4 fun a b => a ||| ~~~b))
  | shl (f : RForm) : IntegerRow (.shl f) (rowR Spec.shift f 1 (shlRes f.ty))
  | shlImm (f : IForm) : IntegerRow (.shlImm f) (rowI Spec.iShift f (shlRes f.mod4))
  | shr (f : RForm) : IntegerRow (.shr f) (rowR Spec.shift f 1 (shrRes f.ty))
  | shrImm (f : IForm) : IntegerRow (.shrImm f) (rowI Spec.iShift f (shrRes f.mod4))
  | sar (f : RForm) : IntegerRow (.sar f) (rowR Spec.shift f 1 (sarRes f.ty))
  | sarImm (f : IForm) : IntegerRow (.sarImm f) (rowI Spec.iShift f (sarRes f.mod4))
  | rol (f : RForm) : IntegerRow (.rol f) (rowR Spec.shift f 1 (rolRes f.ty))
  | rolImm (f : IForm) : IntegerRow (.rolImm f) (rowI Spec.iShift f (rolRes f.mod4))
  | fsh (f : RForm) : IntegerRow (.fsh f) (rowR Spec.fsh f 1 (fshRes (hasBit f.sub 0)))
  | bfx (f : RForm) : IntegerRow (.bfx f) (rowR Spec.bfx f 1 (fun o => bfxRes f.ty o.b o))
  | bfxImm (f : IForm) : IntegerRow (.bfxImm f) (rowI Spec.iBfx f (fun o => bfxRes f.mod4 (f.imm.setWidth 64) o))
  | bfi (f : RForm) : IntegerRow (.bfi f) (rowR Spec.bfi f 1 (bfiRes f.ty))
  | popc (f : RForm) : IntegerRow (.popc f) (rowR Spec.count f 1 (countRes f.ty popcOf))
  | clz (f : RForm) : IntegerRow (.clz f) (rowR Spec.count f 1 (countRes f.ty clzOf))
  | ctz (f : RForm) : IntegerRow (.ctz f) (rowR Spec.count f 1 (countRes f.ty ctzOf))
  | brev (f : RForm) : IntegerRow (.brev f) (rowR (Spec.un tyNat false) f 1 (brevRes f.ty))
  | perm (f : RForm) : IntegerRow (.perm f) (rowR Spec.perm f 1 permRes)
  | mov (f : RForm) : IntegerRow (.mov f) (rowR (Spec.un tyWide false) f 1 movRes)
  | movi (f : IForm) : IntegerRow (.movi f) (rowI Spec.iMov f movRes)
  | pand (f : RForm) : IntegerRow (.pand f) (rowR Spec.pbin f 1 (predRes f.sub (· && ·)))
  | por (f : RForm) : IntegerRow (.por f) (rowR Spec.pbin f 1 (predRes f.sub (· || ·)))
  | pxor (f : RForm) : IntegerRow (.pxor f) (rowR Spec.pbin f 1 (predRes f.sub (· != ·)))
  | pnot (f : RForm) : IntegerRow (.pnot f) (rowR Spec.pnot f 1 notRes)
  | pset (f : RForm) : IntegerRow (.pset f) (rowR Spec.pset f 1 (setRes f.ty))

/-- Class 1 (R96, R97). -/
inductive ScalarRow : Instr → Row → Prop where
  | sadd (f : RForm) : ScalarRow (.sadd f) (rowR (Spec.sc (Spec.bin tyWide true)) f 1 (intRes f.ty f.sat addOp))
  | saddImm (f : IForm) : ScalarRow (.saddImm f) (rowI (Spec.iSc (Spec.iBin tyWide)) f (intRes f.mod4 false addOp))
  | ssub (f : RForm) : ScalarRow (.ssub f) (rowR (Spec.sc (Spec.bin tyWide true)) f 1 (intRes f.ty f.sat subOp))
  | ssubImm (f : IForm) : ScalarRow (.ssubImm f) (rowI (Spec.iSc (Spec.iBin tyWide)) f (intRes f.mod4 false subOp))
  | smul (f : RForm) : ScalarRow (.smul f) (rowR (Spec.sc (Spec.bin tyWide true)) f 1 (intRes f.ty f.sat mulOp))
  | smulImm (f : IForm) : ScalarRow (.smulImm f) (rowI (Spec.iSc (Spec.iBin tyWide)) f (intRes f.mod4 false mulOp))
  | smad (f : RForm) : ScalarRow (.smad f) (rowR (Spec.sc (Spec.tri tyWide true)) f 1 (intRes f.ty f.sat madOp))
  | sand (f : RForm) : ScalarRow (.sand f) (rowR (Spec.sc (Spec.bin tyWide false)) f 1 (bitRes f.ty (· &&& ·)))
  | sandImm (f : IForm) : ScalarRow (.sandImm f) (rowI (Spec.iSc (Spec.iBin tyWide)) f (bitRes f.mod4 (· &&& ·)))
  | sor (f : RForm) : ScalarRow (.sor f) (rowR (Spec.sc (Spec.bin tyWide false)) f 1 (bitRes f.ty (· ||| ·)))
  | sorImm (f : IForm) : ScalarRow (.sorImm f) (rowI (Spec.iSc (Spec.iBin tyWide)) f (bitRes f.mod4 (· ||| ·)))
  | sxor (f : RForm) : ScalarRow (.sxor f) (rowR (Spec.sc (Spec.bin tyWide false)) f 1 (bitRes f.ty (· ^^^ ·)))
  | sxorImm (f : IForm) : ScalarRow (.sxorImm f) (rowI (Spec.iSc (Spec.iBin tyWide)) f (bitRes f.mod4 (· ^^^ ·)))
  | sshl (f : RForm) : ScalarRow (.sshl f) (rowR (Spec.sc Spec.shift) f 1 (shlRes f.ty))
  | sshlImm (f : IForm) : ScalarRow (.sshlImm f) (rowI (Spec.iSc Spec.iShift) f (shlRes f.mod4))
  | sshr (f : RForm) : ScalarRow (.sshr f) (rowR (Spec.sc Spec.shift) f 1 (shrRes f.ty))
  | sshrImm (f : IForm) : ScalarRow (.sshrImm f) (rowI (Spec.iSc Spec.iShift) f (shrRes f.mod4))
  | ssar (f : RForm) : ScalarRow (.ssar f) (rowR (Spec.sc Spec.shift) f 1 (sarRes f.ty))
  | ssarImm (f : IForm) : ScalarRow (.ssarImm f) (rowI (Spec.iSc Spec.iShift) f (sarRes f.mod4))
  | smin (f : RForm) : ScalarRow (.smin f) (rowR (Spec.sc (Spec.bin tyWide false)) f 1 (intRes f.ty false minOp))
  | sminImm (f : IForm) : ScalarRow (.sminImm f) (rowI (Spec.iSc (Spec.iBin tyWide)) f (intRes f.mod4 false minOp))
  | smax (f : RForm) : ScalarRow (.smax f) (rowR (Spec.sc (Spec.bin tyWide false)) f 1 (intRes f.ty false maxOp))
  | smaxImm (f : IForm) : ScalarRow (.smaxImm f) (rowI (Spec.iSc (Spec.iBin tyWide)) f (intRes f.mod4 false maxOp))
  | scmp (f : RForm) : ScalarRow (.scmp f) (rowR (Spec.sc Spec.icmp) f 1 (cmpRes f.ty f.cc.toNat))
  | scmpImm (cc : Fin 6) (f : IForm) : ScalarRow (.scmpImm cc f) (rowI (Spec.iSc (Spec.iCmp tyInts)) f (cmpRes f.mod4 cc))
  | ssel (f : RForm) : ScalarRow (.ssel f) (rowR (Spec.sc Spec.isel) f 1 selRes)
  | smov (f : RForm) : ScalarRow (.smov f) (rowR (Spec.sc (Spec.un tyWide false)) f 1 movRes)
  | smovi (f : IForm) : ScalarRow (.smovi f) (rowI (Spec.iSc Spec.iMov) f movRes)
  | sbfx (f : RForm) : ScalarRow (.sbfx f) (rowR (Spec.sc Spec.bfx) f 1 (fun o => bfxRes f.ty o.b o))
  | sbfxImm (f : IForm) : ScalarRow (.sbfxImm f) (rowI (Spec.iSc Spec.iBfx) f (fun o => bfxRes f.mod4 (f.imm.setWidth 64) o))
  | spopc (f : RForm) : ScalarRow (.spopc f) (rowR (Spec.sc Spec.count) f 1 (countRes f.ty popcOf))

/-- Floating-point, packed, dot and conversion instructions whose results are of one thread (R106 to R116). -/
inductive FloatRow : Instr → Row → Prop where
  | fadd (f : RForm) : FloatRow (.fadd f)
      (rowR (Spec.fbin tyFl true) f 1 (fun o => bitsRes (addF (fmtOf f.ty.toNat) f.rm.toNat f.sat o.ftz (flOf f.ty.toNat o.ftz o.a) (flOf f.ty.toNat o.ftz o.b))))
  | faddImm (f : IForm) : FloatRow (.faddImm f)
      (rowI Spec.iFl f (fun o => bitsRes (addF (fmtOf 8) 0 false o.ftz (flOf 8 o.ftz o.a) (flOf 8 o.ftz o.b))))
  | fsub (f : RForm) : FloatRow (.fsub f)
      (rowR (Spec.fbin tyFl true) f 1 (fun o => bitsRes (addF (fmtOf f.ty.toNat) f.rm.toNat f.sat o.ftz (flOf f.ty.toNat o.ftz o.a) (flOf f.ty.toNat o.ftz o.b).neg)))
  | fsubImm (f : IForm) : FloatRow (.fsubImm f)
      (rowI Spec.iFl f (fun o => bitsRes (addF (fmtOf 8) 0 false o.ftz (flOf 8 o.ftz o.a) (flOf 8 o.ftz o.b).neg)))
  | fmul (f : RForm) : FloatRow (.fmul f)
      (rowR (Spec.fbin tyFl true) f 1 (fun o => bitsRes (mulF (fmtOf f.ty.toNat) f.rm.toNat f.sat o.ftz (flOf f.ty.toNat o.ftz o.a) (flOf f.ty.toNat o.ftz o.b))))
  | fmulImm (f : IForm) : FloatRow (.fmulImm f)
      (rowI Spec.iFl f (fun o => bitsRes (mulF (fmtOf 8) 0 false o.ftz (flOf 8 o.ftz o.a) (flOf 8 o.ftz o.b))))
  | ffma (f : RForm) : FloatRow (.ffma f)
      (rowR (Spec.ftri tyFl) f 1 (fun o => bitsRes (fmaF (fmtOf f.ty.toNat) f.rm.toNat f.sat o.ftz (flOf f.ty.toNat o.ftz o.a) (flOf f.ty.toNat o.ftz o.b) (flOf f.ty.toNat o.ftz o.c))))
  | fmin (f : RForm) : FloatRow (.fmin f)
      (rowR (Spec.fbin tyFl false) f 1 (fun o => bitsRes (minMaxF (fmtOf f.ty.toNat) false false o.ftz o.a.toNat o.b.toNat)))
  | fminImm (f : IForm) : FloatRow (.fminImm f)
      (rowI Spec.iFl f (fun o => bitsRes (minMaxF (fmtOf 8) false false o.ftz o.a.toNat o.b.toNat)))
  | fmax (f : RForm) : FloatRow (.fmax f)
      (rowR (Spec.fbin tyFl false) f 1 (fun o => bitsRes (minMaxF (fmtOf f.ty.toNat) true false o.ftz o.a.toNat o.b.toNat)))
  | fmaxImm (f : IForm) : FloatRow (.fmaxImm f)
      (rowI Spec.iFl f (fun o => bitsRes (minMaxF (fmtOf 8) true false o.ftz o.a.toNat o.b.toNat)))
  | fminn (f : RForm) : FloatRow (.fminn f)
      (rowR (Spec.fbin tyFl false) f 1 (fun o => bitsRes (minMaxF (fmtOf f.ty.toNat) false true o.ftz o.a.toNat o.b.toNat)))
  | fminnImm (f : IForm) : FloatRow (.fminnImm f)
      (rowI Spec.iFl f (fun o => bitsRes (minMaxF (fmtOf 8) false true o.ftz o.a.toNat o.b.toNat)))
  | fmaxn (f : RForm) : FloatRow (.fmaxn f)
      (rowR (Spec.fbin tyFl false) f 1 (fun o => bitsRes (minMaxF (fmtOf f.ty.toNat) true true o.ftz o.a.toNat o.b.toNat)))
  | fmaxnImm (f : IForm) : FloatRow (.fmaxnImm f)
      (rowI Spec.iFl f (fun o => bitsRes (minMaxF (fmtOf 8) true true o.ftz o.a.toNat o.b.toNat)))
  | fcmp (f : RForm) : FloatRow (.fcmp f) (rowR Spec.fcmp f 1 (fcmpRes f.ty.toNat f.cc.toNat))
  | fcmpImm (cc : Fin 6) (f : IForm) : FloatRow (.fcmpImm cc f) (rowI (Spec.iCmp [8]) f (fcmpRes 8 cc))
  | fclass (f : RForm) : FloatRow (.fclass f)
      (rowR (Spec.fun1 tyFl false false) f 1 (fun o => { d := 1 <<< fclassBit (fmtOf f.ty.toNat) (flOf f.ty.toNat o.ftz o.a) }))
  | frcp (f : RForm) : FloatRow (.frcp f)
      (rowR (Spec.fun1 [8, 6] true true) f 4 (fun o => bitsRes (frcpF (fmtOf f.ty.toNat) f.rm.toNat f.sat o.ftz (flOf f.ty.toNat o.ftz o.a))))
  | frsq (f : RForm) : FloatRow (.frsq f)
      (rowR (Spec.fun1 [8, 6] false false) f 4 (fun o => bitsRes (frsqF (fmtOf f.ty.toNat) o.ftz (openOf f.ty.toNat Config.frsq32 Config.frsq16 o.a) (flOf f.ty.toNat o.ftz o.a))))
  | fsqrt (f : RForm) : FloatRow (.fsqrt f)
      (rowR (Spec.fun1 [8, 6] true false) f 4 (fun o => bitsRes (fsqrtF (fmtOf f.ty.toNat) f.rm.toNat o.ftz (flOf f.ty.toNat o.ftz o.a))))
  | fexp2 (f : RForm) : FloatRow (.fexp2 f)
      (rowR (Spec.fun1 [8, 6] false false) f 4 (fun o => bitsRes (fexp2F (fmtOf f.ty.toNat) o.ftz (openOf f.ty.toNat Config.fexp2f32 Config.fexp2f16 o.a) (flOf f.ty.toNat o.ftz o.a))))
  | flog2 (f : RForm) : FloatRow (.flog2 f)
      (rowR (Spec.fun1 [8, 6] false false) f 4 (fun o => bitsRes (flog2F (fmtOf f.ty.toNat) o.ftz (openOf f.ty.toNat Config.flog2f32 Config.flog2f16 o.a) (flOf f.ty.toNat o.ftz o.a))))
  | fsin (f : RForm) : FloatRow (.fsin f)
      (rowR (Spec.fun1 [8, 6] false false) f 4 (fun o => bitsRes (fsinF false (fmtOf f.ty.toNat) o.ftz (openOf f.ty.toNat Config.fsin32 Config.fsin16 o.a) (flOf f.ty.toNat o.ftz o.a))))
  | fcos (f : RForm) : FloatRow (.fcos f)
      (rowR (Spec.fun1 [8, 6] false false) f 4 (fun o => bitsRes (fsinF true (fmtOf f.ty.toNat) o.ftz (openOf f.ty.toNat Config.fcos32 Config.fcos16 o.a) (flOf f.ty.toNat o.ftz o.a))))
  | ftanh (f : RForm) : FloatRow (.ftanh f)
      (rowR (Spec.fun1 [8, 6] false false) f 4 (fun o => bitsRes (ftanhF (fmtOf f.ty.toNat) o.ftz (openOf f.ty.toNat Config.ftanh32 Config.ftanh16 o.a) (flOf f.ty.toNat o.ftz o.a))))
  | frnd (f : RForm) : FloatRow (.frnd f)
      (rowR (Spec.fun1 tyFl true false) f 1 (fun o => bitsRes (frndF (fmtOf f.ty.toNat) f.rm.toNat o.ftz (flOf f.ty.toNat o.ftz o.a))))
  | ffrc (f : RForm) : FloatRow (.ffrc f)
      (rowR (Spec.fun1 tyFl false false) f 1 (fun o => bitsRes (ffrcF (fmtOf f.ty.toNat) o.ftz (flOf f.ty.toNat o.ftz o.a))))
  | fldexp (f : RForm) : FloatRow (.fldexp f)
      (rowR (Spec.fbin tyFl true) f 1 (fun o => bitsRes (fldexpF (fmtOf f.ty.toNat) f.rm.toNat f.sat o.ftz (flOf f.ty.toNat o.ftz o.a) (lo32 o.b).toInt)))
  | fldexpImm (f : IForm) : FloatRow (.fldexpImm f)
      (rowI Spec.iFl f (fun o => bitsRes (fldexpF (fmtOf 8) 0 false o.ftz (flOf 8 o.ftz o.a) (lo32 o.b).toInt)))
  | fgetexp (f : RForm) : FloatRow (.fgetexp f)
      (rowR (Spec.fun1 tyFl false false) f 1 (fun o => bitsRes (fgetexpF (flOf f.ty.toNat o.ftz o.a))))
  | hadd2 (f : RForm) : FloatRow (.hadd2 f)
      (rowR (Spec.fbin tyHalf true) f 1 (fun o => halves (fun x y _ => addF (fmtOf f.ty.toNat) f.rm.toNat f.sat o.ftz (halfOf f.ty.toNat o.ftz x) (halfOf f.ty.toNat o.ftz y)) o))
  | hmul2 (f : RForm) : FloatRow (.hmul2 f)
      (rowR (Spec.fbin tyHalf true) f 1 (fun o => halves (fun x y _ => mulF (fmtOf f.ty.toNat) f.rm.toNat f.sat o.ftz (halfOf f.ty.toNat o.ftz x) (halfOf f.ty.toNat o.ftz y)) o))
  | hfma2 (f : RForm) : FloatRow (.hfma2 f)
      (rowR (Spec.ftri tyHalf) f 1 (fun o => halves (fun x y z => fmaF (fmtOf f.ty.toNat) f.rm.toNat f.sat o.ftz (halfOf f.ty.toNat o.ftz x) (halfOf f.ty.toNat o.ftz y) (halfOf f.ty.toNat o.ftz z)) o))
  | hmin2 (f : RForm) : FloatRow (.hmin2 f)
      (rowR (Spec.fbin tyHalf false) f 1 (fun o => halves (fun x y _ => minMaxF (fmtOf f.ty.toNat) false false o.ftz x y) o))
  | hmax2 (f : RForm) : FloatRow (.hmax2 f)
      (rowR (Spec.fbin tyHalf false) f 1 (fun o => halves (fun x y _ => minMaxF (fmtOf f.ty.toNat) true false o.ftz x y) o))
  | fdot2 (f : RForm) : FloatRow (.fdot2 f) (rowR (Spec.ftri tyHalf) f 1 (fdot2Res f))
  | fdot4 (f : RForm) : FloatRow (.fdot4 f) (rowR Spec.fdot4 f 1 (fdot4Res f))
  | idot4 (f : RForm) : FloatRow (.idot4 f) (rowR Spec.idot4 f 1 (idot4Res f))
  | cvt (f : RForm) : FloatRow (.cvt f) (rowR Spec.cvt f 1 (cvtRes f))
  | cvtpk (f : RForm) : FloatRow (.cvtpk f) (rowR (cvtpkSpec f) f 1 (cvtpkRes f))

/-- Cross-thread instructions (R133 to R136), SFIRST (R98), SRD (R99), BXPACK (R117) and BXUNPK (R118). -/
inductive CrossRow : Instr → Row → Prop where
  | shfl (f : RForm) : CrossRow (.shfl f)
    { issue := { issueOfR Spec.shfl f 1 with per := 1, extra := 2, uniform := false }
      mode := .perThread
      res := fun x act t =>
        let src := match shflSource (f.sub.toNat % 4) t (lo32 (x.rd t f.b f.bk false)) with
          | some u => if act.contains u then u else t
          | none => t
        (regWrites t f.d f.dk (is64 f.ty) (x.rd src f.a f.ak (is64 f.ty)), 0) }
  | vote (f : RForm) : CrossRow (.vote f)
    { issue := { issueOfR (voteSpec f) f 1 with extra := 2, uniform := false }
      mode := if f.dk then .once else .perThread
      res := fun x act t =>
        let p (u : Nat) : Bool := (x.thread u).pred (f.a.toNat % 32) != hasBit f.sub 2
        let d : DWord := match f.sub.toNat % 4 with
          | 0 => boolBits (act.any p)
          | 1 => boolBits (act.all p)
          | 2 => boolBits (act.all p || !act.any p)
          | _ => (maskOf (act.filter p)).setWidth 64
        (destWrites (voteSpec f).d f.d f.dk 0 0 t [t] { d := d }, 0) }
  | redw (f : RForm) : CrossRow (.redw f)
    { issue := { issueOfR Spec.redw f 1 with extra := 5, uniform := false }
      mode := if f.dk then .once else .perThread
      res := fun x act t =>
        let r := (redTree (redOp f x.team.ftz) (leaves f x act)).getD (0, 0)
        (regWrites t f.d f.dk (is64 f.ty) r.1, r.2) }
  | scanw (f : RForm) : CrossRow (.scanw f)
    { issue := { issueOfR Spec.scanw f 1 with extra := 5, uniform := false }
      mode := .perThread
      res := fun x act t =>
        let src : Option Nat := if hasBit f.sub 3 then ((act.filter (decide <| · < t)).getLast?) else some t
        let r := match src with
          | none => (redIdentity f, 0)
          | some u => ((scanTree (redOp f x.team.ftz) (leaves f x act)).getD u none).getD (0, 0)
        (regWrites t f.d f.dk (is64 f.ty) r.1, r.2) }
  | matchw (f : RForm) : CrossRow (.matchw f)
    { issue := { issueOfR Spec.matchw f 1 with per := 2, extra := 2, uniform := false }
      mode := .perThread
      res := fun x act t =>
        let v (u : Nat) : DWord := x.rd u f.a f.ak (is64 f.ty)
        (regWrites t f.d f.dk false ((maskOf (act.filter fun u => v u == v t)).setWidth 64), 0) }
  | sfirst (f : RForm) : CrossRow (.sfirst f)
    { issue := { issueOfR Spec.sfirst f 1 with uniform := true }
      mode := .once
      res := fun x _ t => (regWrites 0 f.d true (is64 f.ty) (x.rd t f.a false (is64 f.ty)), 0) }
  | srd (f : RForm) : CrossRow (.srd f)
    { issue :=
        { g := f.g, uniform := true
          writes := (List.range (specialRegs f.a.toNat)).map fun k => if f.dk then .s (f.d.toNat + k) else .v (f.d.toNat + k) }
      mode := if f.dk then .once else .wholeRun
      res := fun x _ t =>
        ((List.range (specialRegs f.a.toNat)).map fun k =>
          let w : Word := BitVec.ofNat 32 (x.special t f.a.toNat >>> (32 * k))
          if f.dk then .s (f.d.toNat + k) w else .v t (f.d.toNat + k) w, 0) }
  | bxunpk (f : RForm) : CrossRow (.bxunpk f)
    { issue := { issueOfR Spec.bxunpk f 1 with extra := 2 }
      mode := .perThread
      res := fun x act t =>
        let bx4 := f.sub == 12
        let e := (x.rd 0 f.b f.bk false).toNat
        let sup := if bx4 then t / 8 else t / 4
        let r : Nat × Flags :=
          if act.contains sup then
            let w := (x.rd sup f.a f.ak false).toNat
            let el := if bx4 then w / 16 ^ (t % 8) % 16 else w / 256 ^ (t % 4) % 256
            (fmtOf f.ty.toNat).convert f.rm.toNat false x.team.ftz (bxDecode bx4 (e % 256) (e / 256 % 256) el)
          else nanInvalid (fmtOf f.ty.toNat)
        (regWrites t f.d f.dk false (BitVec.ofNat 64 r.1), r.2) }
  | bxpack (f : RForm) : CrossRow (.bxpack f)
    { issue := { issueOfR Spec.bxpack f 2 with extra := 4 }
      mode := .perThread
      res := fun x act t =>
        let src := act.map fun u => (u, (x.rd u f.a f.ak false).toNat)
        let b := bxEncode (f.ty == 12) (src.map fun q => flOf (f.sub.toNat % 16) x.team.ftz (BitVec.ofNat 64 q.2))
        let exact := match act.findIdx? (· == t) with
          | some k => b.exact.getD k true
          | none => true
        (regWrites t f.d f.dk false (BitVec.ofNat 64 (bxpackWord (f.ty == 12) (hasBit f.sub 4) src b t)),
          flagIf b.bad flInvalid ||| flagIf (!exact) flInexact) }

end Sys2Proof.Claims
end

