-- ==== Sys2Proof/ClaimsControl.lean ====
section
/-! DEFINITION. The terms of the statements about control, ordering, traps and the matrix stream. -/

namespace Sys2Proof.Claims

open Sys2Proof.Machine

/-- A team but for its waves and its reason to leave. -/
def still (q : Team) : Team := { q with waves := [], leave := none }

/-- The operations, role, budget, lane slot and unit of a wave. -/
def waveFixed (s : State) (w : WaveId) : Option (List Op × Nat × Nat × Nat × Nat) :=
  (s.waveAt w).map fun q => (q.2.ops, q.2.role, q.2.budget, q.2.lane, q.2.unit)

/-- Outside wave `w` nothing changes but time, what is scheduled, the free-value counter, the core's performance counters
and undo log, and `f` of the wave's team: not memory, no other core, team or wave. -/
structure TeamOnly (s t : State) (w : WaveId) (f : Team → Team) : Prop where
  rest : { t with cycle := s.cycle, agenda := s.agenda, cores := s.cores, ctr := s.ctr } = s
  agenda : s.agenda <+: t.agenda
  cores : ∀ c, c ≠ w.core → t.core c = s.core c
  core : (t.core w.core).quiet = (s.core w.core).quiet
  teams : ∀ o, o ≠ w.team → (t.core w.core).team o = (s.core w.core).team o
  team : (t.teamOf w).map still = (s.teamOf w).map fun q => still (f q)
  waves : ∀ n, n ≠ w.wid → (t.teamOf w).map (·.wave n) = (s.teamOf w).map (·.wave n)
  fixed : waveFixed t w = waveFixed s w

/-! Transfers (R122). -/

/-- Each transfer: how it issues, the link pair it writes, and each thread's target. -/
inductive TransferRow : Instr → Issue → Option (BitVec 6) → (Ctx → Nat → WAddr) → Prop where
  | bra (f : BForm) : TransferRow (.bra f) { g := f.g, uniform := true } none fun x _ => x.pc + f.target.signExtend 48
  | call (f : BForm) : TransferRow (.call f) { g := f.g, uniform := true, writes := regsOf f.d false true, whole := true } (some f.d)
      fun x _ => x.pc + f.target.signExtend 48
  | ret (f : RForm) : TransferRow (.ret f) { g := f.g, uniform := true, reads := regsOf f.a f.ak true } none
      fun x t => (x.rd t f.a f.ak true).setWidth 48
  | brx (f : RForm) : f.sub.getLsbD 0 = false →
      TransferRow (.brx f) { g := f.g, uniform := true, reads := regsOf f.a f.ak true } none
      fun x t => (x.rd t f.a f.ak true).setWidth 48
  | brxB (f : RForm) : f.sub.getLsbD 0 = true →
      TransferRow (.brx f) { g := f.g, uniform := true, reads := regsOf f.a f.ak true ++ regsOf f.b f.bk false } none
      fun x t => (x.rd t f.a f.ak true).setWidth 48 + ((x.rd t f.b f.bk false).setWidth 32).signExtend 48

/-- The threads that pass enter the clause at their target, the rest of the run falls through, and no other thread moves. -/
structure Went (s t : State) (x : Ctx) (ws : List RegWrite) (act : List Nat) (tgt : Nat → WAddr) : Prop where
  wrote : s.Wrote t x.w ws
  only : TeamOnly s t x.w id
  gone : ∀ a ∈ act, t.pcAt x.w a = tgt a + 1 ∧ (t.threadAt x.w a).cb = tgt a ∧ (t.threadAt x.w a).mark = true
  fell : ∀ a ∈ x.run, a ∉ act → t.pcAt x.w a = x.nextPc a
  others : ∀ a, a < 32 → a ∉ x.run → t.pcAt x.w a = s.pcAt x.w a
  kept : ∀ a, a < 32 → t.recAt x.w a = s.recAt x.w a ∧ (t.threadAt x.w a).life = (s.threadAt x.w a).life
  time : t.cycle = s.cycle + 1

/-! Instructions that change no register: they pass where a condition holds, with an effect on the team, and hold their run
elsewhere. -/

/-- No operation of class `k` beyond `n` is outstanding. -/
def within (x : Ctx) (k : OpClass) (n : BitVec 6) : Prop := x.wave.counter k ≤ n.toNat

/-- How it issues, when it passes, and what it does to the team (R127, R130, R174, R176 to R178, R180). -/
inductive PassRow : Instr → Issue → (Ctx → Prop) → (Ctx → List Nat → Team → Team) → Prop where
  | nop (f : RForm) : PassRow (.nop f) { g := f.g, uniform := true } (fun _ => True) fun _ _ q => q
  | yield (f : RForm) : PassRow (.yield f) { g := f.g, uniform := true } (fun _ => True) fun _ _ q => q
  | wait (f : IForm) : PassRow (.wait f) { g := f.g, uniform := true }
      (fun x => within x .ld (f.imm.extractLsb' 24 6) ∧ within x .st (f.imm.extractLsb' 18 6)
        ∧ within x .cp (f.imm.extractLsb' 12 6) ∧ within x .mx (f.imm.extractLsb' 6 6) ∧ within x .kc (f.imm.extractLsb' 0 6))
      fun _ _ q => q
  | twaitAll (f : XForm) : f.mod.getLsbD 0 = false →
      PassRow (.twait f) { g := f.g, uniform := true, reads := regsOf f.a true true }
        (fun x => x.wave.acquiring = false ∧ x.team.tags &&& x.spair f.a = x.spair f.a) fun _ _ q => q
  | twaitAny (f : XForm) : f.mod.getLsbD 0 = true →
      PassRow (.twait f) { g := f.g, uniform := true, reads := regsOf f.a true true }
        (fun x => x.wave.acquiring = false ∧ (x.spair f.a = 0 ∨ x.team.tags &&& x.spair f.a ≠ 0)) fun _ _ q => q
  | fenceAcq (f : XForm) : f.bits 3 2 = 1 → PassRow (.fence f) { g := f.g, uniform := true }
      (fun x => x.readsOpen = false) fun _ _ q => q
  | fenceRel (f : XForm) : f.bits 3 2 = 2 → PassRow (.fence f) { g := f.g, uniform := true } (fun _ => True) fun _ _ q => q
  | fenceAr (f : XForm) : f.bits 3 2 = 3 → PassRow (.fence f) { g := f.g, uniform := true }
      (fun x => x.unperformed (f.bits 0 3) = []) fun _ _ q => q
  | barinit (f : XForm) : PassRow (.barinit f) { g := f.g, uniform := true }
      (fun x => x.wave.acquiring = false ∧ x.spadOpen = false ∧ x.relWaits false = false)
      fun _ _ q => q.modBar f.bar.toNat (Bar.init (f.bits 0 5))
  | bara (f : XForm) : PassRow (.bara f) { g := f.g, uniform := true }
      (fun x => x.wave.acquiring = false ∧ x.spadOpen = false ∧ x.relWaits false = false)
      fun _ _ q => q.modBar f.bar.toNat (Bar.arrive 0)
  | barx (f : XForm) : PassRow (.barx f) { g := f.g, uniform := true, reads := regsOf f.a true false }
      (fun x => x.wave.acquiring = false ∧ x.spadOpen = false ∧ x.relWaits false = false)
      fun x _ q => q.modBar f.bar.toNat (Bar.arrive (x.sword f.a).toNat)
  | barw (f : XForm) : PassRow (.barw f) { g := f.g, uniform := true }
      (fun x => x.wave.acquiring = false ∧ (x.team.bar f.bar.toNat).p ≠ f.mod.getLsbD 0) fun _ _ q => q
  | mstart (f : BForm) : PassRow (.mstart f) { g := f.g, uniform := true }
      (fun x => x.team.mseq = true ∧ x.team.seq.run = false ∧ x.wave.acquiring = false ∧ x.spadOpen = false)
      fun x act q => { q with seq := { q.seq with
        m := List.replicate 16 0, spc := x.pc + f.target.signExtend 48, run := true
        recorder := some (x.w.wid, act.headD 0), word := none, stall := none } }

/-- The conditions under which such an instruction holds its run instead. -/
inductive HoldRow : Instr → Issue → (Ctx → Prop) → Prop where
  | of {i : Instr} {iss : Issue} {c : Ctx → Prop} {f : Ctx → List Nat → Team → Team} :
      (∀ g, i ≠ .mstart g) → PassRow i iss c f → HoldRow i iss fun x => ¬ c x
  | mstart (f : BForm) : HoldRow (.mstart f) { g := f.g, uniform := true }
      fun x => x.team.mseq = true ∧ (x.team.seq.run = true ∨ x.wave.acquiring = true ∨ x.spadOpen = true)
  | tfind (f : XForm) :
      HoldRow (.tfind f) { g := f.g, uniform := true, reads := regsOf f.a true true, writes := [.s f.d.toNat] }
        fun x => x.wave.acquiring = true
  | bart (f : XForm) : HoldRow (.bart f) { g := f.g, uniform := true, writes := [.s f.d.toNat] }
      fun x => x.wave.acquiring = true

/-! Traps that an instruction raises for every active thread (R128, R130). -/

/-- The undo log has room for the trap records of the active threads (R282). -/
def recordsFit (g : Guard) (x : Ctx) : Prop := x.room (x.rcdKeys (x.active g)) = true

inductive TrapRow : Instr → Issue → (Ctx → Prop) → Trap → Prop where
  | trap (f : IForm) : TrapRow (.trap f) { g := f.g, uniform := true } (recordsFit f.g) { code := 13, addr := 0, aux := f.imm }
  | bkpt (f : IForm) : TrapRow (.bkpt f) { g := f.g, uniform := true } (recordsFit f.g) { code := 12, addr := 0, aux := f.imm }
  | mstart (f : BForm) : TrapRow (.mstart f) { g := f.g, uniform := true } 
      (fun x => x.team.mseq = false ∧ recordsFit f.g x)
      { code := 1, addr := 0, aux := (f.toWord 0x0A).extractLsb' 32 32 }

/-! Instructions that deliver a result once, where no acquiring access is outstanding (R118, R179, R180, R288). -/

inductive UniformRow : Instr → Row → (Ctx → Prop) → Prop where
  | tfind (f : XForm) : UniformRow (.tfind f)
      { issue := { g := f.g, uniform := true, reads := regsOf f.a true true, writes := [.s f.d.toNat] }
        mode := .once
        res := fun x _ _ => ([.s f.d.toNat (BitVec.ofNat 32 (lowestBit (x.team.tags &&& x.spair f.a)))], 0) }
      fun x => x.wave.acquiring = false
  | bart (f : XForm) : UniformRow (.bart f)
      { issue := { g := f.g, uniform := true, writes := [.s f.d.toNat] }
        mode := .once
        res := fun x _ _ => ([.s f.d.toNat (if (x.team.bar f.bar.toNat).p ≠ f.mod.getLsbD 0 then 1 else 0)], 0) }
      fun x => x.wave.acquiring = false
  | perfr (f : RForm) : UniformRow (.perfr f)
      { issue := { g := f.g, uniform := true, writes := regsOf f.d true true }
        mode := .once
        res := fun x _ _ => (regWrites 0 f.d true true (x.core.perf.getD f.sub.toNat 0), 0) }
      fun _ => True

/-! RCV, EXIT and TRET (R125, R126, R129). -/

/-- The core's TLB holds the translation of the word at a thread's `%xcb`, that word is a legal header whose clause holds
its `%xpc`, and no reply denies it. -/
def Resumes (x : Ctx) (t : Nat) : Prop :=
  (x.thread t).deny = none ∧ (x.core.tlb.find? (·.hits x.team.proc (wordVa (x.thread t).xcb))).isSome = true
    ∧ ∃ h, (x.fetch (x.thread t).xcb).2 = .word h ∧ (Header.ofWord h).legal = true
      ∧ 1 ≤ ((x.thread t).xpc - (x.thread t).xcb).toNat
      ∧ ((x.thread t).xpc - (x.thread t).xcb).toNat ≤ (Header.ofWord h).count

/-! The matrix stream (R235 to R246). -/

/-- What a stream word does: nothing changes outside the sequencer's team but time, what is scheduled, the core's undo
log and counters, and who took the engine last. -/
structure SeqStep (s t : State) (x : SeqCtx) (q : Team) (ev : List (Nat × Due)) : Prop where
  team : (t.core x.c).team x.team.oid = some q
  teams : ∀ o, o ≠ x.team.oid → (t.core x.c).team o = (s.core x.c).team o
  core : ({ (t.core x.c).quiet with engineLast := none } : Core) = { (s.core x.c).quiet with engineLast := none }
  cores : ∀ c, c ≠ x.c → t.core c = s.core c
  rest : { t with cycle := s.cycle, agenda := s.agenda, cores := s.cores } = s
  agenda : t.agenda = s.agenda ++ ev
  time : t.cycle = s.cycle + 1

/-- The team after a word that leaves the sequencer at `spc` with stream registers `m`. -/
def atWord (q : Team) (spc : WAddr) (m : List Word) : Team := { q with seq := { q.seq with spc := spc, m := m, word := none } }

/-- A register of the sequencer with its new value. -/
def setM (x : SeqCtx) (n : BitVec 4) (v : Word) : List Word := putAt 16 0 n.toNat v x.team.seq.m

def fetchDue (x : SeqCtx) : List (Nat × Due) := [(x.s.cycle + 1, .streamFetch x.c x.team.oid)]

/-- The sequencer words (R244, R245): when each goes on, the team it leaves, and what is then due. -/
inductive SeqRow : Instr → (SeqCtx → Prop) → (SeqCtx → Team) → (SeqCtx → List (Nat × Due)) → Prop where
  | mbarw (f : MSForm) : SeqRow (.mbarw f)
      (fun x => (x.team.bar (f.imm.extractLsb' 0 4).toNat).p ≠ f.imm.getLsbD 4)
      (fun x => atWord x.team (x.team.seq.spc + 1) x.team.seq.m) fetchDue
  | mbara (f : MSForm) : SeqRow (.mbara f) (fun x => x.team.seq.busy = false)
      (fun x => atWord (x.team.modBar (f.imm.extractLsb' 0 4).toNat (Bar.arrive 0)) (x.team.seq.spc + 1) x.team.seq.m) fetchDue
  | mloopOn (f : MSForm) : SeqRow (.mloop f) (fun x => x.m f.m1 ≠ 1)
      (fun x => atWord x.team (x.team.seq.spc + f.imm.signExtend 48) (setM x f.m1 (x.m f.m1 - 1))) fetchDue
  | mloopOff (f : MSForm) : SeqRow (.mloop f) (fun x => x.m f.m1 = 1)
      (fun x => atWord x.team (x.team.seq.spc + 1) (setM x f.m1 0)) fetchDue
  | mjmp (f : MSForm) : SeqRow (.mjmp f) (fun _ => True)
      (fun x => atWord x.team (x.team.seq.spc + f.imm.signExtend 48) x.team.seq.m) fetchDue
  | maddi (f : MSForm) : SeqRow (.maddi f) (fun _ => True)
      (fun x => atWord x.team (x.team.seq.spc + 1) (setM x f.m1 (x.m f.m2 + f.imm))) fetchDue
  | mnop (f : MSForm) : SeqRow (.mnop f) (fun _ => True)
      (fun x => atWord x.team (x.team.seq.spc + 1) x.team.seq.m) fetchDue
  | mend (f : MSForm) : SeqRow (.mend f) (fun x => x.team.seq.busy = false)
      (fun x => { x.team with seq := { x.team.seq with run := false, word := none } }) (fun _ => [])

/-- The engine words (R238 to R243): bits 63:32 of each, its tile, the ranges it reads and writes, the team that its effects
leave but for the sequencer, and the cycles that it keeps the engine. -/
inductive EngineRow : Instr → Word → BitVec 3 → (SeqCtx → List Range) → (SeqCtx → List Range) → Bool → (SeqCtx → Team) → Nat → Prop where
  | mma (f : MSForm) : EngineRow (.mma f) ((f.toWord 1).extractLsb' 32 32) f.acc (mmaRanges f) (fun _ => []) true
      (fun x => x.team.setTile f.acc ((List.range 4096).map fun n =>
        mmaElem f x.team.sp (x.m f.m1).toNat (x.m f.m2).toNat (x.m (f.imm.extractLsb' 4 4)).toNat
          (x.m (f.imm.extractLsb' 8 4)).toNat ((x.team.tile f.acc).getD n 0) (n / 64) (n % 64)))
      (if f.fmta = 8 then 384 else 64)
  | mzero (f : MSForm) : EngineRow (.mzero f) ((f.toWord 2).extractLsb' 32 32) f.acc (fun _ => []) (fun _ => []) true
      (fun x => x.team.setTile f.acc (List.replicate 4096 0)) 4
  | mload (f : MSForm) : EngineRow (.mload f) ((f.toWord 3).extractLsb' 32 32) f.acc (fun x => [((x.m f.m1).toNat, 4096 * Win.fmtBytes f.fmta.toNat)])
      (fun _ => []) true
      (fun x => x.team.setTile f.acc ((List.range 4096).map fun n =>
        let w := Win.fmtBytes f.fmta.toNat
        let v := memNat x.team.sp ((x.m f.m1).toNat + w * n) w
        BitVec.ofNat 32 (if w = 4 then v else (f32.convert 0 false false ((fmtOf f.fmta.toNat).decode v)).1)))
      (if Win.fmtBytes f.fmta.toNat = 4 then 64 else 32)
  | mdrain (f : MSForm) : EngineRow (.mdrain f) ((f.toWord 4).extractLsb' 32 32) f.acc (fun _ => []) (drainRanges f) false
      (fun x =>
        let cells (c : Nat) (d e : BitVec 4) (el : Nat → Nat → Word) : List Host.Cell :=
          drainCells c (f.imm.extractLsb' 4 2).toNat (f.imm.getLsbD 6) (x.m d).toNat (x.m e).toNat el
        let word (n : Nat) : Word := (x.team.tile f.acc).getD n 0
        let a := cells f.fmta.toNat f.m1 (f.imm.extractLsb' 0 4) fun r k => word (64 * r + k)
        let b := if f.imm.getLsbD 11 then cells f.fmtb.toNat f.m2 f.m3 fun r k => word (64 * k + r) else []
        { x.team with sp := memWrites (memWrites x.team.sp a) b })
      (if f.imm.getLsbD 11 then 128 else 64)

/-- The undo-log lines that an engine word's results touch (R280). -/
def engineLines (x : SeqCtx) (acc : BitVec 3) (out : List Range) (tile : Bool) : List LogKey :=
  out.flatMap (fun r => spadKeys x.team.oid r.1 r.2)
    ++ if tile then (List.range 256).map fun k => LogKey.tile x.team.oid (256 * acc.toNat + k) else []

/-- The team after an engine word has begun: the sequencer goes on, and the word is in the engine with the stream registers as
they stand (R236, R238). -/
def engaged (i : Instr) (q : Team) : Team :=
  { q with seq := { q.seq with spc := q.seq.spc + 1, word := none, engine := some (i, q.seq.m), seen := q.sp } }

/-- A team's sequencer as the engine word in hand sees it: with the stream registers that the word read. -/
def inEngine (s : State) (c : CoreId) (q : Team) (m : List Word) : SeqCtx :=
  ⟨s, c, s.core c, { q with seq := { q.seq with m := m } }⟩

end Sys2Proof.Claims
end

