-- ==== Sys2Proof/ClaimsMemory.lean ====
section
/-! DEFINITION. The terms of the statements about loads, stores, atomics, maintenance and the scratchpad. -/

namespace Sys2Proof.Claims

open Sys2Proof.Machine

/-- What an instruction leaves pending: the operation it raises, its effects in the hold-back buffer with their entries, and what
is due for the operation, each by the operation's name. -/
structure Effect where
  op : Op
  held : List (Nat → HeldKind × Nat) := []
  due : Option (Nat → Due) := none
  rcache : Option (List RecEnt) := none

/-- An operation that is complete as it issues. -/
def counted (k : OpClass) : Effect := { op := { id := 0, cls := k, done := true } }

/-- A core but for its teams, its counters, its undo log, what it caches and its hold-back buffer. -/
def coreFixed (k : Core) : Core :=
  { k with teams := [], perf := [], held := [], tlb := [], rcache := [], l1 := [], code := [], cur := k.cur.map fun h => { h with log := [] } }

/-- The run goes on with no register changed; the wave has the operation, which retires in its turn, the hold-back buffer
the effect behind every earlier one, and nothing else changes but `f` of the team. -/
structure Accessed (s t : State) (x : Ctx) (e : Effect) (f : Team → Team) (cost : Nat) : Prop where
  passed : s.Passed t x cost
  ops : (t.waveAt x.w).map (·.2.ops) = some (({ x.wave with
    ops := x.wave.ops ++ [{ e.op with id := s.nextId, heat := x.heatNum }] } : Wave).retireAll.ops)
  held : (t.core x.w.core).held = x.core.held
    ++ e.held.map fun q => (⟨x.heatNum, ⟨x.w.team, x.w.wid, s.nextId⟩, (q s.nextId).1, (q s.nextId).2, false⟩ : Held)
  team : (t.teamOf x.w).map still = (s.teamOf x.w).map fun q => still (f q)
  core : coreFixed (t.core x.w.core) = coreFixed (s.core x.w.core)
  rcache : (t.core x.w.core).rcache = e.rcache.getD x.core.rcache
  due : ∀ d, e.due = some d → ∃ n, s.cycle < n ∧ (n, d s.nextId) ∈ t.agenda

/-- An instruction that accesses memory through a buffer record (R158 to R169): its counter, the right it needs, its offset
and checks, when nothing makes it wait, and its effect. -/
structure Access where
  issue : Issue
  cls : OpClass
  need : BitVec 3
  buf : BitVec 4
  addr : BufRec → Int → BitVec 57 := bufVa
  off : Ctx → Nat → Int
  check : BufRec → Int → Checked
  ready : Ctx → List (Nat × Fate) → Prop
  effect : Ctx → List (Nat × Fate) → Effect

/-- The threads' accesses as checked and translated. -/
def Access.fates (a : Access) (x : Ctx) (act : List Nat) : Ctx × List (Nat × Fate) :=
  x.fates a.issue act a.need (a.addr (x.wave.breg a.buf.toNat)) (a.off x) (a.check (x.wave.breg a.buf.toNat))

/-- No acquiring access is outstanding and the counter stands below 62 (R169, R170). -/
def free (x : Ctx) (k : OpClass) : Prop := x.wave.acquiring = false ∧ x.wave.counter k < 62

def bytesOf (f : MForm) : Nat := 2 ^ f.width.toNat

/-- zext(A) + sext(OFF20) (R157). -/
def offsetOf (f : MForm) (x : Ctx) (t : Nat) : Int := (((x.rd t f.a f.ak false).setWidth 32).toNat : Int) + f.off.toInt

/-- The registers that `bytes` bytes fill from D on (R161). -/
def dRegs (f : MForm) (bytes : Nat) : List Reg :=
  (List.range ((bytes + 3) / 4)).map fun j => if f.dk then .s (f.d.toNat + j) else .v (f.d.toNat + j)

/-- How a class-2 word issues: uniform as R25 says, with the offset register and the record among its sources. -/
def accIssue (f : MForm) (uniform : Bool) (reads writes : List Reg) : Issue :=
  { g := f.g, uniform := uniform, reads := regsOf f.a f.ak false ++ reads ++ [.b f.buf.toNat], writes := writes }

/-- A load's value for each thread, zeros where it is out of range. -/
def loadEffect (x : Ctx) (pend : List Reg) (acq : Bool) (ws : List RegWrite) : Effect :=
  { op := { id := 0, cls := .ld, pend := pend, result := ws, acq := acq }, due := some fun id => .loadResult x.w id }

/-- The cells of a store: in-range bytes of each thread's data, in ascending thread order (R162). -/
def storeOf (f : MForm) (y : Ctx) (fs : List (Nat × Fate)) : List Host.Cell :=
  fs.flatMap fun q => storeCells (y.dataFrom f q.1 0 ((bytesOf f + 3) / 4)) q.2

/-- An effect that is held: the operation is out until its place in the order has come (R168, R283). -/
def heldEffect (o : Op) (k : HeldKind) (n : Nat) : Effect := { op := { o with out := true }, held := [fun _ => (k, n)] }

def maintAccess (f : MForm) (inv : Bool) : Access where
  issue := accIssue f f.ak [] []
  cls := .st
  need := 1
  buf := f.buf
  addr := fun b o => BitVec.ofInt 57 (bufBase b + o)
  off := offsetOf f
  check b := checkLine b f.buf.toNat
  ready y fs := y.relWaits true = false ∧ y.holdRoom (linesOf (fateKeys fs)).length = true
  effect _ fs :=
    let n := (linesOf (fateKeys fs)).length
    if n = 0 then counted .st else heldEffect { id := 0, cls := .st } (.maint (if inv then linesOf (fateKeys fs) else []) f.scope.toNat) n

/-! Atomics (R164 to R166). -/

/-- The threads whose applications are performed outside the core (a scope wider than core, a TSO page, memory at the host
past the caches), and those whose are performed in its L1 (R166, R193, R344). -/
def farApps (f : MForm) (y : Ctx) (fs : List (Nat × Fate)) : List AtomApp := y.atomApps f (atomFar f) fs
def nearApps (f : MForm) (y : Ctx) (fs : List (Nat × Fate)) : List AtomApp := y.atomApps f (fun q => !atomFar f q) fs

/-- A thread out of range under Z reads as zeros (R165). -/
def atomZeros (f : MForm) (ret : Bool) (fs : List (Nat × Fate)) : List RegWrite :=
  if ret then (fs.filter fun q => q.2 = .drop).flatMap fun q => loadWrites (dRegs f (bytesOf f)) q.1 (bytesOf f) false 0 else []

def atomReady (f : MForm) (y : Ctx) (fs : List (Nat × Fate)) : Prop :=
  let lines := linesOf ((nearApps f y fs).map (·.addr))
  ((f.order.getLsbD 1 = true ∨ fateTso fs = true) → y.spadOpen = false ∧ y.kcOpen = false)
    ∧ (fateTso fs = true → y.unperformed 7 = []) ∧ y.relWaits (nearApps f y fs).isEmpty = false
    ∧ (farApps f y fs ≠ [] → y.holdRoom (linesOf ((farApps f y fs).map (·.addr))).length = true)
    ∧ (nearApps f y fs ≠ [] →
      y.readWaits ((nearApps f y fs).flatMap fun a => (List.range (bytesOf f)).map (a.addr + ·)) false = none
        ∧ y.core.l1Busy ((nearApps f y fs).flatMap fun a => (List.range (bytesOf f)).map (a.addr + ·)) = false
        ∧ (y.core.pinned ++ lines).eraseDups.length ≤ 512 ∧ y.room (lines.map LogKey.l1) = true)

/-- The applications in ascending thread order, each upon what the one before left (R165): the old words, and the bytes. -/
def atomRun (f : MForm) (y : Ctx) (fs : List (Nat × Fate)) : List (Nat × Nat) × List Host.Cell :=
  applyAtoms f.sub.toNat (bytesOf f) (fun cs a => overlayNat (y.s.coreRead y.core y.team.part) cs a (bytesOf f))
    (nearApps f y fs) []

def atomEffect (f : MForm) (ret : Bool) (y : Ctx) (fs : List (Nat × Fate)) : Effect :=
  let rs := dRegs f (bytesOf f)
  let old := (atomRun f y fs).1.flatMap fun q => loadWrites (rs.take (bytesOf f / 4)) q.1 (bytesOf f) false q.2
  let o : Op :=
    { id := 0, cls := if ret then .ld else .st, pend := if ret then rs else [],
      result := (if ret then old else []) ++ atomZeros f ret fs, acq := (ret && f.order.getLsbD 0) || fateTso fs }
  let l1 : List (Nat → HeldKind × Nat) := if nearApps f y fs = [] then [] else [fun _ => (.l1 (atomRun f y fs).2, 0)]
  if farApps f y fs ≠ [] then
    { op := { o with out := true, result := [], due := if o.result = [] then [] else [(y.s.cycle, o.result)], left := 1 }
      held := l1 ++ [fun id => (.atomic f.sub.toNat (bytesOf f) (if ret then some id else none) (farApps f y fs),
        (linesOf ((farApps f y fs).map (·.addr))).length)]
      due := if o.result = [] then none else some fun id => .loadResult y.w id }
  else if nearApps f y fs ≠ [] then
    { op := o, held := l1, due := some fun id => if ret then .loadResult y.w id else .storePerformed y.w id }
  else if atomZeros f ret fs = [] then counted o.cls
  else loadEffect y rs o.acq (atomZeros f ret fs)

def atomAccess (f : MForm) (ret : Bool) : Access where
  issue := accIssue f (f.ak && f.dk) (dRegs f (if f.sub = 10 then 2 * bytesOf f else bytesOf f))
    (if ret then dRegs f (bytesOf f) else [])
  cls := if ret then .ld else .st
  need := 3
  buf := f.buf
  off := offsetOf f
  check b o := checkAcc b f.buf.toNat o (bytesOf f) true
  ready := atomReady f
  effect := atomEffect f ret

/-- The instructions that access memory through a record (R162, R165, R167, R168). -/
inductive AccessRow : Instr → Access → Prop where
  | ldb (f : MForm) : AccessRow (.ldb f)
    { issue := accIssue f (f.ak && f.dk) [] (dRegs f (bytesOf f)), cls := .ld, need := 1, buf := f.buf, off := offsetOf f
      check := fun b o => checkAcc b f.buf.toNat o (bytesOf f) false
      ready := fun y fs => y.readWaits (fateKeys fs) (f.sub.getLsbD 3) = none
      effect := fun y fs => loadEffect y (dRegs f (bytesOf f)) false
        (fs.flatMap fun q => loadWrites (dRegs f (bytesOf f)) q.1 (bytesOf f) (f.sub.getLsbD 2) (y.loadNat q.2)) }
  | ldc (f : MForm) : AccessRow (.ldc f)
    { issue := accIssue f true [] [.b f.d.toNat], cls := .ld, need := 1, buf := f.buf, off := offsetOf f
      check := fun b o => checkAcc b f.buf.toNat o 16 true
      ready := fun y fs => y.readWaits (fateKeys fs) false = none
      effect := fun y fs => loadEffect y [.b f.d.toNat] false
        (fs.map fun q => .b f.d.toNat (if q.2 = .drop then 0 else BitVec.ofNat 128 (y.loadNat q.2))) }
  | stb (f : MForm) : AccessRow (.stb f)
    { issue := accIssue f (f.ak && f.dk) (dRegs f (bytesOf f)) [], cls := .st, need := 2, buf := f.buf, off := offsetOf f
      check := fun b o => checkAcc b f.buf.toNat o (bytesOf f) false
      ready := fun y fs => ((f.order = 2 ∨ fateTso fs = true) → y.spadOpen = false ∧ y.kcOpen = false) ∧ y.relWaits true = false
        ∧ y.holdRoom (linesOf ((storeOf f y fs).map (·.1))).length = true
      effect := fun y fs =>
        if storeOf f y fs = [] then counted .st
        else heldEffect { id := 0, cls := .st } (.store (storeOf f y fs)) (linesOf ((storeOf f y fs).map (·.1))).length }
  | atb (f : MForm) : AccessRow (.atb f) (atomAccess f true)
  | redb (f : MForm) : AccessRow (.redb f) (atomAccess f false)
  | cinv (f : MForm) : AccessRow (.cinv f) (maintAccess f true)
  | cwb (f : MForm) : AccessRow (.cwb f) (maintAccess f false)

/-- Every access commits: none traps and none misses. -/
def Commit (fs : List (Nat × Fate)) : Prop := ∀ q ∈ fs, fateLoads q.2 = true

/-- Every access traps. -/
def Refused (fs : List (Nat × Fate)) : Prop := ∀ q ∈ fs, ∃ tr, q.2 = .trap tr

/-- The trap that a thread takes: its own, or for a uniform form the wave's (R163). -/
def trapOf (a : Access) (fs : List (Nat × Fate)) (t : Nat) (tr : Trap) : Prop :=
  if a.issue.uniform then ∃ u, (u, Fate.trap tr) ∈ fs else (t, Fate.trap tr) ∈ fs

/-! The checks of an access (R158). -/

/-- The chunk that holds byte `k` lies wholly within the record's extent. -/
def ChunkIn (b : BufRec) (o : Int) (w k : Nat) : Prop :=
  let c := min (2 ^ bufEsz b) w
  ∀ j < c, 0 ≤ o + (k / c * c + j : Nat) ∧ o + (k / c * c + j : Nat) < bufExtent b

/-! The scratchpad (R170). -/

/-- LDS, STS and ATS: the counter, the registers read and written, and what each thread asks of its banks. -/
inductive SpadRow : Instr → MForm → OpClass → List Reg → List Reg → (Ctx → Nat → BankAct) → Prop where
  | lds (f : MForm) : SpadRow (.lds f) f .ld [] (dRegs f (bytesOf f)) fun _ _ => .read (dRegs f (bytesOf f)) (f.sub.getLsbD 2)
  | sts (f : MForm) : SpadRow (.sts f) f .st (dRegs f (bytesOf f)) []
      fun x t => .write (bytesLE (bytesOf f) (x.dataFrom f t 0 ((bytesOf f + 3) / 4)))
  | ats (f : MForm) : SpadRow (.ats f) f .ld (dRegs f (if f.sub = 10 then 2 * bytesOf f else bytesOf f)) (dRegs f (bytesOf f))
      fun x t => .atomic f.sub.toNat (x.atomApp f t 0).x (x.atomApp f t 0).y (dRegs f (bytesOf f))

def spadIssue (f : MForm) (reads writes : List Reg) : Issue :=
  { g := f.g, uniform := f.ak && f.dk, reads := regsOf f.a f.ak false ++ reads, writes := writes }

/-- The bank requests of the instruction's threads, in ascending order, one a cycle; a uniform form makes one. -/
def spadReqs (f : MForm) (x : Ctx) (act : List Nat) (b : Ctx → Nat → BankAct) : List BankReq :=
  (if f.ak && f.dk then act.take 1 else act).mapIdx fun n t =>
    ⟨x.s.cycle + n, x.wave.lane, x.w.wid, x.s.nextId, t, (offsetOf f x t).toNat, bytesOf f, b x t⟩

end Sys2Proof.Claims
end

