-- ==== Sys2Proof/ClaimsCopies.lean ====
section
/-! DEFINITION. The terms of the statements about asynchronous copies. -/

namespace Sys2Proof.Claims

open Sys2Proof.Machine

/-- No pending operation, busy tag, acquiring access or fence makes a copy wait at issue (R170, R176, R218; the wave's own
scratchpad accesses by log 18). -/
def CopyFree (f : XForm) (x : Ctx) (cls : OpClass) (out : Bool) : Prop :=
  x.wave.counter cls < 62 ∧ (f.tv = true → x.team.busy.getLsbD f.tag.toNat = false) ∧ x.wave.acquiring = false
    ∧ x.spadOpen = false ∧ x.relWaits out = false

/-- The record at `ra` as the copy reads it, and the context it leaves: from the record cache, or from its three lines,
which the cache then holds (R209, R216; log 19). -/
inductive RecordRead (x : Ctx) (ra : BitVec 57) : Ctx → ShapeRec → Prop where
  | cached (e : RecEnt) :
      (x.core.rcache.find? fun e => e.proc == x.team.proc && e.ra == ra) = some e → RecordRead x ra x e.rcd
  | fetched (y : Ctx) (tr : List (BitVec 57 × Walk)) (keys : List Nat) :
      (x.core.rcache.find? fun e => e.proc == x.team.proc && e.ra == ra) = none →
      x.lines (recLines ra) = (y, tr) →
      (∀ l ∈ recLines ra, ∃ t, tr.lookup l = some (.found t) ∧ t.refuses 1 = none) →
      keys = (recLines ra).filterMap (fun l => match tr.lookup l with | some (.found t) => y.s.keyUnder t l | _ => none) →
      keys.length = 3 → y.readWaits (keys.flatMap fun k => (List.range 64).map (k + ·)) false = none →
      RecordRead x ra
        ((y.modCore fun k => { k with rcache := fill 64 ⟨x.team.proc, ra, BitVec.ofNat 1536 (natLE (keys.flatMap fun a =>
          (List.range 64).map fun k => y.s.coreRead y.core y.team.part (a + k))), keys, x.team.part⟩ k.rcache }).modState
            (·.ages x.core.id))
        (BitVec.ofNat 1536 (natLE (keys.flatMap fun a => (List.range 64).map fun k => y.s.coreRead y.core y.team.part (a + k))))

/-- Every page that the copy needs is translated, with its rights and not granted away, and pinned (R215, R218). -/
def Pinned (y : Ctx) (needs : List Need) (z : Ctx) (pins : List Tlb) : Prop :=
  ∃ tr, y.pages (needs.map fun n => vpnOf n.va).eraseDups = (z, tr)
    ∧ (∀ n ∈ needs, ∃ t, tr.lookup (vpnOf n.va) = some (.found t) ∧ t.missing n.rights = 0 ∧ t.gr = false)
    ∧ pins = (tr.filterMap fun q => match q.2 with | .found t => some t | _ => none).eraseDups

/-- A copy handed to its engine: its operation, and its gate in the hold-back buffer or its landing to come, in a cycle that is
left open (R218, R283). -/
def copyEffect (x : Ctx) (cls : OpClass) (out : Bool) : Effect where
  op := { id := 0, cls := cls, out := out }
  held := if out then [fun id => (.copy x.w.team id, 1)] else []
  due := if out then none else some fun id => .copyLand x.w.core x.w.team id

/-- The team with the copy in flight: its tag is busy and its ready bit clear (R224). -/
def withCopy (x : Ctx) (f : XForm) (out : Bool) (c : Copy) (t : Team) : Team :=
  { t with
    copies := t.copies ++ [{ c with
      id := x.s.nextId, wid := x.w.wid, op := x.s.nextId, tag := if f.tv then some f.tag.toNat else none
      bar := if f.bv then some f.bar.toNat else none, heat := x.heatNum, gate := out }]
    tags := if f.tv then t.tags &&& ~~~((1 : DWord) <<< f.tag.toNat) else t.tags
    busy := if f.tv then t.busy ||| ((1 : DWord) <<< f.tag.toNat) else t.busy }

/-- The copies that take a record (R217 to R221): the direction, the rights needed, further faults of the record, further
registers read, and the row indices. -/
inductive RecordRow : Instr → XForm → Bool → BitVec 3 → (Win → List Nat) → List Reg → (Ctx → Option (List Word) → Prop) → Prop where
  | tcopy (f : XForm) : RecordRow (.tcopy f) f false 1 (fun _ => [])
      ((if f.mod.getLsbD 0 then [.s f.b.toNat] else []) ++ (if f.mod.getLsbD 4 then [.s f.c.toNat] else [])) fun _ i => i = none
  | tstore (f : XForm) : RecordRow (.tstore f) f true 2 (fun _ => [])
      ((if f.mod.getLsbD 0 then [.s f.b.toNat] else []) ++ (if f.mod.getLsbD 4 then [.s f.c.toNat] else [])) fun _ i => i = none
  | tred (f : XForm) : RecordRow (.tred f) f true 2 Win.tredFaults
      ((if f.mod.getLsbD 0 then [.s f.b.toNat] else []) ++ (if f.mod.getLsbD 4 then [.s f.c.toNat] else [])) fun _ i => i = none
  | gathr (f : XForm) : RecordRow (.gathr f) f false 1 Win.gathrFaults [.s f.b.toNat, .s f.c.toNat] fun x i =>
      (x.sword f.b).toNat % 4 = 0 ∧ (x.sword f.b).toNat + 4 * (x.sword f.c).toNat ≤ x.team.sz ∧ (x.sword f.c).toNat ≤ 1024
      ∧ i = some ((List.range (x.sword f.c).toNat).map fun j =>
        BitVec.ofNat 32 (memNat x.team.sp ((x.sword f.b).toNat + 4 * j) 4))

/-- The copies through a buffer record, and between scratchpad and a tile (R222, R223, R269, R270): the counter, the
direction, the registers read, when each may start, the addresses it needs, and the copy. -/
inductive BufferRow : Instr → XForm → OpClass → Bool → List Reg → (Ctx → Prop) → (Ctx → List Need) → (Ctx → Copy) → Prop where
  | bcopy (f : XForm) : BufferRow (.bcopy f) f .cp (f.mod.getLsbD 4) [.b (f.bits 0 4), .s f.a.toNat, .s f.b.toNat, .s f.c.toNat]
      (fun x =>
        let b := x.wave.breg (f.bits 0 4)
        (bufBase b + (x.sword f.a).toNat) % 16 = 0 ∧ (x.sword f.b).toNat % 16 = 0 ∧ (x.sword f.c).toNat % 16 = 0
        ∧ (x.sword f.b).toNat + (x.sword f.c).toNat ≤ x.team.sz
        ∧ firstTrap (pieces b (f.bits 0 4) (x.sword f.a).toNat (x.sword f.c).toNat) = none)
      (fun x => pieceNeeds (pieces (x.wave.breg (f.bits 0 4)) (f.bits 0 4) (x.sword f.a).toNat (x.sword f.c).toNat)
        (if f.mod.getLsbD 4 then 2 else 1))
      (fun x => { id := 0, wid := 0, op := 0, ins := .bcopy f, spa := (x.sword f.b).toNat
                  buf := x.wave.breg (f.bits 0 4), off := x.sword f.a, len := (x.sword f.c).toNat })
  | dcopy (f : XForm) : BufferRow (.dcopy f) f .cp true
      ([.b (f.bits 0 4), .s f.a.toNat, .s f.b.toNat, .s f.c.toNat]
        ++ (if f.mod.getLsbD 8 then [] else [.b (f.bits 4 4), .s (f.a.toNat + 1)]))
      (fun x =>
        let b := x.wave.breg (f.bits 0 4)
        let fr := x.wave.breg (f.bits 4 4)
        let flag : Checked :=
          if f.mod.getLsbD 8 then .drop else checkAcc fr (f.bits 4 4) (x.sword (f.a + 1)).toNat 4 true
        x.s.dcopies x.w.core.die < 256
        ∧ (bufBase b + (x.sword f.a).toNat) % 16 = 0 ∧ (x.sword f.b).toNat % 16 = 0 ∧ (x.sword f.c).toNat % 16 = 0
        ∧ (f.mod.getLsbD 8 = false → (bufBase fr + (x.sword (f.a + 1)).toNat) % 4 = 0)
        ∧ (x.sword f.b).toNat + (x.sword f.c).toNat ≤ x.team.sz
        ∧ firstTrap (pieces b (f.bits 0 4) (x.sword f.a).toNat (x.sword f.c).toNat ++ [(0, flag)]) = none)
      (fun x => pieceNeeds (pieces (x.wave.breg (f.bits 0 4)) (f.bits 0 4) (x.sword f.a).toNat (x.sword f.c).toNat) 2
        ++ pieceNeeds [(0, if f.mod.getLsbD 8 then .drop
          else checkAcc (x.wave.breg (f.bits 4 4)) (f.bits 4 4) (x.sword (f.a + 1)).toNat 4 true)] 3)
      (fun x => { id := 0, wid := 0, op := 0, ins := .dcopy f, spa := (x.sword f.b).toNat
                  buf := x.wave.breg (f.bits 0 4), off := x.sword f.a, fbuf := x.wave.breg (f.bits 4 4)
                  foff := x.sword (f.a + 1), len := (x.sword f.c).toNat })
  | acopy (f : XForm) : BufferRow (.acopy f) f .mx false [.s f.a.toNat]
      (fun x => f.bits 0 3 < x.team.acc ∧ (x.sword f.a).toNat % 16 = 0
        ∧ (x.sword f.a).toNat + 4096 * acopyBytes (f.bits 4 4) ≤ x.team.sz)
      (fun _ => [])
      (fun x => { id := 0, wid := 0, op := 0, ins := .acopy f, spa := (x.sword f.a).toNat
                  len := 4096 * acopyBytes (f.bits 4 4) })

/-- No reply denies an access of these threads (R350). -/
def Undenied (x : Ctx) (act : List Nat) : Prop := ∀ t ∈ act, (x.thread t).deny = none

end Sys2Proof.Claims
end

