-- ==== Sys2Proof/ClaimsKernel.lean ====
section
/-! DEFINITION. The terms of the statements about class-6 instructions: kernel objects and the carousel. -/

namespace Sys2Proof.Claims

open Sys2Proof.Machine

/-- A grant's descriptor keeps its zeros, and its page is aligned to its size (R308). -/
def pairAligned (f : KForm) (x : Ctx) : Prop :=
  let p := x.spair f.c
  p.extractLsb' 5 7 = 0 ∧ (pairVa p).toNat % pageBytes (pairSz p) = 0

/-- A grant's descriptor names an aligned page of the size at which the process maps it, with the rights asked for and not
granted away (R308). -/
def Grantable (f : KForm) (x : Ctx) (act : List Nat) (y : Ctx) : Prop :=
  let p := x.spair f.c
  pairAligned f x ∧ (∀ t ∈ act, (x.thread t).deny = none)
    ∧ ∃ e, x.translate (pairVa p) = (y, .found e) ∧ e.sz = pairSz p ∧ e.refuses (pairRights p) = none

/-- The team with the tag of a CATCH busy and its ready bit clear (R389). -/
def tagged (x : Ctx) (g : Nat) : Ctx :=
  x.modTeam fun t => { t with tags := t.tags &&& ~~~((1 : DWord) <<< g), busy := t.busy ||| ((1 : DWord) <<< g) }

/-- Each class-6 instruction (R253, R305, R323, R389): the registers it reads, whether it writes s(D+1), its scratchpad
operands, what its own check asks and leaves, and its request. -/
inductive KernelRow : Instr → KForm → List Reg → Bool → (Ctx → List SpadArg) → (Ctx → List Nat → Ctx → Prop) → (Ctx → Ask) →
    Prop where
  | kwave (f : KForm) : KernelRow (.kwave f) f (.s f.a.toNat :: (List.range 16).map .b) true (fun x => [⟨(x.sword f.a).toNat, 96, 16⟩])
      (fun x _ y => y = x) (fun x => .kwave (BitVec.ofNat 768 (memNat x.team.sp (x.sword f.a).toNat 96)) x.wave.b)
  | ksend (f : KForm) : f.mod.getLsbD 0 = false →
      KernelRow (.ksend f) f [.s f.a.toNat, .s f.b.toNat] false (fun x => [⟨(x.sword f.b).toNat, 64, 16⟩])
      (fun x _ y => y = x)
      (fun x => .ksend (x.sword f.a) (BitVec.ofNat 512 (memNat x.team.sp (x.sword f.b).toNat 64)) none)
  | ksendG (f : KForm) : f.mod.getLsbD 0 = true →
      KernelRow (.ksend f) f ([.s f.a.toNat, .s f.b.toNat] ++ regsOf f.c true true) false
      (fun x => [⟨(x.sword f.b).toNat, 64, 16⟩]) (Grantable f)
      (fun x => .ksend (x.sword f.a) (BitVec.ofNat 512 (memNat x.team.sp (x.sword f.b).toNat 64)) (some (x.spair f.c)))
  | krecv (f : KForm) : KernelRow (.krecv f) f [.s f.a.toNat, .s f.b.toNat] false
      (fun x => [⟨(x.sword f.b).toNat, 80, 16⟩]) (fun x _ y => y = x) (fun x => .krecv (x.sword f.a) (x.sword f.b).toNat)
  | kwait (f : KForm) : KernelRow (.kwait f) f [.s f.a.toNat, .s f.b.toNat] false (fun _ => []) (fun x _ y => y = x)
      (fun x => .kwait (x.sword f.a) (x.sword f.b))
  | karm (f : KForm) : KernelRow (.karm f) f ([.s f.a.toNat, .s f.c.toNat] ++ regsOf f.b true true) false (fun _ => [])
      (fun x _ y => y = x) (fun x => .karm (x.sword f.a) (x.spair f.b) (f.mod.getLsbD 0) (x.sword f.c))
  | kcancel (f : KForm) : KernelRow (.kcancel f) f [.s f.a.toNat] false (fun _ => []) (fun x _ y => y = x)
      (fun x => .kcancel (x.sword f.a))
  | kbind (f : KForm) : KernelRow (.kbind f) f [.s f.a.toNat, .s f.b.toNat, .s f.c.toNat] false (fun _ => [])
      (fun x _ y => y = x) (fun x => .kbind (x.sword f.a) (x.sword f.b) (x.sword f.c))
  | kunbind (f : KForm) : KernelRow (.kunbind f) f [.s f.a.toNat, .s f.b.toNat] false (fun _ => []) (fun x _ y => y = x)
      (fun x => .kunbind (x.sword f.a) (x.sword f.b))
  | klook (f : KForm) : KernelRow (.klook f) f [.s f.a.toNat] true (fun x => [⟨(x.sword f.a).toNat, 32, 16⟩])
      (fun x _ y => y = x)
      (fun x => .klook (f.mod.getLsbD 0) (BitVec.ofNat 256 (memNat x.team.sp (x.sword f.a).toNat 32)))
  | kname (f : KForm) : KernelRow (.kname f) f [.s f.a.toNat, .s f.b.toNat] true (fun x => [⟨(x.sword f.b).toNat, 32, 16⟩])
      (fun x _ y => y = x) (fun x => .kname (x.sword f.a) (BitVec.ofNat 256 (memNat x.team.sp (x.sword f.b).toNat 32)))
  | kdup (f : KForm) : KernelRow (.kdup f) f [.s f.a.toNat, .s f.b.toNat] true (fun _ => []) (fun x _ y => y = x)
      (fun x => .kdup (x.sword f.a) (x.sword f.b))
  | kdrop (f : KForm) : KernelRow (.kdrop f) f [.s f.a.toNat] false (fun _ => []) (fun x _ y => y = x)
      (fun x => .kdrop (x.sword f.a))
  | kinfo (f : KForm) : KernelRow (.kinfo f) f [.s f.a.toNat] true (fun _ => []) (fun x _ y => y = x)
      (fun x => .kinfo (x.sword f.a) (f.mod.extractLsb' 0 8).toNat)
  | knext (f : KForm) : KernelRow (.knext f) f [.s f.a.toNat, .s f.b.toNat] false (fun x => [⟨(x.sword f.b).toNat, 8, 8⟩])
      (fun x _ y => y = x) (fun x => .knext (x.sword f.a) (x.sword f.b).toNat)
  | board (f : KForm) : KernelRow (.board f) f [.s f.a.toNat, .s f.b.toNat] false
      (fun x => [⟨(x.sword f.b).toNat, 32768, 16⟩]) (fun x _ y => y = x) (fun x => .board (x.sword f.a) (x.sword f.b).toNat)
  | alight (f : KForm) : KernelRow (.alight f) f [.s f.a.toNat] false (fun _ => []) (fun x _ y => y = x)
      (fun x => .alight (x.sword f.a))
  | cwrite (f : KForm) : KernelRow (.cwrite f) f [.s f.a.toNat, .s f.b.toNat] false
      (fun x => [⟨(x.sword f.b).toNat, 32768, 16⟩]) (fun x _ y => y = x) (fun x => .cwrite (x.sword f.a) (x.sword f.b).toNat)
  | catchNt (f : KForm) : f.mod.getLsbD 0 = true →
      KernelRow (.catchTile f) f [.s f.a.toNat, .s f.b.toNat] false
      (fun x => [⟨(x.sword f.b).toNat, (catchPart f).2, 16⟩]) (fun x _ y => y = x)
      (fun x => .catchTile (x.sword f.a) (x.sword f.b).toNat none (catchPart f).1 (catchPart f).2)
  | catchTag (f : KForm) : f.mod.getLsbD 0 = false →
      KernelRow (.catchTile f) f [.s f.a.toNat, .s f.b.toNat, .s f.c.toNat] false
      (fun x => [⟨(x.sword f.b).toNat, (catchPart f).2, 16⟩])
      (fun x _ y => x.team.busy.getLsbD ((x.sword f.c).extractLsb' 0 6).toNat = false
        ∧ y = tagged x ((x.sword f.c).extractLsb' 0 6).toNat)
      (fun x => .catchTile (x.sword f.a) (x.sword f.b).toNat (some ((x.sword f.c).extractLsb' 0 6).toNat)
        (catchPart f).1 (catchPart f).2)

def resultRegs (f : KForm) (pair : Bool) : List Reg := if pair then [.s f.d.toNat, .s (f.d.toNat + 1)] else [.s f.d.toNat]

def kernelIssue (f : KForm) (reads : List Reg) (pair : Bool) : Issue :=
  { g := f.g, uniform := true, reads := reads, writes := resultRegs f pair }

/-- Nothing makes a class-6 instruction wait at issue (R170, R176, R305; the wave's own scratchpad accesses by log 18). -/
def KernelFree (x : Ctx) : Prop :=
  x.wave.counter .kc < 62 ∧ x.wave.acquiring = false ∧ x.spadOpen = false ∧ x.relWaits true = false

def operandOk (x : Ctx) (a : SpadArg) : Prop := a.addr % a.align = 0 ∧ a.addr + a.len ≤ x.team.sz

/-- KC's operation, with its results pending, and the request in the hold-back buffer (R283, R305). -/
def kernelEffect (f : KForm) (pair : Bool) : Effect where
  op := { id := 0, cls := .kc, pend := resultRegs f pair, out := true }
  held := [fun id => (.request id, 1)]

/-- The request as it sets out. -/
def requestOf (x : Ctx) (f : KForm) (pair : Bool) (a : Ask) : Req :=
  { id := x.s.nextId, core := x.w.core, team := x.w.team, wid := x.w.wid, heat := x.heatNum, part := x.team.part
    proc := x.team.proc, ask := a, d := f.d.toNat, pair := pair }

end Sys2Proof.Claims
end

