-- ==== Sys2Proof/ClaimsEvents.lean ====
section
/-! DEFINITION. The terms of the statements about what the machine schedules and what the outside world does to it. -/

namespace Sys2Proof.Claims

open Sys2Proof.Machine

/-- The request is answered. -/
def Answered (s : State) (id : Nat) (status value : Word) (cells : List Host.Cell) : Prop :=
  ∃ q, s.req id = some q ∧ q.stage = .answered status value cells

/-- No core changes but what it keeps of translations, in its TLB, its record cache and the code that it has fetched, and no register of
the package and no time does. -/
def TlbsOnly (s t : State) : Prop :=
  t.cores.map (fun k => { k with tlb := [], rcache := [], code := [] }) = s.cores.map (fun k => { k with tlb := [], rcache := [], code := [] }) ∧ t.mgmt = s.mgmt ∧ t.cycle = s.cycle

/-- No core, no register of the package and no time changes. -/
def CoresKept (s t : State) : Prop := t.cores = s.cores ∧ t.mgmt = s.mgmt ∧ t.cycle = s.cycle

/-- No core changes but the memory that it caches, its L1, its record cache and the code that it has fetched, and no register of the
package and no time does. -/
def CachesOnly (s t : State) : Prop :=
  t.cores.map (fun k => { k with l1 := [], rcache := [], code := [] }) = s.cores.map (fun k => { k with l1 := [], rcache := [], code := [] })
    ∧ t.mgmt = s.mgmt ∧ t.cycle = s.cycle

/-- No core changes but its replay window, and no register of the package and no time does. -/
def ReplayOnly (s t : State) : Prop :=
  t.cores.map (fun k => { k with replay := [] }) = s.cores.map (fun k => { k with replay := [] }) ∧ t.mgmt = s.mgmt ∧ t.cycle = s.cycle

/-- An event is due `d` cycles from now. -/
def DueIn (t : State) (d : Nat) (i : Due) : Prop := (t.cycle + d, i) ∈ t.agenda

/-- Some time after now. -/
def DueLater (t : State) (i : Due) : Prop := ∃ d, 0 < d ∧ DueIn t d i

/-- Nothing changes outside core `c` but what is scheduled: not memory, no register of the package, no other core, no
object, no request, no image, and no time. -/
def CoreOnly (s t : State) (c : CoreId) : Prop :=
  (∀ d, d ≠ c → t.core d = s.core d) ∧ t.mem = s.mem ∧ t.mgmt = s.mgmt ∧ t.cycle = s.cycle ∧ t.objs = s.objs
    ∧ t.reqs = s.reqs ∧ t.images = s.images

/-! Records and the memory of events (R296, R353, R412, R423). -/

/-- The event has the memory that it reads or writes: no byte of it waits. -/
def Had (s : State) (ks : List Nat) (d : Due) : Prop := ks.any (s.accessWaits (.event d)) = false

/-- Every die's object cache has room for four records more (R2). -/
def Roomy (s : State) : Prop := ∀ d, (s.objs.filter fun o => objHome o.1 == d).length + 4 ≤ 32768

/-- The record is in its die's object cache. -/
def Cached (s : State) (i : Nat) : Prop := (s.objs.lookup i).isSome = true

/-- No record but these changes in the object caches, where none has to make room. -/
def RecordsKept (s t : State) (is : List Nat) : Prop := Roomy s → ∀ j, j ∉ is → t.objs.lookup j = s.objs.lookup j

/-! Heats (R275 to R289). -/

/-- The open heat of `s` has closed in `t`, its state as it stood, and the next one is open with a snapshot of the teams. -/
def HeatClosed (s t : State) (c : CoreId) (h : Heat) : Prop :=
  let k := s.core c
  (t.core c).old = some { h with closed := some t.cycle } ∧ (t.core c).closeReq = false
    ∧ DueIn t 225 (.heatSet c)
    ∧ ∀ q n, (t.core c).teams.head? = some q → k.hmax = some n → ∃ g, (t.core c).cur = some g ∧ g.num = n + 1
      ∧ g.opened = t.cycle ∧ g.k = s.heatK q.part ∧ g.snap = (t.core c).teams ∧ g.log = [] ∧ g.rets = []
      ∧ DueIn t (s.heatK q.part) (.heatCloseTimeout c)

/-- A core but for its heats, its hold-back buffer and its counters: what a close leaves as it is. -/
def coreRest (k : Core) : Core :=
  { k with cur := none, old := none, hmax := none, closeReq := false, held := [], exports := [], perf := [] }

/-- The export of the counters of core `k`'s heat `h` that closes is queued behind the exports that wait; where the hold-back buffer
has room the oldest of them enters it, behind the effects of its own heat and before those of a later one (R283, R289). -/
def Exported (k u : Core) (h : Heat) : Prop :=
  let es := k.exports ++ [(h.num, k.perf)]
  (k.holdRoom = false → u.exports = es ∧ u.held = k.held)
    ∧ (k.holdRoom = true → u.exports = es.drop 1 ∧ ∀ e, es.head? = some e →
      u.held = k.held.filter (fun x => heatUpTo x.heat e.1) ++ [⟨e.1, ⟨0, 0, 0⟩, .perf e.2, 1, e.1 != h.num⟩]
        ++ k.held.filter fun x => !heatUpTo x.heat e.1)

/-- The effects that the heat's setting releases, and those that stay held (R278, R283). -/
def releases (h : Heat) (e : Held) : Bool := e.released || e.heat == h.num

/-- A lookup of a name finds the entry: in the package's cache, or, where that is passed over or holds none, at the directory
node (R321, R324). -/
def Looked (s : State) (ns : Nat) (dir : Bool) (name : BitVec 256) (e : DirEnt) : Prop :=
  let cached := s.entryIn s.names ns name
  (dir = false ∧ cached = some e)
    ∨ ((dir = true ∨ cached = none) ∧ (s.dirNode ns name).isSome = true ∧ s.dirFind ns name = some e)

/-- A wave's operations with one of them changed, those that are complete retiring in their turn (R173). -/
def opsWith (v : Wave) (op : Nat) (f : Op → Op) : List Op :=
  ({ v with ops := v.ops.map fun o => if o.id = op then f o else o } : Wave).retireAll.ops

/-- The core has room for an operation's values: their lines in the undo log, and a return record where the operation's heat is
no longer the open one or its effect has left the core (R281, R282). -/
def landRoom (k : Core) (w : WaveId) (o : Op) (ws : List RegWrite) : Bool :=
  k.roomFor (ws.map (·.logKey w.team w.wid)) (if o.out && o.left == 0 || !k.ofOpen o.heat then (ws.length + 15) / 16 else 0)

/-! Waves (R36, R37, R200 to R202). -/

/-- The core's TLB holds the translation of a word that the team may execute and that nothing makes its fetch wait for, and it
is `w`. -/
def WordAt (x : Ctx) (a : WAddr) (w : DWord) (by_ : Asker := .wave x.w x.pc) : Prop :=
  (x.core.tlb.find? (·.hits x.team.proc (wordVa a))).isSome = true ∧ (x.fetch a by_).2 = .word w

/-- A team's registers and what its threads run, scratchpad, tiles, barriers, tags and stream: what a swap or a move keeps. -/
def kept (q : Team) : (List (List Thread × List Word × List BufRec) × List Host.Cell × List (List Word))
    × (List Bar × BitVec 64 × BitVec 64 × BitVec 5) × (List Word × WAddr × Bool) :=
  ((q.waves.map fun w => (w.threads, w.s, w.b), q.sp, q.tiles), (q.bars, q.tags, q.busy, q.fps), (q.seq.m, q.seq.spc, q.seq.run))

/-- No launch waits to create teams, and no saved team for room in a queue. -/
def NothingToFeed (s : State) : Prop :=
  (∀ g ∈ s.grids, g.started = false ∨ ∀ r ∈ g.ranges, r.hi ≤ r.next) ∧ ∀ i ∈ s.images, i.due = false

/-- A held effect of the team as such. -/
def heldTeam (k : Core) (team : Nat) (kind : HeldKind) : Held :=
  ⟨match k.cur with | some h => h.num | none => 0, ⟨team, 0, 0⟩, kind, 1, false⟩

/-- The three ways in which a team leaves its core by a held effect, with what must hold before it may. -/
inductive LeaveRow : Instr → CoreId → Nat → HeldKind → (Core → Team → Prop) → Prop where
  | retire (c : CoreId) (oid : Nat) : LeaveRow (.teamRetire c oid) c oid (.report oid) fun _ q =>
      q.leave = some .retire ∧ q.copies = [] ∧ q.seq.busy = false ∧ q.banks = [] ∧ ∀ w ∈ q.waves, ∀ o ∈ w.ops, o.done = true
  | swap (c : CoreId) (oid : Nat) (a : AfterSwap) : LeaveRow (.swapOut c oid) c oid (.image oid) fun _ q =>
      q.leave = some (.swap a) ∧ q.quiet = true
  | fault (c : CoreId) (oid n : Nat) : LeaveRow (.swapOut c oid) c oid (.image oid) fun _ q =>
      q.leave = some (.fault n) ∧ q.quiet = true
  | ship (c : CoreId) (oid : Nat) : LeaveRow (.migrShip c oid) c oid (.ship oid) fun _ q => q.leave = some .migrate

/-- A management request has its record, which is to be posted in its ring (R407). -/
def Reports (t : State) (r : MgmtReq) (status : Nat) : Prop :=
  { ring := mRing r, bits := recordOf (mSeq r) status 0 0 } ∈ t.records ∧ DueIn t 1 (.completionPost (mRing r))

/-! Messages and records (R360 to R373, R405). -/

/-- The message at NEXTSEQ of a mapped slot, which may be taken: the port's block can be read and is whole, once an update in
progress has been rolled forward, which leaves `u` (R429, R430). -/
def Offers (s u : State) (part slot : Nat) (x : PortSlot) (m : BitVec 512) : Prop :=
  ∃ y, s.slot part slot = some y ∧ s.mayTake y = true ∧ s.accessWaits (.event (.launch part slot)) (s.domKey y.pcb) = false
    ∧ s.pcbWhole y = true ∧ m = s.windowMsg y ∧ msgSeq m = y.next ∧ u = s.rollForward part slot ∧ u.slot part slot = some x

/-- What a message names may be read by the port's event (R353). -/
def Readable (s : State) (part slot : Nat) (keys : List Nat) : Prop :=
  keys.any (s.accessWaits (.event (.launch part slot))) = false

/-- No core, register, time or object changes, and the slot's NEXTSEQ has moved on. -/
def TookOne (s t : State) (part slot : Nat) (x : PortSlot) : Prop :=
  t.cores = s.cores ∧ t.mgmt = s.mgmt ∧ t.cycle = s.cycle ∧ (t.slot part slot).map (·.next) = some (x.next + 1)

/-- The slot's ring has a record for the message, which is to be posted (R364). -/
def Posted (t : State) (part slot : Nat) (seq : Word) (status detail value : Nat) : Prop :=
  { ring := .slot part slot, bits := recordOf seq status detail value } ∈ t.records ∧ DueIn t 1 (.completionPost (.slot part slot))

/-- The slot's message has no record yet (R406). -/
def Unrecorded (x : PortSlot) (seq : Word) : Prop := seq ∉ x.recorded

/-- No message of the slot waits for its ORD, and no other message of it has its number. -/
def Fresh (s : State) (slot : Nat) (x : PortSlot) : Prop :=
  x.next ∉ x.taken ∧ ∀ g ∈ s.grids, g.slot ≠ some (slot, x.next) ∧ g.id ≠ s.nextId

/-- The graph run goes on at a node in the next cycle, and its record says so (R370, R372). -/
def RunAt (t : State) (r : GraphRun) (node : Nat) : Prop :=
  DueIn t 1 (.graphTimeNode r.graph) ∧ fld (t.obj r.graph) 176 16 = node
    ∧ (t.runs.find? (·.graph == r.graph)).map (fun q => (q.node, q.waits)) = some (node, false)

/-- The graph run has ended, and its RUNGRAPH's record is to be posted, where its slot is mapped and the message has none yet (R364,
R372). -/
def RunOver (s t : State) (r : GraphRun) (status detail : Nat) : Prop :=
  (t.obj r.graph).getLsbD 160 = false ∧ (∀ q ∈ t.runs, q.graph ≠ r.graph)
    ∧ ∀ x, s.slot r.part r.slot = some x → r.seq ∈ x.taken → Unrecorded x r.seq → Posted t r.part r.slot r.seq status detail 0

/-! Management requests (R407, R418). -/

/-- A request of a kind whose ring is set up, with fewer than 64 outstanding. -/
def Asks (s : State) (r : MgmtReq) (kind : Nat) : Prop :=
  mKind r = kind ∧ (s.ring (mRing r)).isSome = true ∧ s.outstanding < 64

/-- The bits of a request's body that must be 0 are 0, by its KIND. -/
def bodyOk (kind : Nat) (r : MgmtReq) : Bool :=
  match kind with
  | 6 => bitsNat r 84 172 == 0
  | 7 => bitsNat r 89 7 == 0 && bitsNat r 116 12 == 0 && bitsNat r 152 104 == 0
  | 8 => bitsNat r 89 167 == 0
  | 9 => bitsNat r 89 3 == 0 && bitsNat r 96 160 == 0
  | 10 => bitsNat r 71 9 == 0 && bitsNat r 91 37 == 0 && bitsNat r 180 76 == 0
  | 11 => bitsNat r 71 185 == 0
  | 12 => bitsNat r 96 160 == 0
  | 13 => bitsNat r 117 139 == 0
  | 14 => bitsNat r 88 168 == 0
  | 15 => !shootBad (r.extractLsb' 64 128) && bitsNat r 192 64 == 0
  | _ => bitsNat r 64 192 == 0

/-- Each request that posts a record, with its KIND. -/
inductive ReqRow : Instr → MgmtReq → Nat → Prop where
  | preset (r : MgmtReq) : ReqRow (.preset r) r 1
  | dcreset (r : MgmtReq) : ReqRow (.dcreset r) r 2
  | drestart (r : MgmtReq) : ReqRow (.drestart r) r 3
  | ddown (r : MgmtReq) : ReqRow (.ddown r) r 4
  | patch (r : MgmtReq) : ReqRow (.patch r) r 6
  | preempt (r : MgmtReq) : ReqRow (.preempt r) r 7
  | resume (r : MgmtReq) : ReqRow (.resume r) r 8
  | create (r : MgmtReq) : ReqRow (.create r) r 9
  | portmap (r : MgmtReq) : ReqRow (.portmap r) r 10
  | portunmap (r : MgmtReq) : ReqRow (.portunmap r) r 11
  | xferdone (r : MgmtReq) : ReqRow (.xferdone r) r 12
  | xferhost (r : MgmtReq) : ReqRow (.xferhost r) r 13
  | ctxreset (r : MgmtReq) : ReqRow (.ctxreset r) r 14
  | shootdown (r : MgmtReq) : ReqRow (.shootdown r) r 15

/-- The request is performed: it is accepted, its header is legal, its body keeps its zeros, and none of its partition that
came before it waits (R427). -/
def Performed (kind : Nat) (s : State) (r : MgmtReq) : Prop :=
  Asks s r kind ∧ mHeaderBad r = false ∧ bodyOk kind r = true ∧ s.barred r = false

/-- The memory that the request's serving reads is to be had. -/
def Served (s : State) (r : MgmtReq) (key : Nat) : Prop := s.accessWaits (.event (.requestServe (mPart r))) key = false

/-- The three package resets (R419, R435). -/
inductive ResetRow (s : State) : Instr → Prop where
  | pkreset (r : MgmtReq) : mKind r = 5 → mHeaderBad r = false → bitsNat r 64 192 = 0 → s.outstanding < 64 → ResetRow s (.pkreset r)
  | level : ResetRow s .functionLevelReset
  | power : ResetRow s .powerInputFault

/-- The region's byte of the region table, as the home agent reads it (R439). -/
def regionAt (s : State) (r : Bool × Nat) : Byte := s.tableByte r

/-! Registers (R7, R417). -/

/-- A write of each named register: its offset, the bits that must be 0, when its rule allows the write, and the register's
new value (R279, R297, R318, R320, R338, R352, R384, R385, R407, R409, R410, R436, R438, R441). -/
inductive RegRow : Instr → Nat → DWord → DWord → (State → Prop) → (State → DWord) → Prop where
  | oid (p d : Nat) (hi : Bool) (v : DWord) :
      RegRow (.oidRangeWrite p d hi v) (if hi then oidHi p d else oidLo p d) v (span 21 43)
        (fun s => p < 16 ∧ d < 8 ∧ ∀ q < 16, q ≠ p →
          idxMeet (bitsNat (if hi then s.mreg (oidLo p d) else v) 0 21) (bitsNat (if hi then v else s.mreg (oidHi p d)) 0 21)
            (bitsNat (s.mreg (oidLo q d)) 0 21) (bitsNat (s.mreg (oidHi q d)) 0 21) = false) fun _ => v
  | crshare (p : Nat) (v : DWord) : RegRow (.crshareWrite p v) (partBlock p + 0x10) v (span 9 7 ||| span 25 7 ||| span 44 20)
      (fun s => p < 16 ∧ s.shareSum 0x10 p v 0 9 ≤ 256 ∧ s.shareSum 0x10 p v 16 9 ≤ 512 ∧ s.shareSum 0x10 p v 32 8 ≤ 256
        ∧ bitsNat v 16 10 ≤ 512 ∧ 4 ≤ bitsNat v 40 4 ∧ bitsNat v 40 4 ≤ 12) fun _ => v
  | heatctl (p : Nat) (v : DWord) : RegRow (.heatctlWrite p v) (partBlock p + 0x8) v (span 5 59)
      (fun _ => p < 16 ∧ 4 ≤ bitsNat v 0 5 ∧ bitsNat v 0 5 ≤ 16) fun _ => v
  | txctl (p : Nat) (v : DWord) : RegRow (.txctlWrite p v) (partBlock p + 0x20) v (span 0 12 ||| span 52 12)
      (fun _ => p < 16 ∧ bitsNat v 41 11 = 0) fun _ => v
  | nsctl (p : Nat) (v : DWord) : RegRow (.nsctlWrite p v) (partBlock p + 0x18) v (span 16 48) (fun _ => p < 16) fun _ => v
  | rgnctl (v : DWord) : RegRow (.rgnctlWrite v) 0x20 v (span 7 5 ||| span 52 12)
      (fun _ => bitsNat v 41 11 = 0 ∧ 21 ≤ bitsNat v 1 6 ∧ bitsNat v 1 6 ≤ 52) fun _ => v
  | carctl (v : DWord) : RegRow (.carctlWrite v) 0x10 v (span 14 2 ||| span 25 39)
      (fun s => bitsNat v 0 14 ≤ 8192 ∧ s.anySegment = false)
      fun s => (s.mreg 0x10 &&& ~~~span 0 14) ||| (v &&& span 0 14)
  | carseg (p : Nat) (v : DWord) : RegRow (.carsegWrite p v) (partBlock p + 0x28) v (span 13 3 ||| span 30 2 ||| span 42 22)
      (fun s => p < 16 ∧ segFirst v + segCount v ≤ carNS s ∧ (∀ q < 16, q ≠ p → segMeets v (carSeg s q) = false)
        ∧ s.shareSum 0x28 p v 32 10 ≤ 512) fun _ => v
  | carq (v : DWord) : RegRow (.flctlCarq v) 0x50 v (span 9 7 ||| span 17 15 ||| span 40 24)
      (fun s => (s.mreg 0x50).getLsbD 39 = false ∧ bitsNat v 0 9 ≤ 256
        ∧ (bitsNat v 0 9 = bitsNat (s.mreg 0x50) 0 9 ∨ s.anySegment = false))
      fun s => (s.mreg 0x50 &&& ~~~(span 0 9 ||| span 16 1 ||| span 39 1)) ||| (v &&& (span 0 9 ||| span 16 1)) ||| span 39 1
  | dpup (v : DWord) : RegRow (.flctlDpup v) 0x50 v (span 9 7 ||| span 17 15 ||| span 40 24)
      (fun s => (s.mreg 0x50).getLsbD 39 = false ∧ bitsNat v 0 9 ≤ 256
        ∧ (bitsNat v 0 9 = bitsNat (s.mreg 0x50) 0 9 ∨ s.anySegment = false))
      fun s => (s.mreg 0x50 &&& ~~~(span 0 9 ||| span 16 1 ||| span 39 1)) ||| (v &&& (span 0 9 ||| span 16 1)) ||| span 39 1
  | pclu (p d : Nat) (v : DWord) : RegRow (.pcluWrite p d v) (pcluReg p d) v (span 24 40)
      (fun s => p < 16 ∧ d < 8 ∧ ∀ q < 16, q ≠ p → s.mreg (pcluReg q d) &&& (v &&& ~~~fusedBit d) = 0)
      fun _ => v &&& ~~~fusedBit d
  | step (v : DWord) : RegRow (.pwrctlStep v) 0x28 v (span 2 14 ||| span 29 35)
      (fun _ => 1200 ≤ bitsNat v 16 13 ∧ bitsNat v 16 13 ≤ 4800) fun _ => v
  | cap (v : DWord) : RegRow (.pwrctlCap v) 0x28 v (span 2 14 ||| span 29 35)
      (fun _ => 1200 ≤ bitsNat v 16 13 ∧ bitsNat v 16 13 ≤ 4800) fun _ => v
  | domctl (v : DWord) : RegRow (.domctlWrite v) 0x08 v (span 11 5 ||| span 27 37)
      (fun _ => bitsNat v 16 11 ≤ 1536 ∧ (bitsNat v 0 11 ≤ bitsNat v 16 11 ∨ bitsNat v 0 11 = 0)) fun _ => v
  | mgring (p : Nat) (v : DWord) : RegRow (.ringRegisterWrite (.part p) v) (partBlock p + 0x30) v 0
      (fun _ => p < 16 ∧ (bitsNat v 0 4 = 0 ∨ 4 ≤ bitsNat v 0 4)) fun _ => v
  | pkmring (v : DWord) : RegRow (.ringRegisterWrite .package v) 0x48 v 0
      (fun _ => bitsNat v 0 4 = 0 ∨ 4 ≤ bitsNat v 0 4) fun _ => v
  | conf (p r : Nat) (v : DWord) : RegRow (.confRangeWrite p r v) (confReg p r) v (span 58 5)
      (fun s => p < 16 ∧ r < 16 ∧ (∃ k, s.keyOf (v.extractLsb' 42 16) = some (k, p))
        ∧ ∀ q < 16, ∀ k < 16, (q, k) ≠ (p, r) → confMeets v (s.mreg (confReg q k)) = false) fun _ => v

/-- Nothing changes but the management error log, whose newest entry has this code (R417). -/
def Logged (s t : State) (code : Nat) : Prop :=
  { t with errs := s.errs, errHead := s.errHead } = s ∧ t.errHead = s.errHead + 1
    ∧ ∃ e, t.errs.getLast? = some e ∧ e.extractLsb' 0 16 = BitVec.ofNat 16 code

/-! Steps. -/

/-- No event is due, and the agent in focus may act in this cycle (log 2). -/
def NothingDue (s : State) : Prop :=
  earliest s.cycle s.agenda = none ∧ earliest s.cycle s.inputs = none ∧ s.focusAt = s.cycle ∧ s.focusActs = true

/-! The events of the machine's agenda, as the events of the same names. -/

inductive DueRow : Due → Instr → Prop where
  | spinDemotionExpiry (w : WaveId) (tid : Nat) : DueRow (.spinDemotionExpiry w tid) (.spinDemotionExpiry w tid)
  | scratchpadBankServe (c : CoreId) (bank : Nat) : DueRow (.scratchpadBankServe c bank) (.scratchpadBankServe c bank)
  | loadResult (w : WaveId) (op : Nat) : DueRow (.loadResult w op) (.loadResult w op)
  | storePerformed (w : WaveId) (op : Nat) : DueRow (.storePerformed w op) (.storePerformed w op)
  | copyLand (c : CoreId) (team copy : Nat) : DueRow (.copyLand c team copy) (.copyLand c team copy)
  | dcopyFlagAdd (c : CoreId) (team copy : Nat) : DueRow (.dcopyFlagAdd c team copy) (.dcopyFlagAdd c team copy)
  | engineWordComplete (c : CoreId) (team : Nat) : DueRow (.engineWordComplete c team) (.engineWordComplete c team)
  | streamFetch (c : CoreId) (team : Nat) : DueRow (.streamFetch c team) (.streamFetch c team)
  | mstreamTrapTake (c : CoreId) (team : Nat) : DueRow (.mstreamTrapTake c team) (.mstreamTrapTake c team)
  | heatCloseTimeout (c : CoreId) : DueRow (.heatCloseTimeout c) (.heatCloseTimeout c)
  | heatCloseLog (c : CoreId) : DueRow (.heatCloseLog c) (.heatCloseLog c)
  | heatSet (c : CoreId) : DueRow (.heatSet c) (.heatSet c)
  | holdbackDepart (c : CoreId) : DueRow (.holdbackDepart c) (.holdbackDepart c)
  | rollbackComplete (c : CoreId) : DueRow (.rollbackComplete c) (.rollbackComplete c)
  | teamAdmit (c : CoreId) (team : Nat) : DueRow (.teamAdmit c team) (.teamAdmit c team)
  | teamRetire (c : CoreId) (team : Nat) : DueRow (.teamRetire c team) (.teamRetire c team)
  | swapOut (c : CoreId) (team : Nat) : DueRow (.swapOut c team) (.swapOut c team)
  | blockedSwap (c : CoreId) (team : Nat) : DueRow (.blockedSwap c team) (.blockedSwap c team)
  | migrShip (c : CoreId) (team : Nat) : DueRow (.migrShip c team) (.migrShip c team)
  | migrArrival (team : Nat) : DueRow (.migrArrival team) (.migrArrival team)
  | crucibleServe (die : Nat) : DueRow (.crucibleServe die) (.crucibleServe die)
  | requestResend (c : CoreId) : DueRow (.requestResend c) (.requestResend c)
  | crucibleFrame (die : Nat) : DueRow (.crucibleFrame die) (.crucibleFrame die)
  | kernelResultDelivery (id : Nat) : DueRow (.kernelResultDelivery id) (.kernelResultDelivery id)
  | knextServe (id : Nat) : DueRow (.knextServe id) (.knextServe id)
  | kwaitDeadline (wset : Nat) : DueRow (.kwaitDeadline wset) (.kwaitDeadline wset)
  | timerFire (timer : Nat) : DueRow (.timerFire timer) (.timerFire timer)
  | directoryInsert (id : Nat) : DueRow (.directoryInsert id) (.directoryInsert (.own id))
  | nameLookup (id : Nat) : DueRow (.nameLookup id) (.nameLookup id)
  | grantPteUpdate (id : Nat) : DueRow (.grantPteUpdate id) (.grantPteUpdate id)
  | shootdownAck (c : CoreId) (id : Nat) : DueRow (.shootdownAck c id) (.shootdownAck c id)
  | grantCommit (id : Nat) : DueRow (.grantCommit id) (.grantCommit id)
  | regionTransferDone (host : Bool) (region : Nat) : DueRow (.regionTransferDone host region) (.regionTransferDone host region)
  | launch (part slot : Nat) : DueRow (.launch part slot) (.launch part slot)
  | rungraph (part slot : Nat) : DueRow (.rungraph part slot) (.rungraph part slot)
  | fenceMessage (part slot : Nat) : DueRow (.fenceMessage part slot) (.fenceMessage part slot)
  | ordStart (part slot : Nat) : DueRow (.ordStart part slot) (.ordStart part slot)
  | runnerRangeReport (launch die : Nat) : DueRow (.runnerRangeReport launch die) (.runnerRangeReport launch die)
  | completionPost (ring : RingId) : DueRow (.completionPost ring) (.completionPost ring)
  | graphTimeNode (graph : Nat) : DueRow (.graphTimeNode graph) (.graphTimeNode graph)
  | bucketTick (part bucket : Nat) : DueRow (.bucketTick part bucket) (.bucketTick part bucket)
  | ddownProceed (die : Nat) : DueRow (.ddownProceed die) (.ddownProceed die)
  | preemptDrainDeadline (part proc : Nat) : DueRow (.preemptDrainDeadline part proc) (.preemptDrainDeadline part proc)
  | preemptResetDeadline (part proc : Nat) : DueRow (.preemptResetDeadline part proc) (.preemptResetDeadline part proc)
  | flaskChangeDone : DueRow .flaskChangeDone .flaskChangeDone
  | carouselIndexAccept (id : Nat) : DueRow (.carouselIndexAccept id) (.carouselIndexAccept id)
  | catchRegister (id : Nat) : DueRow (.catchRegister id) (.catchRegister id)
  | catchLapTimeout (id : Nat) : DueRow (.catchLapTimeout id) (.catchLapTimeout id)
  | boardLapTimeout (id : Nat) : DueRow (.boardLapTimeout id) (.boardLapTimeout id)
  | slotPassage (slot die : Nat) (strike : Bool) : DueRow (.slotPassage slot die strike) (.slotPassage slot die strike)
  | resetRelease : DueRow .resetRelease .resetRelease
  | faultReply (team : Nat) (key : FaultKey) (deny : Bool) (mask : BitVec 3) :
      DueRow (.faultReply team key deny mask) (.faultReply team key deny mask)

end Sys2Proof.Claims
end

