-- ==== Sys2Proof/ClaimsServe.lean ====
section
/-! DEFINITION. What the serving of each class-6 request does at its object's home (spec/18 R306 to R316, spec/19 R320 to R328). -/

namespace Sys2Proof.Claims

open Sys2Proof.Machine

/-- The request is not answered yet: it stands at the object, and its event is due. -/
def Stands (t : State) (q : Req) (i : Nat) : Prop := ∃ r, t.req q.id = some r ∧ r.stage = .pending i

/-- A request is answered with a status and its detail, and no record changes. -/
def Refuses (s t : State) (q : Req) (code detail : Nat) : Prop :=
  Answered t q.id (BitVec.ofNat 32 (code + 256 * detail)) 0 [] ∧ t.objs = s.objs ∧ t.ports = s.ports ∧ t.mem = s.mem

/-- KINFO's fields (R313), by KIND and selector. -/
inductive InfoRow : Nat → Nat → (BitVec 512 → Nat) → Prop where
  | header (k : Nat) : InfoRow k 0 fun r => fld r 0 8
  | refs (k : Nat) : InfoRow k 1 fun r => fld r 32 16
  | owner (k : Nat) : InfoRow k 2 fun r => fld r 8 24
  | team : InfoRow 2 3 fun r => 256 * fld r 72 8 + fld r 67 5
  | qlen : InfoRow 3 3 fun r => fld r 80 9
  | readyLow : InfoRow 4 3 fun r => fld r 64 32
  | ovr : InfoRow 5 3 fun r => fld r 208 16
  | cur : InfoRow 7 3 fun r => fld r 128 32
  | qcap : InfoRow 3 4 fun r => fld r 64 9
  | readyHigh : InfoRow 4 4 fun r => fld r 96 32
  | n : InfoRow 7 4 fun r => fld r 64 32

/-- A launch block's fields (R310): the procedure base, the descriptor's address, AFF and PRI, and the argument words. -/
def blockBase (b : BitVec 768) : BitVec 48 := b.extractLsb' 0 48
def blockDesc (b : BitVec 768) : BitVec 57 := b.extractLsb' 64 57
def blockAff (b : BitVec 768) : Nat := (b.extractLsb' 128 16).toNat
def blockPri (b : BitVec 768) : Nat := (b.extractLsb' 144 3).toNat
def blockArgs (b : BitVec 768) : List Word := (List.range 16).map fun k => b.extractLsb' (256 + 32 * k) 32

/-- Its reserved bits are 0. -/
def blockOk (b : BitVec 768) : Prop := b.extractLsb' 48 16 = 0 ∧ b.extractLsb' 121 7 = 0 ∧ b.extractLsb' 147 109 = 0

/-- The checks of a KWAVE up to the die (R310): the process lives, the block keeps its zeros, and the descriptor can be read. -/
def WaveReads (s : State) (q : Req) (b : BitVec 768) (d : Rec256) : Prop :=
  s.dying q.proc = false ∧ blockOk b ∧ s.vreadNat q.part q.proc (blockDesc b) 32 = some d.toNat

/-- The object's record is its own in the cache, it is no member of a wait set, and the caches have room. -/
def Alone (s : State) (i : Nat) : Prop := Roomy s ∧ Cached s i ∧ fld (s.obj i) 448 32 = 0

/-- The serving of request `q` at object `i` by the Crucible of `die`: what each must meet, and what it leaves. -/
inductive ServeRow (s : State) (q : Req) (i : Nat) : (State → Prop) → Prop where
  -- KSEND (R307, R308, R328); to a far port R326
  | sendFull (h : Word) (m : BitVec 512) (g : Option DWord) : q.ask = .ksend h m g → fld (s.obj i) 64 9 ≠ 0 →
      fld (s.obj i) 64 9 ≤ (s.portMsgs i).length → ServeRow s q i fun t => Refuses s t q 1 0
  | send (h : Word) (m : BitVec 512) : q.ask = .ksend h m none → objKind (s.obj i) = kPORT →
      (s.portMsgs i).length < fld (s.obj i) 64 9 →
      ServeRow s q i fun t => Answered t q.id 0 0 []
        ∧ t.portMsgs i = s.portMsgs i ++ [{ bits := m, sender := q.proc, pkg := s.pkgId }]
        ∧ (Alone s i → fld (t.obj i) 80 9 = (visible (t.portMsgs i)).length)
  | sendNoGrants (h : Word) (m : BitVec 512) (p : DWord) : q.ask = .ksend h m (some p) →
      (s.portMsgs i).length < fld (s.obj i) 64 9 → (fld (s.obj i) 251 6 = 0 ∨ fld (s.obj i) 249 2 ≠ pairSz p) →
      ServeRow s q i fun t => Refuses s t q 9 0
  | sendUnmapped (h : Word) (m : BitVec 512) (p : DWord) : q.ask = .ksend h m (some p) →
      (s.portMsgs i).length < fld (s.obj i) 64 9 → fld (s.obj i) 251 6 ≠ 0 → fld (s.obj i) 249 2 = pairSz p →
      s.grantPage q.part q.proc p false = none → ServeRow s q i fun t => Refuses s t q 9 4
  | sendGrant (h : Word) (m : BitVec 512) (p : DWord) (page : Page) : q.ask = .ksend h m (some p) → objKind (s.obj i) = kPORT →
      (s.portMsgs i).length < fld (s.obj i) 64 9 → fld (s.obj i) 251 6 ≠ 0 → fld (s.obj i) 249 2 = pairSz p →
      s.grantPage q.part q.proc p false = some page →
      ServeRow s q i fun t => Stands t q i
        ∧ t.portMsgs i = s.portMsgs i ++
          [{ bits := m, sender := q.proc, pkg := s.pkgId, page := some page, req := some (.here q.id) }]
        ∧ t.grants = s.grants ++ [⟨q.id, some i, q.part, q.proc, pairVa p, page, false⟩] ∧ DueLater t (.grantPteUpdate q.id)
  | forwarded (h : Word) (m : BitVec 512) (g : Option DWord) : q.ask = .ksend h m g → fld (s.obj i) 64 9 = 0 →
      s.reachable (fld (s.obj i) 96 11) = true →
      ServeRow s q i fun t => t.objs = s.objs ∧ t.ports = s.ports ∧ ∃ r, t.req q.id = some r ∧ r.stage = .pending i
        ∧ r.far = some (fld (s.obj i) 96 11, (s.obj i).extractLsb' 192 256) ∧ r.ns = nsid s q.part
  | unreached (h : Word) (m : BitVec 512) (g : Option DWord) : q.ask = .ksend h m g → fld (s.obj i) 64 9 = 0 →
      s.reachable (fld (s.obj i) 96 11) = false → ServeRow s q i fun t => Refuses s t q 7 0
  -- KRECV (R307, R309)
  | recvEmpty (h : Word) (a : Nat) : q.ask = .krecv h a → visible (s.portMsgs i) = [] →
      ServeRow s q i fun t => Refuses s t q 2 0
  | recv (h : Word) (a : Nat) (m : PortMsg) (ms : List PortMsg) : q.ask = .krecv h a → objKind (s.obj i) = kPORT →
      visible (s.portMsgs i) = m :: ms → m.page = none →
      ServeRow s q i fun t => t.portMsgs i = (s.portMsgs i).drop 1
        ∧ (Alone s i → fld (t.obj i) 80 9 = ms.length % 512)
        ∧ Answered t q.id 0 0 (cellsAt a (bytesLE 64 m.bits.toNat ++ bytesLE 8 0 ++ bytesLE 4 m.sender ++ bytesLE 4 m.pkg))
  | recvNoSlot (h : Word) (a : Nat) (m : PortMsg) (ms : List PortMsg) (p : Page) : q.ask = .krecv h a →
      visible (s.portMsgs i) = m :: ms → m.page = some p → (∀ k, k < fld (s.obj i) 251 6 → hasBit (s.obj i) (320 + k) = true) →
      ServeRow s q i fun t => Refuses s t q 1 0
  | recvGrant (h : Word) (a k : Nat) (m : PortMsg) (ms : List PortMsg) (p : Page) : q.ask = .krecv h a →
      objKind (s.obj i) = kPORT → Alone s i → visible (s.portMsgs i) = m :: ms → m.page = some p →
      k < fld (s.obj i) 251 6 → hasBit (s.obj i) (320 + k) = false → (∀ j, j < k → hasBit (s.obj i) (320 + j) = true) →
      ServeRow s q i fun t =>
        let va := slotVa (s.obj i) k p.sz
        t.portMsgs i = (s.portMsgs i).drop 1 ∧ hasBit (t.obj i) (320 + k) = true
        ∧ t.gslots = s.gslots ++ [⟨i, k, q.part, q.proc, va, p⟩]
        ∧ Answered t q.id 0 0 (cellsAt a (bytesLE 64 m.bits.toNat ++ bytesLE 8 (va.toNat + p.sz + 4 * p.rights.toNat)
          ++ bytesLE 4 m.sender ++ bytesLE 4 m.pkg))
  -- KWAIT (R311)
  | waitClash (h until_ : Word) : q.ask = .kwait h until_ → fld (s.obj i) 192 24 ≠ 0 → ServeRow s q i fun t => Refuses s t q 9 0
  | waitEmpty (h until_ : Word) : q.ask = .kwait h until_ → fld (s.obj i) 192 24 = 0 → fld (s.obj i) 128 64 = 0 →
      ServeRow s q i fun t => Refuses s t q 2 0
  | waitReady (h until_ : Word) (k : Nat) : q.ask = .kwait h until_ → objKind (s.obj i) = kWSET → Roomy s → Cached s i →
      fld (s.obj i) 192 24 = 0 → reportIndex (s.obj i) = some k →
      ServeRow s q i fun t => Answered t q.id (BitVec.ofNat 32 (256 * k)) 0 [] ∧ fld (t.obj i) 216 6 = (k + 1) % 64
        ∧ fld (t.obj i) 192 24 = 0
  | waitNot (h : Word) : q.ask = .kwait h 0 → fld (s.obj i) 192 24 = 0 → fld (s.obj i) 128 64 ≠ 0 →
      reportIndex (s.obj i) = none → ServeRow s q i fun t => Refuses s t q 3 0
  | waits (h until_ : Word) : q.ask = .kwait h until_ → objKind (s.obj i) = kWSET → fld (s.obj i) 192 24 = 0 →
      fld (s.obj i) 128 64 ≠ 0 → reportIndex (s.obj i) = none → until_ ≠ 0 →
      ServeRow s q i fun t => Stands t q i ∧ fld (t.obj i) 192 24 = q.team % 2 ^ 24 ∧ RecordsKept s t [i]
        ∧ (until_ ≠ 0xFFFFFFFF → fld (t.obj i) 224 64 = (s.cycle + until_.toNat) % 2 ^ 64 ∧ DueIn t until_.toNat (.kwaitDeadline i))
        ∧ (until_ = 0xFFFFFFFF → fld (t.obj i) 224 64 = 2 ^ 64 - 1)
  -- KARM and KCANCEL (R307, R312)
  | arm (h : Word) (dl : DWord) (abs : Bool) (per : Word) : q.ask = .karm h dl abs per → objKind (s.obj i) = kTIMER →
      fld (s.obj i) 448 32 = 0 →
      ServeRow s q i fun t => Answered t q.id 0 0 [] ∧ objKind (t.obj i) = kTIMER ∧ objState (t.obj i) = 2
        ∧ fld (t.obj i) 64 64 = (if abs then dl.toNat else (s.cycle + dl.toNat) % 2 ^ 64) ∧ fld (t.obj i) 128 64 = per.toNat
        ∧ hasBit (t.obj i) 192 = abs ∧ fld (t.obj i) 208 16 = 0 ∧ RecordsKept s t [i]
        ∧ DueIn t (t.timerWait (t.obj i)) (.timerFire i)
  | armBound (h : Word) (dl : DWord) (abs : Bool) (per : Word) (w : Nat) : q.ask = .karm h dl abs per →
      objKind (s.obj i) = kTIMER → fld (s.obj i) 448 24 = w → fld (s.obj i) 448 32 ≠ 0 → w ≠ i → objKind (s.obj w) = kWSET →
      Roomy s → Cached s w → s.waiter w = none →
      ServeRow s q i fun t => Answered t q.id 0 0 [] ∧ objState (t.obj i) = 2
        ∧ t.obj w = withFld (s.obj w) (64 + fld (s.obj i) 472 6) 1 0
  | cancelIdle (h : Word) : q.ask = .kcancel h → objState (s.obj i) = 1 → ServeRow s q i fun t => Refuses s t q 2 0
  | cancel (h : Word) : q.ask = .kcancel h → objKind (s.obj i) = kTIMER → objState (s.obj i) ≠ 1 → fld (s.obj i) 448 32 = 0 →
      ServeRow s q i fun t => Answered t q.id 0 0 [] ∧ t.obj i = withFld (s.obj i) 4 4 1 ∧ RecordsKept s t [i]
  -- KBIND and KUNBIND (R307)
  | bindClash (h m k : Word) (b rs kind : Nat) : q.ask = .kbind h m k → s.handle q.proc m = some (b, rs, kind) →
      (hasBit (s.obj i) (128 + k.toNat % 64) = true ∨ fld (s.obj b) 448 32 ≠ 0) →
      ServeRow s q i fun t => Refuses s t q 9 0
  | bind (h m k : Word) (b rs kind : Nat) : q.ask = .kbind h m k → s.handle q.proc m = some (b, rs, kind) →
      hasBit (s.obj i) (128 + k.toNat % 64) = false → fld (s.obj b) 448 32 = 0 → i ≠ 0 → i < 2 ^ 24 → objKind (s.obj i) = kWSET →
      objKind (s.obj b) ∈ [kPORT, kTIMER, kTEAM] → Roomy s → Cached s i → Cached s b → s.waiter i = none →
      ServeRow s q i fun t => Answered t q.id 0 0 [] ∧ fld (t.obj b) 448 24 = i ∧ fld (t.obj b) 472 6 = k.toNat % 64
        ∧ hasBit (t.obj i) (128 + k.toNat % 64) = true ∧ hasBit (t.obj i) (64 + k.toNat % 64) = objReady (s.obj b)
        ∧ objRefs (t.obj i) = (objRefs (s.obj i) + 1) % 2 ^ 16 ∧ RecordsKept s t [i, b]
  | unbindEmpty (h k : Word) : q.ask = .kunbind h k → s.memberAt i (k.toNat % 64) = none →
      ServeRow s q i fun t => Refuses s t q 2 0
  | unbind (h k : Word) (b : Nat) : q.ask = .kunbind h k → s.memberAt i (k.toNat % 64) = some b →
      objKind (s.obj i) = kWSET → objKind (s.obj b) ∈ [kPORT, kTIMER, kTEAM] → fld (s.obj b) 448 24 = i →
      fld (s.obj b) 472 6 = k.toNat % 64 → Roomy s → Cached s i → Cached s b → 1 < objRefs (s.obj i) → NothingToFeed s →
      ServeRow s q i fun t => Answered t q.id 0 0 [] ∧ fld (t.obj b) 448 32 = 0
        ∧ hasBit (t.obj i) (128 + k.toNat % 64) = false ∧ hasBit (t.obj i) (64 + k.toNat % 64) = false
        ∧ objRefs (t.obj i) = objRefs (s.obj i) - 1 ∧ RecordsKept s t [i, b]
  -- KDUP and KDROP (R301, R307)
  | dupFull (h mask : Word) : q.ask = .kdup h mask → (s.freeHandle q.proc = none ∨ objRefs (s.obj i) = 65535) →
      ServeRow s q i fun t => Refuses s t q 1 0
  | dup (h mask : Word) (rs kind x : Nat) : q.ask = .kdup h mask → s.handle q.proc h = some (i, rs, kind) →
      s.freeHandle q.proc = some x → objRefs (s.obj i) ≠ 65535 → objKind (s.obj i) ≠ 0 →
      ServeRow s q i fun t =>
        let gen := bitsNat (s.handleEntry q.proc x) 24 8
        Answered t q.id 0 (BitVec.ofNat 32 (gen + x * 256)) [] ∧ objRefs (t.obj i) = objRefs (s.obj i) + 1
        ∧ RecordsKept s t [i]
        ∧ (s.Inv → Roomy s → Cached s q.proc → (∀ k < 8, s.confOf (s.handleKey q.proc x + k) = none) →
          t.handleEntry q.proc x
            = BitVec.ofNat 64 (i + gen * 2 ^ 24 + (rs &&& mask.toNat % 256) * 2 ^ 32 + objKind (s.obj i) * 2 ^ 40))
  | drop (h : Word) (rs kind : Nat) : q.ask = .kdrop h → s.handle q.proc h = some (i, rs, kind) → objKind (s.obj i) ≠ 0 →
      Cached s i → 1 < objRefs (s.obj i) → NothingToFeed s →
      ServeRow s q i fun t =>
        let x := bitsNat h 8 24
        let a := s.handleKey q.proc x
        Answered t q.id 0 0 [] ∧ RecordsKept s t [i]
        ∧ objRefs (t.obj i) = objRefs (s.obj i) - 1
        ∧ (s.Inv → Roomy s → Cached s q.proc → (∀ k < 8, s.confOf (a + k) = none) →
          (∀ k < 64, s.confOf (s.objKey i + k) = none) → (a + 8 ≤ s.objKey i ∨ s.objKey i + 64 ≤ a) →
          (t.handleEntry q.proc x).extractLsb' 40 4 = 0
            ∧ (t.handleEntry q.proc x).extractLsb' 24 8 = (s.handleEntry q.proc x).extractLsb' 24 8 + 1)
  | dropLast (h : Word) (rs kind : Nat) : q.ask = .kdrop h → s.handle q.proc h = some (i, rs, kind) → Cached s i →
      objKind (s.obj i) ∈ [kWSET, kGRAPH, kWORK] → objRefs (s.obj i) ≤ 1 → NothingToFeed s → rgnEn s = false →
      s.deviceWaits (s.objKey i) = false →
      ServeRow s q i fun t => Answered t q.id 0 0 [] ∧ t.freedIds = s.freedIds ++ [i] ∧ t.objs.lookup i = none
        ∧ RecordsKept s t [i]
  -- KINFO (R313)
  | info (h : Word) (n : Nat) (f : BitVec 512 → Nat) : q.ask = .kinfo h n → InfoRow (objKind (s.obj i)) n f →
      ServeRow s q i fun t => Answered t q.id 0 (BitVec.ofNat 32 (f (s.withFps i))) [] ∧ t.objs = s.objs
  | noInfo (h : Word) (n : Nat) : q.ask = .kinfo h n → (∀ f, ¬ InfoRow (objKind (s.obj i)) n f) →
      ServeRow s q i fun t => Refuses s t q 2 0
  -- KWAVE (R310)
  | waveDying (b : BitVec 768) (bs : List BufRec) : q.ask = .kwave b bs → s.dying q.proc = true →
      ServeRow s q i fun t => Refuses s t q 7 12
  | waveReserved (b : BitVec 768) (bs : List BufRec) : q.ask = .kwave b bs → s.dying q.proc = false → ¬ blockOk b →
      ServeRow s q i fun t => Refuses s t q 7 10
  | waveUnread (b : BitVec 768) (bs : List BufRec) : q.ask = .kwave b bs → s.dying q.proc = false → blockOk b →
      s.vreadNat q.part q.proc (blockDesc b) 32 = none → ServeRow s q i fun t => Refuses s t q 7 11
  | waveDesc (b : BitVec 768) (bs : List BufRec) (d : Rec256) (n : Nat) : q.ask = .kwave b bs → WaveReads s q b d →
      descFault d = some n → ServeRow s q i fun t => Refuses s t q 7 n
  | waveNoDie (b : BitVec 768) (bs : List BufRec) (d : Rec256) : q.ask = .kwave b bs → WaveReads s q b d → descFault d = none →
      s.waveDie q.part (blockAff b) = none → ServeRow s q i fun t => Refuses s t q 7 9
  | waveFull (b : BitVec 768) (bs : List BufRec) (d : Rec256) (die n : Nat) : q.ask = .kwave b bs → WaveReads s q b d →
      descFault d = none → s.waveDie q.part (blockAff b) = some die →
      ((s.freeHandle q.proc = none ∧ n = 1)
        ∨ ((s.freeHandle q.proc).isSome = true ∧ s.freeId q.part die = none ∧ n = 5)
        ∨ ((s.freeHandle q.proc).isSome = true ∧ (s.freeId q.part die).isSome = true ∧ s.queueRoom q.part die = false ∧ n = 2)) →
      ServeRow s q i fun t => Refuses s t q 1 n
  | wave (b : BitVec 768) (bs : List BufRec) (d : Rec256) (die x n : Nat) : q.ask = .kwave b bs → WaveReads s q b d →
      descFault d = none → s.waveDie q.part (blockAff b) = some die → s.freeHandle q.proc = some x →
      s.freeId q.part die = some n → s.queueRoom q.part die = true → objKind (s.obj q.proc) = kPROC → Roomy s →
      Cached s q.proc →
      ServeRow s q i fun t => (∃ v, Answered t q.id 0 v [] ∧ v.extractLsb' 8 24 = BitVec.ofNat 24 x)
        ∧ t.images = s.images ++
          [{ team := freshTeam n q.part q.proc d (blockBase b) 0 0 0 (blockArgs b) bs 0, die := die }]
        ∧ (∃ e ∈ t.runq, e.oid = n ∧ e.die = die ∧ e.pri = blockPri b) ∧ objKind (t.obj n) = kTEAM ∧ objState (t.obj n) = 1
        ∧ objOwner (t.obj n) = q.proc % 2 ^ 24 ∧ objRefs (t.obj n) = 2
  -- Names and work: the request stands while its node is asked (R253, R320 to R324)
  | look (dir : Bool) (name : BitVec 256) : q.ask = .klook dir name →
      ServeRow s q i fun t => t.objs = s.objs ∧ DueLater t (.nameLookup q.id)
        ∧ ∃ r, t.req q.id = some r ∧ r.stage = .pending 0 ∧ r.ns = nsid s q.part
  | nameFull (h : Word) (name : BitVec 256) (n : Nat) : q.ask = .kname h name →
      ((s.freeHandle q.proc = none ∧ n = 0)
        ∨ ((s.freeHandle q.proc).isSome = true ∧ s.freeId q.part (objHome i) = none ∧ n = 5)) →
      ServeRow s q i fun t => Refuses s t q 1 n
  | name (h : Word) (name : BitVec 256) (x n : Nat) : q.ask = .kname h name → s.freeHandle q.proc = some x →
      s.freeId q.part (objHome i) = some n →
      ServeRow s q i fun t => t.objs = s.objs ∧ DueLater t (.directoryInsert q.id)
        ∧ ∃ r, t.req q.id = some r ∧ r.stage = .pending i ∧ r.keep = some (x, n) ∧ r.ns = nsid s q.part
  | next (h : Word) (a : Nat) : q.ask = .knext h a →
      ServeRow s q i fun t => t.objs = s.objs ∧ Stands t q i ∧ DueIn t 1 (.knextServe q.id)
  -- Another package's send (R326)
  | arrives (pkg ref sender nameId port : Nat) (name : BitVec 256) (m : BitVec 512) (g : Option Page) :
      q.ask = .far pkg ref sender nameId name port m g → s.farNamed nameId name port = true → objKind (s.obj port) = kPORT →
      s.live (objHome port) = true → (s.portMsgs port).length < fld (s.obj port) 64 9 →
      (∀ p, g = some p → fld (s.obj port) 251 6 ≠ 0 ∧ fld (s.obj port) 249 2 = p.sz) →
      ServeRow s q i fun t => t.req q.id = none
        ∧ t.portMsgs port = s.portMsgs port ++
          [{ bits := m, sender := sender, pkg := pkg, page := g, req := if g.isSome then some (.far pkg ref) else none }]
  | turnedAway (pkg ref sender nameId port : Nat) (name : BitVec 256) (m : BitVec 512) (g : Option Page) :
      q.ask = .far pkg ref sender nameId name port m g →
      (s.farNamed nameId name port = false ∨ objKind (s.obj port) ≠ kPORT ∨ s.live (objHome port) = false
        ∨ fld (s.obj port) 64 9 ≤ (s.portMsgs port).length
        ∨ ∃ p, g = some p ∧ (fld (s.obj port) 251 6 = 0 ∨ fld (s.obj port) 249 2 ≠ p.sz)) →
      ServeRow s q i fun t => t.req q.id = none ∧ t.objs = s.objs ∧ t.ports = s.ports ∧ t.mem = s.mem

end Sys2Proof.Claims
end

