-- ==== Sys2Proof/Certificates/Slice0/Obligations.lean ====
section
/-! DEFINITION. The statements for the provers. -/

open Sys2Proof Sys2Proof.Machine Sys2Proof.Claims

/-! Results (spec/04, 05, 06, 07). -/

/-- Every integer, address, bit, move and predicate instruction of class 0, in every register and immediate form, completes
where it issues, and leaves exactly its results: the destination of each thread it acts for (once for a uniform form), FPS,
and the PCs; every other register, all of memory and the rest of the machine stay as they were (R19, R24 to R26, R59, R81,
R83 to R94, R97, R122).  A uniform ISEL reads its predicate from the first active
thread (R97); the model's choice: a uniform IADDC takes its carry from the first active thread and writes its carry-out to every active
thread (log 30). -/
def Obligations.IntegerInstructionsDeliver : Prop :=
  ∀ (i : Instr) (r : Row), IntegerRow i r →
    ∀ (s : State) (x : Ctx) (act : List Nat), s.Issues r.issue x act → r.Fits x act →
      ∃ t, exec i s = .next t ∧ r.Done s t x act

/-- The scalar instructions of class 1 likewise: computed once, written to an s register or to every thread of the run
(R25, R96, R97). -/
def Obligations.ScalarInstructionsDeliver : Prop :=
  ∀ (i : Instr) (r : Row), ScalarRow i r →
    ∀ (s : State) (x : Ctx) (act : List Nat), s.Issues r.issue x act → r.Fits x act →
      ∃ t, exec i s = .next t ∧ r.Done s t x act

/-- The floating-point, packed, dot and conversion instructions likewise; a thread whose result raises an enabled flag takes
FPX instead and keeps its destination (R102, R103, R106 to R116).  The model's choices: the free results of R111 (log 10), when
underflow is raised (log 12), that .sat keeps an incoming infinity (log 13), that FFRC of an integral value is +0 (log 81), and .sat of
an integer widening (log 88). -/
def Obligations.FloatInstructionsDeliver : Prop :=
  ∀ (i : Instr) (r : Row), FloatRow i r →
    ∀ (s : State) (x : Ctx) (act : List Nat), s.Issues r.issue x act → r.Fits x act →
      ∃ t, exec i s = .next t ∧ r.Done s t x act

/-- SHFL, VOTE, REDW, SCANW, MATCHW, SFIRST, SRD, BXPACK and BXUNPK likewise; BXPACK's word for an absent position is a free
value (R98, R99, R117, R118, R131 to R136).  The model's choices: that free value (log 14), a lone NaN that REDW and SCANW deliver bit for
bit (log 78), and the block of a non-finite input under BXPACK (log 79). -/
def Obligations.CrossThreadInstructionsDeliver : Prop :=
  ∀ (i : Instr) (r : Row), CrossRow i r →
    ∀ (s : State) (x : Ctx) (act : List Nat), s.Issues r.issue x act → r.Fits x act →
      ∃ t, exec i s = .next t ∧ r.Done s t x act

/-! Control, ordering and traps (spec/02, 07, 08, 10). -/

/-- BRA, BRX, CALL and RET: each active thread enters the clause at its target, CALL's having the word after it in the
link pair; the rest of the run falls through; no other thread moves and nothing else changes (R122, R25). -/
def Obligations.TransfersGo : Prop :=
  ∀ (i : Instr) (iss : Issue) (link : Option (BitVec 6)) (tgt : Ctx → Nat → WAddr), TransferRow i iss link tgt →
    ∀ (s : State) (x : Ctx) (act : List Nat), s.Issues iss x act →
      x.room ((linkWrites link x act).map (·.logKey x.w.team x.w.wid)) = true →
      ∃ t, exec i s = .next t ∧ Went s t x (linkWrites link x act) act (tgt x)

/-- NOP, YIELD, WAIT, TWAIT, FENCE, BARINIT, BARA, BARX, BARW and MSTART go on where their condition holds, and change
nothing but their barrier or their sequencer, and for YIELD the run's yield marks (R127, R130, R174, R176 to R180, R203).

YIELD's mark: inside a clause it stands on every thread of the run until the run comes to a clause boundary; at one, no thread
is marked any more, and the run has been rotated, its RQ above that of every other eligible thread, unless all threads that
are eligible then stand at one PC (R23, R196, R197, R203). -/
def Obligations.ConditionsMetPass : Prop :=
  (∀ (i : Instr) (iss : Issue) (c : Ctx → Prop) (f : Ctx → List Nat → Team → Team), PassRow i iss c f →
    ∀ (s : State) (x : Ctx) (act : List Nat), s.Issues iss x act → c x →
      ∃ t, exec i s = .next t ∧ s.Passed t x 1 ∧ TeamOnly s t x.w (f x act))
  ∧ ∀ (f : RForm) (s : State) (x : Ctx) (act : List Nat), s.Issues { g := f.g, uniform := true } x act →
    ((∀ a ∈ x.run, (x.thread a).mark = false ∧ x.pc + 1 ≠ (x.thread a).clauseEnd) →
      ∃ t, exec (.yield f) s = .next t ∧ ∀ a ∈ x.run, (t.threadAt x.w a).yld = true)
    ∧ ((∃ a ∈ x.run, x.pc + 1 = (x.thread a).clauseEnd) →
      ∃ t, exec (.yield f) s = .next t ∧ (∀ a, a < 32 → (t.threadAt x.w a).yld = false)
        ∧ ((∃ a ∈ x.run, ∃ b, b < 32 ∧ b ∉ x.run ∧ (x.thread b).life = .eligible ∧ (x.thread b).pc ≠ x.nextPc a) →
          ∀ a ∈ x.run, ∀ b, b < 32 → b ∉ x.run → (x.thread b).life = .eligible →
            (t.threadAt x.w b).rq < (t.threadAt x.w a).rq))

/-- Where the condition fails, the run is held: a cycle passes and it stands where it stood (R26, R130, R170, R174, R176,
R178, R180). -/
def Obligations.ConditionsUnmetHold : Prop :=
  ∀ (i : Instr) (iss : Issue) (c : Ctx → Prop), HoldRow i iss c →
    ∀ (s : State) (x : Ctx) (act : List Nat), s.Issues iss x act → c x →
      ∃ t, exec i s = .next t ∧ s.Held t x ∧ TeamOnly s t x.w id

/-- TRAP, BKPT, and MSTART in a team without a sequencer: every active thread takes its trap at this word, the rest of the
run goes on (R28, R29, R128, R130, R149). -/
def Obligations.SoftwareTrapsAreTaken : Prop :=
  ∀ (i : Instr) (iss : Issue) (c : Ctx → Prop) (tr : Trap), TrapRow i iss c tr →
    ∀ (s : State) (x : Ctx) (act : List Nat), s.Issues iss x act → c x →
      ∃ t, exec i s = .next t ∧ s.Delivered t x [] 0 act (fun _ => tr) 1

/-- TFIND, BART and PERFR deliver one result to uniform registers (R179, R180, R288). -/
def Obligations.UniformResultsDeliver : Prop :=
  ∀ (i : Instr) (r : Row) (c : Ctx → Prop), UniformRow i r c →
    ∀ (s : State) (x : Ctx) (act : List Nat), s.Issues r.issue x act → r.Fits x act → c x →
      ∃ t, exec i s = .next t ∧ r.Done s t x act

/-- EXIT: each active thread has exited, the rest of the run falls through, and nothing else changes (R126).

RCV: where every eligible thread outside the run is held at a later RCV the run passes; elsewhere each thread of the run
is held at this word, in tier 2 (R125, R196). -/
def Obligations.ThreadsLeaveAndJoin : Prop :=
  (∀ (f : RForm) (s : State) (x : Ctx) (act : List Nat), s.Issues { g := f.g, uniform := true } x act →
    ∃ t, exec (.exit f) s = .next t ∧ TeamOnly s t x.w id ∧ s.Wrote t x.w [] ∧ t.cycle = s.cycle + 1
      ∧ (∀ a ∈ act, (t.threadAt x.w a).life = .exited)
      ∧ (∀ a ∈ x.run, a ∉ act → t.pcAt x.w a = x.nextPc a ∧ (t.threadAt x.w a).life = .eligible)
      ∧ (∀ a, a < 32 → a ∉ x.run → t.pcAt x.w a = s.pcAt x.w a ∧ (t.threadAt x.w a).life = (s.threadAt x.w a).life)
      ∧ ∀ a, a < 32 → t.recAt x.w a = s.recAt x.w a)
  ∧ (∀ (f : RForm) (s : State) (x : Ctx) (act : List Nat), s.Issues { g := .always, uniform := true } x act →
    ((∀ a, a < 32 → a ∉ x.run → (x.thread a).life = .eligible → (x.thread a).tier = 2 ∧ x.pc.toNat < (x.thread a).pc.toNat) →
      ∃ t, exec (.rcv f) s = .next t ∧ s.Passed t x 1 ∧ TeamOnly s t x.w id)
    ∧ ((∃ a, a < 32 ∧ a ∉ x.run ∧ (x.thread a).life = .eligible
        ∧ ¬ ((x.thread a).tier = 2 ∧ x.pc.toNat < (x.thread a).pc.toNat)) →
      ∃ t, exec (.rcv f) s = .next t ∧ TeamOnly s t x.w id ∧ s.Wrote t x.w [] ∧ t.cycle = s.cycle + 1
        ∧ (∀ a ∈ x.run, (t.threadAt x.w a).tier = 2)
        ∧ ∀ a, a < 32 → t.pcAt x.w a = s.pcAt x.w a ∧ t.recAt x.w a = s.recAt x.w a
          ∧ (t.threadAt x.w a).life = (s.threadAt x.w a).life))

/-- TRET: where each active thread's header is translated and legal and its clause holds `%xpc`, counted from `%xcb` modulo
2^48, and the undo log has room for their records, each resumes there with HND and CODE clear and the rest of its record as
it was (R33, R129, R282).

SWR writes bits 47:0 of its pair to `%xpc` or `%xcb` of every thread of the run, and nothing else of the record
(R30, R100). -/
def Obligations.TrapRecordsServe : Prop :=
  (∀ (f : RForm) (s : State) (x : Ctx) (act : List Nat), s.Issues { g := f.g, uniform := true } x act →
    (∀ a ∈ act, Resumes x a) → x.room (x.rcdKeys act) = true →
    ∃ t, exec (.tret f) s = .next t ∧ TeamOnly s t x.w id ∧ s.Wrote t x.w [] ∧ t.cycle = s.cycle + 1
      ∧ (∀ a ∈ act, t.pcAt x.w a = (s.threadAt x.w a).xpc ∧ (t.threadAt x.w a).cb = (s.threadAt x.w a).xcb
          ∧ (t.threadAt x.w a).mark = true ∧ (t.threadAt x.w a).life = .eligible
          ∧ (t.recAt x.w a).extractLsb' 0 9 = 0 ∧ (t.recAt x.w a).extractLsb' 9 247 = (s.recAt x.w a).extractLsb' 9 247)
      ∧ (∀ a ∈ x.run, a ∉ act → t.pcAt x.w a = x.nextPc a ∧ t.recAt x.w a = s.recAt x.w a)
      ∧ ∀ a, a < 32 → a ∉ x.run → t.pcAt x.w a = s.pcAt x.w a ∧ t.recAt x.w a = s.recAt x.w a)
  ∧ (∀ (f : RForm) (s : State) (x : Ctx) (act : List Nat),
    s.Issues { g := f.g, uniform := true, reads := regsOf f.a true true } x act →
    x.room (x.run.map fun t => LogKey.rcd x.w.team x.w.wid (t / 2)) = true →
    ∃ t, exec (.swr f) s = .next t ∧ TeamOnly s t x.w id ∧ s.Wrote t x.w [] ∧ t.cycle = s.cycle + 1
      ∧ (∀ a ∈ x.run, t.pcAt x.w a = x.nextPc a
          ∧ (t.threadAt x.w a).xpc = (if f.d = 15 then (x.spair f.a).setWidth 48 else (s.threadAt x.w a).xpc)
          ∧ (t.threadAt x.w a).xcb = (if f.d = 15 then (s.threadAt x.w a).xcb else (x.spair f.a).setWidth 48)
          ∧ (t.recAt x.w a).extractLsb' 0 16 = (s.recAt x.w a).extractLsb' 0 16
          ∧ (t.recAt x.w a).extractLsb' 112 144 = (s.recAt x.w a).extractLsb' 112 144)
      ∧ ∀ a, a < 32 → (t.threadAt x.w a).life = (s.threadAt x.w a).life
          ∧ (a ∉ x.run → t.pcAt x.w a = s.pcAt x.w a ∧ t.recAt x.w a = s.recAt x.w a))

/-! The matrix stream (spec/04, 14). -/

/-- The sequencer words: each goes on where it may, with its effect on the stream registers, its barrier and SPC, and
nothing else (R244, R245). -/
def Obligations.SequencerWordsGo : Prop :=
  ∀ (i : Instr) (c : SeqCtx → Prop) (f : SeqCtx → Team) (ev : SeqCtx → List (Nat × Due)), SeqRow i c f ev →
    ∀ (s : State) (x : SeqCtx), s.seqCtx = some x → c x →
      ∃ t, exec i s = .next t ∧ SeqStep s t x (f x) (ev x) ∧ (t.core x.c).engineLast = (s.core x.c).engineLast

/-- MMA, MZERO, MLOAD and MDRAIN: with the engine free and not another stream's in turn, and the tile and the ranges good, the
word is in the engine for its cycles with the stream registers that it read, the sequencer goes on, this stream having taken
the engine last; while the engine is held, a cycle passes.  In its last cycle, with room in the undo log, its effects occur on
the scratchpad as it then stands and nothing else of the core's teams changes; without room it waits, and in a rollback nothing
happens (R236, R238 to R243, R249, R282).  The scratchpad is one that nobody has written to since the word started; of elements that
were, each is met before the change or after it, of a free choice (log 73). -/
def Obligations.EngineWordsGo : Prop :=
  (∀ (i : Instr) (aux : Word) (acc : BitVec 3) (rd out : SeqCtx → List Range) (tile : Bool) (f : SeqCtx → Team) (n : Nat),
    EngineRow i aux acc rd out tile f n →
    ∀ (s : State) (x : SeqCtx), s.seqCtx = some x → acc.toNat < x.team.acc →
      (∀ r ∈ rd x ++ out x, r.1 % 16 = 0 ∧ r.1 + r.2 ≤ x.team.sz) →
      (x.core.engineHeld x.team.oid = false →
        ∃ t, exec i s = .next t ∧ SeqStep s t x (engaged i x.team)
            (fetchDue x ++ [(s.cycle + n, .engineWordComplete x.c x.team.oid)])
          ∧ (t.core x.c).engineLast = some x.team.oid)
      ∧ (x.core.engineHeld x.team.oid = true → ∃ t, exec i s = .next t ∧ SeqStep s t x x.team []))
  ∧ ∀ (i : Instr) (aux : Word) (acc : BitVec 3) (rd out : SeqCtx → List Range) (tile : Bool) (f : SeqCtx → Team) (n : Nat),
    EngineRow i aux acc rd out tile f n →
    ∀ (s : State) (c : CoreId) (oid : Nat) (q : Team) (m : List Word), (s.core c).team oid = some q →
      q.seq.engine = some (i, m) → q.seq.seen = q.sp →
      let x := inEngine s c q m
      ((s.core c).rollback = none → (s.core c).room (engineLines x acc (out x) tile) = true →
        ∃ t, exec (.engineWordComplete c oid) s = .next t ∧ CoreOnly s t c
          ∧ (t.core c).team oid = some { f x with seq := { q.seq with engine := none, seen := [] } }
          ∧ ∀ o, o ≠ oid → (t.core c).team o = (s.core c).team o)
      ∧ ((s.core c).rollback = none → (s.core c).room (engineLines x acc (out x) tile) = false →
        ∃ t, exec (.engineWordComplete c oid) s = .next t ∧ CoreOnly s t c ∧ (t.core c).teams = (s.core c).teams
          ∧ DueIn t 1 (.engineWordComplete c oid))
      ∧ ((s.core c).rollback.isSome = true → exec (.engineWordComplete c oid) s = .next s)

/-- An engine word with a tile the team has not, or a range misaligned or outside its scratchpad, has no effect: the stream
stops, and its recorder is to take MSTREAM with SPC's address and the word's bits 63:32; a word behind one that is still in the engine
waits, whatever it holds (R236, R238, R246). -/
def Obligations.EngineWordFaults : Prop :=
  ∀ (i : Instr) (aux : Word) (acc : BitVec 3) (rd out : SeqCtx → List Range) (tile : Bool) (f : SeqCtx → Team) (n : Nat),
    EngineRow i aux acc rd out tile f n →
    ∀ (s : State) (x : SeqCtx) (w k : Nat) (v : Wave), s.seqCtx = some x →
      (x.team.seq.busy = true → ∃ t, exec i s = .next t ∧ SeqStep s t x x.team [])
      ∧ (x.team.seq.busy = false →
      (x.team.acc ≤ acc.toNat ∨ ∃ r ∈ rd x ++ out x, r.1 % 16 ≠ 0 ∨ x.team.sz < r.1 + r.2) →
      x.team.seq.recorder = some (w, k) → x.team.wave w = some v → k < 32 → (v.thread k).life ≠ .exited →
      ∃ t q, exec i s = .next t ∧ (t.core x.c).team x.team.oid = some q ∧ q.seq.run = false
        ∧ q.tiles = x.team.tiles ∧ q.sp = x.team.sp
        ∧ (t.threadAt ⟨x.c, x.team.oid, w⟩ k).mtraps
          = (v.thread k).mtraps ++ [(BitVec.ofNat 57 (8 * x.team.seq.spc.toNat), aux)])

/-! Memory (spec/09, 10, 17). -/

/-- The checks of one access, in their order: ALIGN; then BOUNDS where a chunk is out of range with Z = 0 or the record is
malformed; an access with no chunk in range, or an atomic with one out of range, touches nothing; else each in-range chunk
goes on (R156 to R158).  The model's choice: each byte of a chunk that straddles a swizzle unit has its own address (log 83). -/
def Obligations.AccessChecks : Prop :=
  ∀ (b : BufRec) (buf : Nat) (o : Int) (n : Nat) (whole : Bool), n ≤ 4 →
    let w := 2 ^ n
    let va := BitVec.ofInt 57 (bufBase b + o)
    ((bufBase b + o) % (w : Nat) ≠ 0 → checkAcc b buf o w whole = .trap ⟨5, va, BitVec.ofNat 32 w⟩)
    ∧ ((bufBase b + o) % (w : Nat) = 0 →
      ((bufBad b = true ∨ (bufZ b = false ∧ ∃ k < w, ¬ ChunkIn b o w k)) →
        checkAcc b buf o w whole = .trap ⟨4, va, BitVec.ofNat 32 buf⟩)
      ∧ (bufBad b = false → bufZ b = true → ((∀ k < w, ¬ ChunkIn b o w k) ∨ (whole = true ∧ ∃ k < w, ¬ ChunkIn b o w k)) →
        checkAcc b buf o w whole = .drop)
      ∧ (bufBad b = false → (∀ k < w, ChunkIn b o w k) →
        checkAcc b buf o w whole = .go ((List.range w).map fun (k : Nat) => some (bufVa b (o + (k : Int)))))
      ∧ (bufBad b = false → bufZ b = true → whole = false → (∃ k < w, ChunkIn b o w k) →
        ∃ bs, checkAcc b buf o w whole = .go bs ∧ bs.length = w
          ∧ ∀ k, (h : k < bs.length) → (ChunkIn b o w k → bs[k] = some (bufVa b (o + k))) ∧ (¬ ChunkIn b o w k → bs[k] = none)))

/-- LDB, LDC, STB, ATB, REDB, CINV and CWB, where every access commits and nothing makes it wait: the run goes on, the
counter's operation is raised, a load's value stands to be delivered, a store, a wide atomic or maintenance is held behind
every earlier effect, an atomic of core scope is performed in the L1; memory, registers and the scratchpad are as they were
(R157 to R169, R173, R193, R283).  The model's choices: a load's value is found at issue (log 4), the order among the held effects
(log 17), where a core-scope atomic is performed (log 31), the counter of a run without an access (log 53), the zeros of a dropped access
of LDC (log 54), and the address of a swizzled record (log 83). -/
def Obligations.MemoryAccessesIssue : Prop :=
  ∀ (i : Instr) (a : Access), AccessRow i a →
    ∀ (s : State) (x : Ctx) (act : List Nat), s.Issues a.issue x act → free x a.cls → Commit (a.fates x act).2 →
      a.ready (a.fates x act).1 (a.fates x act).2 →
      ∃ t, exec i s = .next t
        ∧ Accessed s t x (a.effect (a.fates x act).1 (a.fates x act).2) id (a.issue.cost act)

/-- Where every access of such an instruction traps, each active thread takes its trap at this word and nothing of its
access is performed: memory, registers and the hold-back buffer are as they were (R28, R158, R159, R163, R171). -/
def Obligations.MemoryAccessesTrap : Prop :=
  ∀ (i : Instr) (a : Access), AccessRow i a →
    ∀ (s : State) (x : Ctx) (act : List Nat), s.Issues a.issue x act → free x a.cls → Refused (a.fates x act).2 →
      a.ready (a.fates x act).1 (a.fates x act).2 → x.room (x.rcdKeys act) = true →
      ∃ t, exec i s = .next t ∧ s.Elsewhere t x.w ∧ s.Wrote t x.w [] ∧ t.cycle = s.cycle + a.issue.cost act
        ∧ (t.core x.w.core).held = x.core.held ∧ (t.teamOf x.w).map (·.sp) = (s.teamOf x.w).map (·.sp)
        ∧ (∀ u ∈ act, ∃ tr, trapOf a (a.fates x act).2 u tr
          ∧ t.pcAt x.w u = ((s.threadAt x.w u).take x.team tr x.pc (s.threadAt x.w u).cb).1.pc
          ∧ t.recAt x.w u = ((s.threadAt x.w u).take x.team tr x.pc (s.threadAt x.w u).cb).1.rcd
          ∧ (t.threadAt x.w u).life = ((s.threadAt x.w u).take x.team tr x.pc (s.threadAt x.w u).cb).1.life)
        ∧ ∀ u ∈ x.run, u ∉ act → t.pcAt x.w u = x.nextPc u ∧ t.recAt x.w u = s.recAt x.w u

/-- PREF changes nothing that a program sees: it fills the TLBs at most, and the run goes on (R168, R169).

RFENCE drops the process's cached records, or the one at its address, and nothing else (R216). -/
def Obligations.HintsAndRecordFences : Prop :=
  (∀ (f : MForm) (s : State) (x : Ctx) (act : List Nat), s.Issues (accIssue f f.ak [] []) x act →
    ∃ t, exec (.pref f) s = .next t ∧ s.Passed t x ((accIssue f f.ak [] []).cost act)
      ∧ (t.waveAt x.w).map (·.2.ops) = (s.waveAt x.w).map (·.2.ops) ∧ (t.teamOf x.w).map still = (s.teamOf x.w).map still
      ∧ (t.core x.w.core).held = (s.core x.w.core).held ∧ coreFixed (t.core x.w.core) = coreFixed (s.core x.w.core))
  ∧ (∀ (f : XForm) (s : State) (x : Ctx) (act : List Nat),
    s.Issues { g := f.g, uniform := true, reads := if f.mod.getLsbD 0 then regsOf f.a true true else [] } x act →
    ∃ t, exec (.rfence f) s = .next t ∧ s.Passed t x 1 ∧ (t.teamOf x.w).map still = (s.teamOf x.w).map still
      ∧ (t.core x.w.core).held = (s.core x.w.core).held ∧ coreFixed (t.core x.w.core) = coreFixed (s.core x.w.core)
      ∧ (t.core x.w.core).tlb = (s.core x.w.core).tlb
      ∧ ∀ e, e ∈ (t.core x.w.core).rcache ↔ e ∈ (s.core x.w.core).rcache
        ∧ ¬ (e.proc = x.team.proc ∧ (f.mod.getLsbD 0 = true → e.ra = (x.spair f.a).setWidth 57)))

/-- LDS, STS and ATS, with every address aligned and inside the scratchpad, no queue of their banks full and nothing else to
wait for: the requests stand at their banks in ascending thread order, one a cycle, and the scratchpad, memory and registers
are as they were (R165, R169, R170; log 51). -/
def Obligations.ScratchpadAccessesIssue : Prop :=
  ∀ (i : Instr) (f : MForm) (cls : OpClass) (reads writes : List Reg) (b : Ctx → Nat → BankAct),
    SpadRow i f cls reads writes b →
    ∀ (s : State) (x : Ctx) (act : List Nat), s.Issues (spadIssue f reads writes) x act → free x cls →
      (f.order.getLsbD 1 = true → x.readsOpen = false ∧ x.spadOpen = false) → (reads ≠ [] → x.relWaits false = false) →
      (∀ q ∈ spadReqs f x act b, ∀ n ∈ q.banksOf, x.core.bankFull n = false) →
      (∀ t ∈ act, offsetOf f x t % (bytesOf f : Nat) = 0 ∧ 0 ≤ offsetOf f x t ∧ offsetOf f x t + bytesOf f ≤ x.team.sz) →
      ∃ t, exec i s = .next t
        ∧ Accessed s t x
          { op := { id := 0, cls := cls, pend := writes, spad := true, acq := f.order.getLsbD 0
                    left := (spadReqs f x act b).length } }
          (fun q => { q with banks := q.banks ++ spadReqs f x act b }) ((spadIssue f reads writes).cost act)
        ∧ ∀ q ∈ spadReqs f x act b, (q.at_ + 1, Due.scratchpadBankServe x.w.core (q.banksOf.headD 0)) ∈ t.agenda

/-! Copies (spec/12, 16). -/

/-- TCOPY, TSTORE, TRED and GATHR: with the record read and legal, its pages pinned and room in the hold-back buffer, the
copy is handed to its engine with the adjusted record, its tag is busy and its counter up; nothing has moved yet (R209,
R215 to R221, R224, R283). -/
def Obligations.RecordCopiesIssue : Prop :=
  ∀ (i : Instr) (f : XForm) (out : Bool) (rights : BitVec 3) (extra : Win → List Nat) (reads : List Reg)
    (idxOf : Ctx → Option (List Word) → Prop), RecordRow i f out rights extra reads idxOf →
    ∀ (s : State) (x y z : Ctx) (act : List Nat) (r : ShapeRec) (idx : Option (List Word)) (pins : List Tlb),
      let iss : Issue := { g := f.g, uniform := true, reads := regsOf f.a true true ++ reads }
      s.Issues iss x act → CopyFree f x .cp out → Undenied x act → ((x.spair f.a).setWidth 57 : BitVec 57).toNat % 64 = 0 →
      RecordRead x ((x.spair f.a).setWidth 57) y r → idxOf y idx →
      countWaits y (adjust y f r) idx (extra (adjust y f r)) rights = [] →
      recordFault y (adjust y f r) idx (extra (adjust y f r)) rights = none →
      Pinned y (winNeeds (adjust y f r) idx rights) z pins → (out = true → z.holdRoom 1 = true) →
      ∃ t, exec i s = .next t
        ∧ Accessed s t x { copyEffect x .cp out with rcache := some y.core.rcache }
          (withCopy x f out { id := 0, wid := 0, op := 0, ins := i, rcd := r, wst := (adjust y f r).wst
                              spa := (adjust y f r).spa, sps := (adjust y f r).sps, idx := idx.getD [], pins := pins
                              len := (adjust y f r).footprint idx }) 1

/-- BCOPY, DCOPY and ACOPY likewise (R222 to R224, R269, R270). -/
def Obligations.BufferCopiesIssue : Prop :=
  ∀ (i : Instr) (f : XForm) (cls : OpClass) (out : Bool) (reads : List Reg) (c : Ctx → Prop) (needs : Ctx → List Need)
    (mk : Ctx → Copy), BufferRow i f cls out reads c needs mk →
    ∀ (s : State) (x z : Ctx) (act : List Nat) (pins : List Tlb),
      s.Issues { g := f.g, uniform := true, reads := reads } x act → CopyFree f x cls out → Undenied x act → c x →
      Pinned x (needs x) z pins → (out = true → z.holdRoom 1 = true) →
      ∃ t, exec i s = .next t
        ∧ Accessed s t x (copyEffect x cls out) (withCopy x f out { mk x with pins := pins }) 1

/-! Class 6 (spec/15, 18, 19, 22). -/

/-- Every class-6 instruction, with KC below 62, good scratchpad operands and room in the hold-back buffer, sends its
request as a held effect: KC goes up, its result registers are pending, the request holds what it read, and nothing else
changes but the tag of a CATCH (R253, R283, R305, R308, R323, R389). -/
def Obligations.KernelRequestsIssue : Prop :=
  ∀ (i : Instr) (f : KForm) (reads : List Reg) (pair : Bool) (ops : Ctx → List SpadArg) (pre : Ctx → List Nat → Ctx → Prop)
    (ask : Ctx → Ask), KernelRow i f reads pair ops pre ask →
    ∀ (s : State) (x y : Ctx) (act : List Nat), s.Issues (kernelIssue f reads pair) x act → KernelFree x →
      (∀ a ∈ ops x, operandOk x a) → pre x act y → y.holdRoom 1 = true →
      ∃ t, exec i s = .next t ∧ t.reqs = s.reqs ++ [requestOf x f pair (ask x)]
        ∧ Accessed s { t with reqs := s.reqs } x (kernelEffect f pair)
          (fun q => { q with tags := y.team.tags, busy := y.team.busy }) 1

/-- A class-6 instruction whose scratchpad operand is misaligned or out of range is a trap of every thread that passes the
guard: ALIGN with the alignment in AUX, or BOUNDS; it raises no counter and sends nothing (R253, R305, R389).  A grant
pair's ALIGN, with its page size in AUX, goes before the message's BOUNDS (R32, R308). -/
def Obligations.KernelOperandsTrap : Prop :=
  (∀ (i : Instr) (f : KForm) (reads : List Reg) (pair : Bool) (ops : Ctx → List SpadArg) (pre : Ctx → List Nat → Ctx → Prop)
    (ask : Ctx → Ask), KernelRow i f reads pair ops pre ask →
    ∀ (s : State) (x : Ctx) (act : List Nat) (a : SpadArg), s.Issues (kernelIssue f reads pair) x act → KernelFree x →
      a ∈ ops x → ¬ operandOk x a → x.room (x.rcdKeys act) = true →
      (a.addr % a.align = 0 → i = .ksend f → f.mod.getLsbD 0 = true → pairAligned f x) →
      ∃ t, exec i s = .next t ∧ s.Delivered t x [] 0 act
        (fun _ => if a.addr % a.align ≠ 0 then ⟨5, BitVec.ofNat 57 a.addr, BitVec.ofNat 32 a.align⟩
          else ⟨4, BitVec.ofNat 57 a.addr, 0⟩) 1)
  ∧ ∀ (f : KForm) (s : State) (x : Ctx) (act : List Nat), f.mod.getLsbD 0 = true →
    s.Issues (kernelIssue f ([.s f.a.toNat, .s f.b.toNat] ++ regsOf f.c true true) false) x act → KernelFree x →
    (x.sword f.b).toNat % 16 = 0 → ¬ pairAligned f x → x.room (x.rcdKeys act) = true →
    ∃ t, exec (.ksend f) s = .next t ∧ s.Delivered t x [] 0 act
      (fun _ => ⟨5, pairVa (x.spair f.c), BitVec.ofNat 32 (pageBytes (pairSz (x.spair f.c)))⟩) 1

/-! Events of kernel objects and the carousel (spec/15, 18, 19, 22). -/

/-- CRUCIBLE_SERVE: the first check of R306 that fails answers the request with its code and, for a handle, its operand, or
UNAVAILABLE where an object's home is not live; a request whose object another die homes goes on to that die's queue; every other is
served as `ServeRow` lists it, request by request: KSEND with a grant and without, to a far port too, KRECV, KWAIT, KARM, KCANCEL,
KBIND, KUNBIND, KDUP, KDROP, KINFO, KWAVE, KLOOK, KNAME, KNEXT and another package's send.  A die that is not live answers
UNAVAILABLE (R253, R301, R305 to R316, R320 to R328, R421). -/
def Obligations.CrucibleServes : Prop :=
  (∀ (s : State) (die : Nat) (q : Req), s.heldParts die = [] → s.nextReq die [] = some q → s.live die = true →
    (∀ n, q.ask.handles.findIdx? (s.badHandle q.proc) = some n →
      ∃ t, exec (.crucibleServe die) s = .next t ∧ CoresKept s t ∧ Answered t q.id (BitVec.ofNat 32 (4 + 256 * (n + 1))) 0 [])
    ∧ (∀ n, q.ask.handles.findIdx? (s.badHandle q.proc) = none →
      q.ask.handles.findIdx? (s.noRight q.proc) = some n →
      ∃ t, exec (.crucibleServe die) s = .next t ∧ CoresKept s t ∧ Answered t q.id (BitVec.ofNat 32 (5 + 256 * (n + 1))) 0 [])
    ∧ (q.ask.handles.findIdx? (s.badHandle q.proc) = none → q.ask.handles.findIdx? (s.noRight q.proc) = none →
      (∃ h ∈ q.ask.handles, ∃ o, s.handle q.proc h.1 = some o ∧ s.live (objHome o.1) = false) →
      ∃ t, exec (.crucibleServe die) s = .next t ∧ CoresKept s t ∧ Answered t q.id 7 0 [])
    ∧ ((∀ r ∈ s.reqs, r.id = q.id → r = q) → ∀ i, s.resolve q = .inr i →
      (q.ask.handles ≠ [] → objHome i ≠ die →
        ∃ t, exec (.crucibleServe die) s = .next t ∧ CoresKept s t ∧ t.objs = s.objs
          ∧ (∃ r, t.req q.id = some r ∧ r.stage = .queued (objHome i) (some i))
          ∧ DueIn t (2 * (s.crQueue (objHome i)).length + 2) (.crucibleServe (objHome i)))
      ∧ ∀ post, ServeRow s q i post → (q.ask.handles = [] ∨ objHome i = die) →
        ∃ t, exec (.crucibleServe die) s = .next t ∧ CoresKept s t ∧ post t))
  ∧ ∀ (s : State) (die : Nat) (q : Req), s.heldParts die = [] → s.nextReq die [] = some q → s.live die = false →
    ∃ t, exec (.crucibleServe die) s = .next t ∧ CoresKept s t ∧ Answered t q.id 7 0 [] ∧ t.objs = s.objs

/-- REQUEST_RESEND and CRUCIBLE_FRAME: the refused request is accepted where its partition has a free entry, or its back-off
doubles, up to 64 times 2^BOB; a frame takes over the partitions' shares and back-off bases, and the next begins 512 cycles later (R317 to
R319). -/
def Obligations.CrucibleQueues : Prop :=
  (∀ (s : State) (c : CoreId) (q : Req) (n : Nat), (s.core c).replay = [q.id] → s.req q.id = some q →
    (∀ r ∈ s.reqs, r.id = q.id → r = q) → q.core = c →
    q.stage = .sent n → n ≠ 0 → q.ask.carousel = false → s.refusedElsewhere q = false →
    (((s.crQueue c.die).filter (·.part == q.part)).length < (s.die c.die).queue.getD q.part 0 →
      ∃ t, exec (.requestResend c) s = .next t ∧ (t.core c).replay = []
        ∧ (∃ r, t.req q.id = some r ∧ r.stage = .queued c.die none)
        ∧ DueIn t (2 * (s.crQueue c.die).length + 2) (.crucibleServe c.die))
    ∧ (¬ ((s.crQueue c.die).filter (·.part == q.part)).length < (s.die c.die).queue.getD q.part 0 →
      ∃ t, exec (.requestResend c) s = .next t ∧ (t.core c).replay = [q.id]
        ∧ (∃ r, t.req q.id = some r ∧ r.stage = .sent (n + 1))
        ∧ DueIn t (min (2 ^ n) 64 * 2 ^ (s.die c.die).bob.getD q.part 6) (.requestResend c)))
  ∧ ∀ (s : State) (die : Nat), s.live die = true →
    ∃ t, exec (.crucibleFrame die) s = .next t ∧ { t with dies := s.dies, agenda := s.agenda } = s
      ∧ DueIn t 512 (.crucibleFrame die) ∧ (∀ d, d ≠ die → t.die d = s.die d)
      ∧ ∀ p, p < 16 → (t.die die).shares.getD p 0 = bitsNat (crshare s p) 0 9
        ∧ (t.die die).queue.getD p 0 = bitsNat (crshare s p) 16 9 ∧ (t.die die).left.getD p 0 = bitsNat (crshare s p) 0 9
        ∧ (t.die die).bob.getD p 6 = bitsNat (crshare s p) 40 4

/-- TIMER_FIRE and KWAIT_DEADLINE: an armed timer whose deadline has passed is FIRED, and a periodic one's deadline moves on by PER, when
its next fire is due; one still FIRED counts the miss, up to 65,535.  As a member of a wait set it becomes ready, and a KWAIT that waits
there is answered with the index of the first ready member at or after NEXT.  Before the deadline nothing happens but that the event
comes again, and nothing at all while the timer's home is not live.  A wait whose deadline has passed is answered TIMEOUT and its wait
set has no waiter (R302, R311, R312, R421). -/
def Obligations.TimersAndDeadlines : Prop :=
  (∀ (s : State) (k : Nat), objKind (s.obj k) = kTIMER → s.live (objHome k) = true → Had s (s.recordKeys [k]) (.timerFire k) →
    s.timerWait (s.obj k) = 0 →
    (fld (s.obj k) 448 32 = 0 →
      (objState (s.obj k) = 2 → fld (s.obj k) 128 64 = 0 →
        ∃ t, exec (.timerFire k) s = .next t ∧ CoresKept s t ∧ t.obj k = withFld (s.obj k) 4 4 3 ∧ RecordsKept s t [k])
      ∧ (objState (s.obj k) = 2 → fld (s.obj k) 128 64 ≠ 0 →
        ∃ t, exec (.timerFire k) s = .next t ∧ CoresKept s t ∧ objState (t.obj k) = 3
          ∧ fld (t.obj k) 208 16 = fld (s.obj k) 208 16 ∧ fld (t.obj k) 64 64 = nextDl (s.obj k) % 2 ^ 64
          ∧ DueIn t (max 1 (t.timerWait (t.obj k))) (.timerFire k) ∧ RecordsKept s t [k])
      ∧ (objState (s.obj k) = 3 → fld (s.obj k) 128 64 ≠ 0 →
        ∃ t, exec (.timerFire k) s = .next t ∧ CoresKept s t ∧ objState (t.obj k) = 3
          ∧ fld (t.obj k) 208 16 = min (fld (s.obj k) 208 16 + 1) 65535 ∧ fld (t.obj k) 64 64 = nextDl (s.obj k) % 2 ^ 64
          ∧ DueIn t (max 1 (t.timerWait (t.obj k))) (.timerFire k) ∧ RecordsKept s t [k]))
    ∧ ∀ w, fld (s.obj k) 448 24 = w → fld (s.obj k) 448 32 ≠ 0 → w ≠ k → objKind (s.obj w) = kWSET → Cached s w → Roomy s →
      (objState (s.obj k) = 2 ∨ (objState (s.obj k) = 3 ∧ fld (s.obj k) 128 64 ≠ 0)) →
      let ready := withFld (s.obj w) (64 + fld (s.obj k) 472 6) 1 1
      (s.waiter w = none → ∃ t, exec (.timerFire k) s = .next t ∧ CoresKept s t ∧ objState (t.obj k) = 3 ∧ t.obj w = ready)
      ∧ ∀ q j, s.waiter w = some q → (∀ r ∈ s.reqs, r.id = q.id → r = q) → reportIndex ready = some j →
        ∃ t, exec (.timerFire k) s = .next t ∧ CoresKept s t ∧ Answered t q.id (BitVec.ofNat 32 (256 * j)) 0 []
          ∧ fld (t.obj w) 192 24 = 0 ∧ fld (t.obj w) 216 6 = (j + 1) % 64)
  ∧ (∀ (s : State) (k : Nat), objKind (s.obj k) = kTIMER → Had s (s.recordKeys [k]) (.timerFire k) → s.live (objHome k) = true →
    (objState (s.obj k) = 2 ∨ (objState (s.obj k) = 3 ∧ fld (s.obj k) 128 64 ≠ 0)) → s.timerWait (s.obj k) ≠ 0 →
    ∃ t, exec (.timerFire k) s = .next t ∧ { t with agenda := s.agenda } = s ∧ DueIn t (s.timerWait (s.obj k)) (.timerFire k))
  ∧ (∀ (s : State) (k : Nat), s.live (objHome k) = false → exec (.timerFire k) s = .next s)
  ∧ ∀ (s : State) (w : Nat) (q : Req), s.waiter w = some q → s.req q.id = some q → objKind (s.obj w) = kWSET →
    fld (s.obj w) 224 64 ≤ s.cycle →
    ∃ t, exec (.kwaitDeadline w) s = .next t ∧ CoresKept s t ∧ Answered t q.id 3 0 [] ∧ fld (t.obj w) 192 24 = 0

/-- KNEXT_SERVE hands out the next chunk of G items at most, as one answer with OK, and moves CUR past it; with CUR = N the
answer is the end token with EMPTY, and CUR stays (R253, R254). -/
def Obligations.WorkIsHandedOut : Prop :=
  ∀ (s : State) (q : Req) (h : Word) (a w : Nat), s.req q.id = some q → q.ask = .knext h a → q.stage = .pending w →
    Had s (s.tableKeys q) (.knextServe q.id) → s.resolve q = .inr w → objKind (s.obj w) = kWORK →
    let r := s.obj w
    let cur := fld r 128 32
    let e := min (cur + fld r 96 16 + 1) (fld r 64 32)
    (cur < fld r 64 32 → ∃ t, exec (.knextServe q.id) s = .next t ∧ CoresKept s t ∧ fld (t.obj w) 128 32 = e
      ∧ fld (t.obj w) 64 32 = fld r 64 32
      ∧ Answered t q.id 0 0 (cellsAt a (bytesLE 4 cur ++ bytesLE 4 (e - cur))))
    ∧ (fld r 64 32 ≤ cur → ∃ t, exec (.knextServe q.id) s = .next t ∧ CoresKept s t ∧ t.obj w = r
      ∧ Answered t q.id 2 0 (cellsAt a (bytesLE 4 0xFFFFFFFF ++ bytesLE 4 0)))

/-- DIRECTORY_INSERT, NAME_LOOKUP and FAR_PORT_SEND: a name already in its directory clashes; another package's name is
entered once; a lookup of a name that nobody has published is ABSENT; one that the cache or the directory holds is answered
OK with a new handle, of the port itself for a name of this package and of a new far port for another's; a message of
another package for a port takes a free entry of the input queue of the port's home, and the answer to a forwarded KSEND
completes it (R321, R322, R324 to R326; log 75). -/
def Obligations.NamesAndFarPorts : Prop :=
  (∀ (s : State) (q : Req) (h : Word) (name : BitVec 256) (port x n node : Nat), s.req q.id = some q →
    q.ask = .kname h name → q.stage = .pending port → q.keep = some (x, n) →
    Had s (s.recordKeys [q.proc, port, n] ++ [s.handleKey q.proc x]) (.directoryInsert q.id) → s.dirNode q.ns name = some node →
    objKind (s.obj q.proc) = kPROC → (s.dirFind q.ns name).isSome = true →
    ∃ t, exec (.directoryInsert (.own q.id)) s = .next t ∧ CoresKept s t ∧ t.dir = s.dir ∧ Answered t q.id 9 0 []
      ∧ ∃ r, t.req q.id = some r ∧ r.keep = none)
  ∧ (∀ (s : State) (ns : Nat) (name : BitVec 256) (pkg n port node : Nat), s.dirNode ns name = some node → s.pkgId ≠ 0 →
    pkg ≠ s.pkgId → s.dirFind ns name = none → s.dirFull node = false →
    ∃ t, exec (.directoryInsert (.other ns name pkg n port)) s = .next t ∧ { t with dir := s.dir } = s
      ∧ t.dir = s.dir ++ [⟨ns, name, pkg, n, port⟩])
  ∧ (∀ (s : State) (q : Req) (name : BitVec 256) (o node : Nat), s.req q.id = some q → q.ask = .klook true name →
    q.stage = .pending o → Had s (s.newHandleKeys q.proc) (.nameLookup q.id) → s.dirNode q.ns name = some node →
    s.dirFind q.ns name = none →
    ∃ t, exec (.nameLookup q.id) s = .next t ∧ CoresKept s t ∧ t.names = s.names ∧ t.objs = s.objs ∧ Answered t q.id 6 0 [])
  ∧ (∀ (s : State) (q : Req) (dir : Bool) (name : BitVec 256) (o x : Nat) (e : DirEnt), s.Inv → s.req q.id = some q →
    q.ask = .klook dir name → q.stage = .pending o → Had s (s.newHandleKeys q.proc) (.nameLookup q.id) →
    Looked s q.ns dir name e → s.freeHandle q.proc = some x →
    (e.pkg = 0 → s.live (objHome e.nameId) = true → objKind (s.obj e.port) = kPORT →
      let gen := bitsNat (s.handleEntry q.proc x) 24 8
      ∃ t, exec (.nameLookup q.id) s = .next t ∧ CoresKept s t ∧ e ∈ t.names
        ∧ Answered t q.id 0 (BitVec.ofNat 32 (gen + x * 256)) []
        ∧ (Roomy s → Cached s q.proc → (∀ k < 8, s.confOf (s.handleKey q.proc x + k) = none) →
          t.handleEntry q.proc x = BitVec.ofNat 64 (e.port + gen * 2 ^ 24 + 2 ^ 32 + kPORT * 2 ^ 40))
        ∧ objRefs (t.obj e.port) = (objRefs (s.obj e.port) + 1) % 2 ^ 16 ∧ RecordsKept s t [e.port])
    ∧ (e.pkg ≠ 0 → s.reachable e.pkg = true → ∀ n, s.freeId q.part q.core.die = some n →
      ∃ t v, exec (.nameLookup q.id) s = .next t ∧ CoresKept s t ∧ e ∈ t.names ∧ Answered t q.id 0 v []
        ∧ v.extractLsb' 8 24 = BitVec.ofNat 24 x ∧ t.obj n = withFld (farRecord q.proc q.part e) 32 16 1
        ∧ RecordsKept s t [n]))
  ∧ (∀ (s : State) (pkg ref sender nameId port : Nat) (name : BitVec 256) (m : BitVec 512) (g : Option FarPage),
    let d := objHome port
    let p := objPart (s.obj port)
    (∀ r ∈ s.reqs, r.id ≠ s.nextId) →
    (s.queueUse d p < (s.die d).queue.getD p 0 →
      ∃ t r, exec (.farPortSend (.arrives pkg ref sender nameId name port m g)) s = .next t ∧ CoresKept s t
        ∧ t.reqs = s.reqs ++ [r] ∧ r.stage = .queued d none ∧ r.part = p
        ∧ r.ask = .far pkg ref sender nameId name port m (g.map fun y => ⟨y.pa, y.sz, y.rights⟩)
        ∧ DueIn t (2 * (s.crQueue d).length + 2) (.crucibleServe d))
    ∧ (¬ s.queueUse d p < (s.die d).queue.getD p 0 →
      exec (.farPortSend (.arrives pkg ref sender nameId name port m g)) s = .next s))
  ∧ ∀ (s : State) (q : Req) (h : Word) (m : BitVec 512) (i : Nat), s.req q.id = some q → q.ask = .ksend h m none →
    q.stage = .pending i → q.far.isSome = true → (∀ g ∈ s.grants, g.req ≠ q.id) →
    ∃ t, exec (.farPortSend (.answered q.id .ok)) s = .next t ∧ CoresKept s t ∧ Answered t q.id 0 0 []

/-- KERNEL_RESULT_DELIVERY: the request is gone, its status is in sD, s(D+1) holds its value where it has one and the status
is OK and 0 elsewhere, and its scratchpad bytes are written; no other s register of the wave changes (R256, R305, R315). -/
def Obligations.KernelResultsArrive : Prop :=
  ∀ (s : State) (q : Req) (k : Core) (q0 : Team) (v : Wave) (status value : Word) (cells : List Host.Cell),
    s.req q.id = some q → q.stage = .answered status value cells → s.coreOf q.team = some k → s.core k.id = k →
    k.team q.team = some q0 → q0.wave q.wid = some v → v.ended = false → k.rollback = none →
    k.roomFor ((cells.map fun c => LogKey.spad q.team (c.1 / 64)).eraseDups
      ++ (q.writes status value).map (·.logKey q.team q.wid)) (1 + cells.length / 64) = true → q.d + 1 < 64 →
    let w : WaveId := ⟨k.id, q.team, q.wid⟩
    ∃ t, exec (.kernelResultDelivery q.id) s = .next t ∧ t.req q.id = none ∧ t.mem = s.mem ∧ t.mgmt = s.mgmt ∧ t.cycle = s.cycle
      ∧ (∀ c, c ≠ k.id → t.core c = s.core c)
      ∧ (t.teamOf w).map (·.sp) = some (memWrites q0.sp cells)
      ∧ t.sreg w q.d = status
      ∧ t.sreg w (q.d + 1) = (if q.pair then (if status.extractLsb' 0 8 = 0 then value else 0) else s.sreg w (q.d + 1))
      ∧ ∀ n, n < 64 → n ≠ q.d → n ≠ q.d + 1 → t.sreg w n = s.sreg w n

/-- CAROUSEL_INDEX_ACCEPT: a BOARD of an absent name is accepted and reserves it, of a present one clashes; a CWRITE of an
unmarked name is accepted; an ALIGHT of an unmarked name is accepted and marks it; of an absent or marked name either is
ABSENT; with the ring stopped or no segment all are UNAVAILABLE (R384 to R386). -/
def Obligations.CarouselAccepts : Prop :=
  ∀ (s : State) (q : Req), s.req q.id = some q → q.stage = .pending 0 → q.ask.carousel = true →
    (∀ n a tg f l, q.ask ≠ .catchTile n a tg f l) →
    let old := s.carName q.part q.ask.carName
    ∃ t, exec (.carouselIndexAccept q.id) s = .next t ∧ CoresKept s t ∧ t.car = s.car
      ∧ (if s.carOff q.part then Answered t q.id 7 0 [] ∧ t.carIndex = s.carIndex
        else match q.ask with
          | .board n _ => match old with
            | none => (∃ r, t.req q.id = some r ∧ r.stage = .pending 1) ∧ t.carName q.part n = some ⟨q.part, n, some q.id, none⟩
            | some _ => Answered t q.id 9 0 [] ∧ t.carIndex = s.carIndex
          | .alight n => match old with
            | none => Answered t q.id 6 0 [] ∧ t.carIndex = s.carIndex
            | some e => if e.marked.isSome then Answered t q.id 6 0 [] ∧ t.carIndex = s.carIndex
              else (∃ r, t.req q.id = some r ∧ r.stage = .pending 1)
                ∧ (t.carName q.part n).map (·.marked) = some (some q.id)
          | _ => match old with
            | none => Answered t q.id 6 0 []  ∧ t.carIndex = s.carIndex
            | some e => t.carIndex = s.carIndex ∧ if e.marked.isSome then Answered t q.id 6 0 []
              else ∃ r, t.req q.id = some r ∧ r.stage = .pending 1)

/-- CATCH_REGISTER, SLOT_PASSAGE, CATCH_LAP_TIMEOUT and BOARD_LAP_TIMEOUT: a catch registers while its partition has an
entry, else it is FULL; a borne slot answers a registered catch of its name with its bytes and version; a catch that no slot
reached within a lap is ABSENT, and a BOARD that found no free slot is FULL and gives its name up (R387, R390, R391). -/
def Obligations.CarouselPasses : Prop :=
  (∀ (s : State) (q : Req) (n : Word) (a f l : Nat) (tg : Option Nat), s.req q.id = some q → q.stage = .pending 0 →
    q.ask = .catchTile n a tg f l → s.carOff q.part = false →
    let mine := (s.catches.filter fun c => c.die == q.core.die && c.part == q.part).length
    (mine < segCQ (carSeg s q.part) → ∃ t, exec (.catchRegister q.id) s = .next t ∧ CoresKept s t
      ∧ t.catches = s.catches ++ [⟨q.id, q.core.die, q.part, n, s.wall⟩] ∧ DueIn t (s.lap + 1) (.catchLapTimeout q.id))
    ∧ (segCQ (carSeg s q.part) ≤ mine → ∃ t, exec (.catchRegister q.id) s = .next t ∧ CoresKept s t ∧ t.catches = s.catches
      ∧ Answered t q.id 1 0 []))
  ∧ (∀ (s : State) (p slot die a f l : Nat) (x : CarSlot) (c : CarCatch) (q : Req) (n : Word) (tg : Option Nat),
    s.slotPart slot = some p → s.carOff p = false → s.car.find? (·.slot == slot) = some x → x.slot = slot →
    x.poisoned = false →
    s.carName p x.name = none → (∀ r ∈ s.reqs, r.accepted p = true → isCwrite r = false ∧ isBoard r = false) → s.catches = [c] → c.req = q.id → c.die = die →
    c.part = p → c.name = x.name → c.at_ < s.wall → s.req q.id = some q → q.stage = .pending 1 → q.ask = .catchTile n a tg f l →
    ∃ t, exec (.slotPassage slot die false) s = .next t ∧ CoresKept s t ∧ t.catches = s.catches
      ∧ t.car.find? (·.slot == slot) = some x
      ∧ Answered t q.id (BitVec.ofNat 32 (256 * x.ver.toNat)) 0 (cellsAt a ((x.data.drop f).take l)))
  ∧ (∀ (s : State) (c : CarCatch) (q : Req), s.catches.find? (·.req == q.id) = some c → s.req q.id = some q →
    q.stage = .pending 1 →
    (c.at_ + s.lapPs < s.wall → ∃ t, exec (.catchLapTimeout q.id) s = .next t ∧ CoresKept s t ∧ t.catches = s.catches
      ∧ Answered t q.id 6 0 [])
    ∧ (s.wall ≤ c.at_ + s.lapPs → ∃ t, exec (.catchLapTimeout q.id) s = .next t ∧ { t with agenda := s.agenda } = s
      ∧ DueIn t (s.cyclesIn (c.at_ + s.lapPs - s.wall) + 1) (.catchLapTimeout q.id)))
  ∧ ∀ (s : State) (q : Req) (n : Word) (a : Nat), s.req q.id = some q → q.ask = .board n a → q.stage = .pending 1 →
    ∃ t, exec (.boardLapTimeout q.id) s = .next t ∧ CoresKept s t ∧ t.car = s.car ∧ t.carName q.part n = none
      ∧ Answered t q.id 1 0 []

/-! Heats and held effects (spec/17). -/

/-- HEAT_CLOSE_TIMEOUT, once the open heat is K cycles old, and HEAT_CLOSE_LOG, once the undo log holds 2,304 entries, close
the heat, and the next one opens with a snapshot of the core's teams in the same cycle; the export of the heat's counters is a held
effect from the close on, which waits where the buffer is full; while the previous heat is closed the close waits.  HEAT_SET, more than
D cycles after the close, releases the heat's effects, its export among them, behind those released before; a close that waited then
takes place (R275 to R278, R280, R282, R283, R289). -/
def Obligations.HeatsCloseAndAreSet : Prop :=
  (∀ (s : State) (c : CoreId) (h : Heat), (s.core c).cur = some h → (s.core c).rollback = none →
    (h.opened + h.k ≤ s.cycle → (s.core c).old = none → ∃ t, exec (.heatCloseTimeout c) s = .next t ∧ CoreOnly s t c
      ∧ HeatClosed s t c h ∧ Exported (s.core c) (t.core c) h ∧ coreRest (t.core c) = coreRest (s.core c))
    ∧ (h.opened + h.k ≤ s.cycle → (s.core c).old.isSome = true → ∃ t, exec (.heatCloseTimeout c) s = .next t
      ∧ CoreOnly s t c ∧ t.core c = { s.core c with closeReq := true })
    ∧ (s.cycle < h.opened + h.k → exec (.heatCloseTimeout c) s = .next s))
  ∧ (∀ (s : State) (c : CoreId) (h : Heat), (s.core c).cur = some h → (s.core c).rollback = none → (s.core c).closeReq = false →
    (2304 ≤ Ctx.heatLoad (s.core c).cur + Ctx.heatLoad (s.core c).old → (s.core c).old = none →
      ∃ t, exec (.heatCloseLog c) s = .next t ∧ CoreOnly s t c ∧ HeatClosed s t c h ∧ Exported (s.core c) (t.core c) h
        ∧ coreRest (t.core c) = coreRest (s.core c))
    ∧ (2304 ≤ Ctx.heatLoad (s.core c).cur + Ctx.heatLoad (s.core c).old → (s.core c).old.isSome = true →
      ∃ t, exec (.heatCloseLog c) s = .next t ∧ CoreOnly s t c ∧ t.core c = { s.core c with closeReq := true })
    ∧ (Ctx.heatLoad (s.core c).cur + Ctx.heatLoad (s.core c).old < 2304 → exec (.heatCloseLog c) s = .next s))
  ∧ ∀ (s : State) (c : CoreId) (h : Heat) (n : Nat), (s.core c).old = some h → h.closed = some n →
    (s.core c).rollback = none →
    (s.cycle ≤ n + 224 → exec (.heatSet c) s = .next s)
    ∧ (n + 224 < s.cycle → ∃ t, exec (.heatSet c) s = .next t ∧ CoreOnly s t c ∧ (∃ k, (k, Due.holdbackDepart c) ∈ t.agenda)
      ∧ ((∀ e ∈ s.agenda, e.2 ≠ .holdbackDepart c) → DueIn t 1 (.holdbackDepart c))
      ∧ (t.core c).teams = (s.core c).teams
      ∧ (let freed := ((s.core c).held.filter (releases h)).map (fun e => { e with released := true })
            ++ (s.core c).held.filter (fun e => !releases h e)
        ((s.core c).closeReq = false → (t.core c).held = freed ∧ (t.core c).exports = (s.core c).exports
          ∧ (t.core c).old = none ∧ (t.core c).cur = (s.core c).cur)
        ∧ ((s.core c).closeReq = true → ∀ g, (s.core c).cur = some g → HeatClosed s t c g
          ∧ ∃ ps, Exported { s.core c with old := none, held := freed, perf := ps } (t.core c) g)))

/-- HEATC closes the open heat as it passes, with the export of its counters in the hold-back buffer; while the previous heat is closed its run is held; with `.set` it closes the
heat, and its run is held until that heat is set (R283, R286, R287, R289). -/
def Obligations.HeatcCloses : Prop :=
  ∀ (f : RForm) (s : State) (x : Ctx) (act : List Nat) (h : Heat), s.Issues { g := f.g, uniform := true } x act →
    x.core.cur = some h →
    (x.wave.heatWait = none → x.core.old.isSome = true → ∃ t, exec (.heatc f) s = .next t ∧ s.Held t x)
    ∧ (x.wave.heatWait = none → x.core.old = none → f.sub.getLsbD 0 = false →
      ∃ t, exec (.heatc f) s = .next t ∧ s.Passed t x 1 ∧ HeatClosed s t x.w.core h
        ∧ ∃ ps, Exported { x.core with perf := ps } (t.core x.w.core) h)
    ∧ (x.wave.heatWait = none → x.core.old = none → f.sub.getLsbD 0 = true →
      ∃ t, exec (.heatc f) s = .next t ∧ s.Held t x ∧ HeatClosed s t x.w.core h
        ∧ (∃ ps, Exported { x.core with perf := ps } (t.core x.w.core) h)
        ∧ (t.waveAt x.w).map (·.2.heatWait) = some (some h.num))
    ∧ ∀ n, x.wave.heatWait = some n →
      (x.core.isSet n = true → ∃ t, exec (.heatc f) s = .next t ∧ s.Passed t x 1
        ∧ (t.waveAt x.w).map (·.2.heatWait) = some none)
      ∧ (x.core.isSet n = false → ∃ t, exec (.heatc f) s = .next t ∧ s.Held t x)

/-- HOLDBACK_DEPART performs a released store: memory takes its bytes in their order and no other byte changes, but
that in a confidential range the line of a byte is stored encrypted (R439), and of a store of more lines than two the first
two leave; it swaps a team's image out of the core.
LOAD_RESULT writes the values of a load that have come, and with the last of them the load is complete; until then its
registers stay pending; STORE_PERFORMED completes a store, which retires in its
turn (R150, R162, R169, R173, R283). -/
def Obligations.EffectsDepartAndResultsArrive : Prop :=
  (∀ (s : State) (c : CoreId) (h : Held) (cs : List Host.Cell), s.Inv → (s.core c).held = [h] → h.kind = .store cs →
    h.released = true → h.entries ≤ 2 → (s.core c).exports = [] →
    (∀ q ∈ cs, s.accessWaits (.held c h.ref) q.1 = false ∧ s.physMayWrite (some (s.teamPart h.ref.team)) q.1 = true) →
    ∃ t, exec (.holdbackDepart c) s = .next t ∧ (t.core c).held = [] ∧ (t.core c).teams = (s.core c).teams
      ∧ (∀ d, d ≠ c → t.core d = s.core d) ∧ t.mgmt = s.mgmt ∧ t.cycle = s.cycle
      ∧ (∀ a, s.confOf a = none → t.byte a = (cellOf cs a).getD (s.byte a))
      ∧ (∀ a, (∀ q ∈ cs, q.1 / 64 ≠ a / 64) → t.byte a = s.byte a)
      ∧ DueLater t (.storePerformed (h.ref.wave c) h.ref.op))
  ∧ (∀ (s : State) (c : CoreId) (h : Held) (cs : List Host.Cell), (s.core c).held = [h] → h.kind = .store cs →
    h.released = true → 2 < h.entries → (s.core c).exports = [] → (∀ q ∈ cs, s.accessWaits (.held c h.ref) q.1 = false) →
    ∃ t, exec (.holdbackDepart c) s = .next t ∧ (∀ d, d ≠ c → t.core d = s.core d)
      ∧ ((∀ e ∈ s.agenda, e.2 ≠ .holdbackDepart c) → DueIn t 1 (.holdbackDepart c))
      ∧ (t.core c).held = [{ h with kind := (h.kind.split 2).2, entries := h.entries - 2 }])
  ∧ (∀ (s : State) (c : CoreId) (h : Held) (oid : Nat) (q : Team), (s.core c).held = [h] → h.kind = .image oid →
    h.released = true → h.entries ≤ 2 → (s.core c).exports = [] → (s.core c).team oid = some q →
    q.leave = some (.swap .stay) → objKind (s.obj oid) = kTEAM →
    ∃ t, exec (.holdbackDepart c) s = .next t ∧ (t.core c).held = [] ∧ (t.core c).team oid = none
      ∧ (∀ d, d ≠ c → t.core d = s.core d) ∧ t.images = s.images ++ [{ team := q.saved, die := c.die }]
      ∧ objState (t.obj oid) = 3 ∧ fld (t.obj oid) 80 12 = 0)
  ∧ (∀ (s : State) (w : WaveId) (op : Nat) (q : Team) (v : Wave) (o : Op), s.waveAt w = some (q, v) →
    s.coreOf w.team = some (s.core w.core) → v.ops.find? (·.id == op) = some o → o.done = false →
    (s.core w.core).rollback = none →
    (o.left = 0 → o.toCome s.cycle = [] → let ws := o.result ++ o.come s.cycle
      landRoom (s.core w.core) w o ws = true → (∀ r ∈ ws, r.live v = true) →
      ∃ t, exec (.loadResult w op) s = .next t ∧ CoreOnly s t w.core ∧ s.Wrote t w ws
        ∧ (∀ a, t.pcAt w a = s.pcAt w a ∧ t.recAt w a = s.recAt w a)
        ∧ (t.waveAt w).map (·.2.ops) = some (opsWith v op fun p => { p with done := true }))
    ∧ ((o.left ≠ 0 ∨ o.toCome s.cycle ≠ []) → let ws := o.come s.cycle
      landRoom (s.core w.core) w o ws = true → (∀ r ∈ ws, r.live v = true) →
      ∃ t, exec (.loadResult w op) s = .next t ∧ CoreOnly s t w.core ∧ s.Wrote t w ws
        ∧ (∀ a, t.pcAt w a = s.pcAt w a ∧ t.recAt w a = s.recAt w a)
        ∧ (t.waveAt w).map (fun u => u.2.ops.map fun p => (p.id, p.done, p.left, p.pend))
          = some (v.ops.map fun p => (p.id, p.done, p.left, p.pend))))
  ∧ ∀ (s : State) (w : WaveId) (op : Nat) (q : Team) (v : Wave), s.waveAt w = some (q, v) →
    s.coreOf w.team = some (s.core w.core) →
    ∃ t, exec (.storePerformed w op) s = .next t ∧ CoreOnly s t w.core ∧ s.Wrote t w []
      ∧ (∀ a, t.pcAt w a = s.pcAt w a ∧ t.recAt w a = s.recAt w a)
      ∧ (t.waveAt w).map (·.2.ops) = some (opsWith v op fun p => { p with done := true })

/-- STRIKE_REPORT: each named core that runs a heat begins a rollback of T_rb cycles, the word in its engine is abandoned, and its
die's counters go up.
ROLLBACK_COMPLETE: the core's teams are those of its heat's snapshot, its unreleased effects are gone, and a new heat opens.
STRIKE_REPORT_UNIT: the retries are counted and nothing else changes.  Where the damage is beyond them, the service cores only start their
task again, a station poisons the slot that it last passed, and any other unit raises a die machine-check: MCHK counts it, every
context with a team on the die is reset, its cores stop, and the die is memory-only with MC set, or down where its memory is concerned,
where it was down, or where this is the second within an hour (R249, R290 to R295, R396, R431, R433; the slot last passed is log 46). -/
def Obligations.StrikesRollBack : Prop :=
  (∀ (s : State) (c : CoreId), (s.core c).inReset = false → (s.core c).teams ≠ [] → (s.core c).cur.isSome = true →
    let n := 32 + (Ctx.heatLoad (s.core c).cur + Ctx.heatLoad (s.core c).old + 3) / 4
    ∃ t, exec (.strikeReport [c]) s = .next t ∧ (∀ d, d ≠ c → t.core d = s.core d) ∧ t.mem = s.mem ∧ t.objs = s.objs
      ∧ (t.core c).rollback = some (s.cycle + n) ∧ (t.core c).teams = (s.core c).teams ∧ DueIn t n (.rollbackComplete c)
      ∧ (∀ e ∈ t.agenda, ∀ oid, e.2 ≠ .engineWordComplete c oid)
      ∧ t.mreg (dieBlock c.die + 0x10) = s.mreg (dieBlock c.die + 0x10) + 1
      ∧ t.mreg (dieBlock c.die + 0x18) = s.mreg (dieBlock c.die + 0x18) + 1)
  ∧ (∀ (s : State) (c : CoreId) (h : Heat) (e : Nat), (s.core c).rollback = some e → e ≤ s.cycle → (s.core c).cur = some h →
    (s.core c).old = none → h.rets = [] → h.admitted = [] → (s.core c).teams ≠ [] →
    ∃ t, exec (.rollbackComplete c) s = .next t ∧ (∀ d, d ≠ c → t.core d = s.core d) ∧ t.mem = s.mem ∧ t.mgmt = s.mgmt
      ∧ t.cycle = s.cycle ∧ (t.core c).rollback = none ∧ (t.core c).held = (s.core c).held.filter (·.released)
      ∧ (t.core c).old = none ∧ (∃ g, (t.core c).cur = some g ∧ g.opened = s.cycle ∧ g.log = [] ∧ g.rets = [])
      ∧ ∀ oid q, ((s.core c).team oid).isSome = true → h.snap.find? (·.oid == oid) = some q →
        ((t.core c).team oid).map kept = some (kept q))
  ∧ (∀ (s : State) (die : Nat) (u : DieUnit) (n : Nat),
    ∃ t, exec (.strikeReportUnit die u n false) s = .next t ∧ { t with mgmt := s.mgmt } = s
      ∧ (∀ a, t.mreg a = if a = dieBlock die + 0x20 then s.mreg a + BitVec.ofNat 64 n else s.mreg a))
  ∧ (∀ (s : State) (die n : Nat), die < 8 →
    (∃ t, exec (.strikeReportUnit die .serviceCores n true) s = .next t ∧ { t with mgmt := s.mgmt } = s)
    ∧ ∀ x, carNS s ≠ 0 → s.lastPassed die = some x → x.poisoned = false →
      ∃ t y, exec (.strikeReportUnit die .station n true) s = .next t ∧ t.cores = s.cores ∧ t.mem = s.mem ∧ t.cycle = s.cycle
        ∧ y ∈ t.car ∧ y.slot = x.slot ∧ y.poisoned = true ∧ t.errHead = s.errHead + 1)
  ∧ ∀ (s : State) (die n : Nat) (u : DieUnit), die < 8 → u ≠ .serviceCores → u ≠ .station → NothingToFeed s →
    (s.cores.map (·.id)).Nodup → (∀ k ∈ s.cores, ∀ q ∈ k.teams, s.coreOf q.oid = some k) →
    let memory : Prop := u = .homeAgent ∨ u = .memoryController
    let second : Prop := ∃ t0, (s.die die).mcAt = some t0 ∧ s.wall < t0 + micros 3600000000
    ∃ t, exec (.strikeReportUnit die u n true) s = .next t ∧ t.cycle = s.cycle
      ∧ t.mreg (dieBlock die + 0x28) = s.mreg (dieBlock die + 0x28) + 1
      ∧ ((memory ∨ second ∨ (s.die die).st = 0) → (t.die die).st = 0)
      ∧ (¬ (memory ∨ second ∨ (s.die die).st = 0) → (t.die die).st = 1)
      ∧ (t.die die).mc = true ∧ (t.die die).mcAt = some s.wall ∧ (second → (t.die die).dead = true)
      ∧ (∀ k ∈ t.cores, k.id.die = die → k.inReset = true ∧ k.tlb = [])
      ∧ ∀ k ∈ s.cores, k.id.die = die → ∀ q ∈ k.teams,
        (∀ j ∈ t.cores, ∀ p ∈ j.teams, p.proc ≠ q.proc) ∧ ∀ i ∈ t.images, i.team.proc ≠ q.proc

/-! What a core schedules for its waves, streams, banks and copies (spec/09, 11, 12, 14, 16). -/

/-- CLAUSE_ENTRY: the threads of a run that enter the header of the lowest of them, which their team may execute, take it on
where it is legal and its thresholds are met, wait while they are not, and take ILLEGAL_CLAUSE at it where it is not legal;
registers and PCs stay, and the other threads have yet to enter theirs; its YLD marks every thread of the run (R33, R36, R37, R203;
log 67).

SPIN_DEMOTION_EXPIRY ends each demotion of the wave that has lasted 256 cycles; FAIRNESS_TIMEOUT, at a clause boundary with T at or
above F, moves the last run behind the other threads and starts T again (R201, R202, R197). -/
def Obligations.ClausesAndTimersAct : Prop :=
  (∀ (s : State) (w : WaveId) (x : Ctx) (hw : DWord), s.ctxAt w = some x → x.entering ≠ [] →
    (∀ t ∈ x.entering, (x.thread t).deny = none) → WordAt x x.entryCb hw →
    let h := Header.ofWord hw
    (h.legal = true → x.wave.meets h = true →
      ∃ t, exec (.clauseEntry w) s = .next t ∧ TeamOnly s t w id ∧ s.Wrote t w [] ∧ t.cycle = s.cycle + 1
        ∧ (∀ a, t.pcAt w a = s.pcAt w a ∧ t.recAt w a = s.recAt w a)
        ∧ (∀ a ∈ x.entering, (t.threadAt w a).hdr = hw ∧ (t.threadAt w a).mark = false)
        ∧ (∀ a ∈ x.run, (t.threadAt w a).yld = ((s.threadAt w a).yld || h.yld))
        ∧ ∀ a, a < 32 → a ∉ x.entering → (t.threadAt w a).hdr = (s.threadAt w a).hdr
          ∧ (t.threadAt w a).mark = (s.threadAt w a).mark)
    ∧ (h.legal = true → x.wave.meets h = false →
      ∃ t, exec (.clauseEntry w) s = .next t ∧ TeamOnly s t w id ∧ s.Wrote t w [] ∧ t.cycle = s.cycle + 1
        ∧ ∀ a, t.pcAt w a = s.pcAt w a ∧ t.recAt w a = s.recAt w a ∧ (t.threadAt w a).mark = (s.threadAt w a).mark)
    ∧ (h.legal = false → x.room (x.rcdKeys x.entering) = true →
      ∃ t, exec (.clauseEntry w) s = .next t ∧ TeamOnly s t w id ∧ s.Wrote t w [] ∧ t.cycle = s.cycle + 1
        ∧ ∀ a ∈ x.entering,
          t.pcAt w a = ((s.threadAt w a).take x.team ⟨2, wordVa x.entryCb, hw.extractLsb' 32 32⟩ x.entryCb x.entryCb).1.pc
          ∧ t.recAt w a = ((s.threadAt w a).take x.team ⟨2, wordVa x.entryCb, hw.extractLsb' 32 32⟩ x.entryCb x.entryCb).1.rcd))
  ∧ ((∀ (s : State) (w : WaveId) (q : Team) (v : Wave) (k : Nat), s.waveAt w = some (q, v) →
    ∃ t, exec (.spinDemotionExpiry w k) s = .next t ∧ CoreOnly s t w.core
      ∧ ∀ a, a < 32 → t.threadAt w a = if (v.thread a).tier = 1 ∧ (v.thread a).demoted + 256 ≤ s.cycle then
          { v.thread a with tier := 0 } else v.thread a)
  ∧ ∀ (s : State) (w : WaveId) (q : Team) (v : Wave) (a b : Nat), s.waveAt w = some (q, v) → q.prog = true →
    q.fair ≤ v.timer → v.run = 0 → a ∈ v.eligibles → b ∈ v.eligibles → v.prev.getLsbD a = true → v.prev.getLsbD b = false →
    (v.thread a).pc ≠ (v.thread b).pc →
    ∃ t u, exec (.fairnessTimeout w) s = .next t ∧ CoreOnly s t w.core ∧ t.waveAt w = some u ∧ u.2.timer = 0
      ∧ ∀ k, k < 32 → u.2.thread k =
        if k ∈ v.eligibles ∧ v.prev.getLsbD k = true then { v.thread k with rq := v.topRq } else v.thread k)

/-- ENGINE_WORD_COMPLETE changes nothing where the engine holds no word of the stream; STREAM_FETCH brings the word at SPC; MSTREAM_TRAP_TAKE has each eligible thread
of the first wave with MSTREAM to take take it where it stands, and one with two of them the second as the double trap that it is
(R29, R235, R236, R246). -/
def Obligations.StreamsGoOn : Prop :=
  (∀ (s : State) (c : CoreId) (oid : Nat) (q : Team), (s.core c).team oid = some q → q.seq.busy = false →
    exec (.engineWordComplete c oid) s = .next s)
  ∧ (∀ (s : State) (c : CoreId) (oid : Nat) (q : Team) (w : DWord), (s.core c).team oid = some q → q.seq.run = true →
    q.seq.word = none → q.seq.stall = none → q.leave = none →
    WordAt ⟨s, ⟨c, oid, 0⟩, s.core c, q, { wid := 0 }, [], 0, 0⟩ q.seq.spc w (.event (.streamFetch c oid)) →
    ∃ t, exec (.streamFetch c oid) s = .next t ∧ CoreOnly s t c
      ∧ (t.core c).team oid = some { q with seq := { q.seq with word := some w } }
      ∧ (∀ o, o ≠ oid → (t.core c).team o = (s.core c).team o))
  ∧ ∀ (s : State) (c : CoreId) (oid : Nat) (q : Team) (v : Wave), (s.core c).team oid = some q →
    (q.waves.find? fun w => !w.mtrapped.isEmpty) = some v → q.wave v.wid = some v →
    let x : Ctx := ⟨s, ⟨c, oid, v.wid⟩, s.core c, q, v, v.members, 0, 0⟩
    x.room (x.rcdKeys v.mtrapped) = true →
    ∃ t, exec (.mstreamTrapTake c oid) s = .next t ∧ t.mem = s.mem ∧ t.cycle = s.cycle
      ∧ ∀ k ∈ v.eligibles, t.threadAt ⟨c, oid, v.wid⟩ k
          = (v.thread k).mtraps.foldl (fun h m => (h.take q ⟨10, m.1, m.2⟩ h.pc h.cb).1) (v.thread k)

/-- SCRATCHPAD_BANK_SERVE performs the bank's oldest request, with nothing else of the scratchpad, and the banks of its words
serve no other in that cycle, and a load's value stands to be written six cycles later; COPY_LAND moves every
element that is left, then the barrier, the tag and the counter follow, but a DCOPY with a flag waits for that first; DCOPY_FLAG_ADD adds
1 to its flag, and then the DCOPY lands (R170, R219, R225, R271). -/
def Obligations.BanksAndCopiesComplete : Prop :=
  (∀ (s : State) (c : CoreId) (bank : Nat) (q : Team) (r : BankReq), (s.core c).rollback = none → (s.core c).teams = [q] →
    bankHead bank s.cycle (((s.core c).bankAt.filter (·.2 == s.cycle)).map (·.1)) (s.core c).bankReqs = some (q.oid, r) →
    (s.core c).room (if r.writes then spadKeys q.oid r.addr r.bytes else []) = true →
    ∃ t u, exec (.scratchpadBankServe c bank) s = .next t ∧ CoreOnly s t c ∧ (t.core c).teams = [u]
      ∧ u.banks = q.banks.erase r ∧ u.sp = (r.effect q.sp).1 ∧ u.tiles = q.tiles ∧ u.seq = q.seq
      ∧ (∀ b ∈ r.banksOf, (t.core c).bankAt.lookup b = some s.cycle) ∧ s.Wrote t ⟨c, q.oid, r.wid⟩ []
      ∧ ∀ v, q.wave r.wid = some v → (u.wave r.wid).map (·.ops) = some (opsWith v r.op (Op.served s.cycle (r.effect q.sp).2))
          ∧ ∀ o ∈ v.ops, o.id = r.op → o.cls = .ld → o.done = false → DueIn t 6 (.loadResult ⟨c, q.oid, r.wid⟩ r.op))
  ∧ (∀ (s : State) (c : CoreId) (q : Team) (y : Copy), (s.core c).team q.oid = some q → q.copies.find? (·.id == y.id) = some y →
    (s.core c).rollback = none → y.gate = false →
    (y.stage = 0 →
      let m := s.moves (s.physRead (some q.part)) (s.core c) q y
      (∀ a ∈ m.touched, s.accessWaits (.event (.copyLand c q.oid y.id)) a = false) →
      (y.inbound = true → ∀ a ∈ m.touched, (s.core c).atomicHeld a 1 = false) →
      (y.inbound = false → (s.core c).l1Over m.touched = false) →
      (s.core c).roomFor (y.lines q.oid) (if y.inbound then 0 else 1) = true →
      let u : Team := { q with sp := memWrites q.sp m.sp, tiles := m.onTiles q.tiles }
      ∃ t, exec (.copyLand c q.oid y.id) s = .next t ∧ (∀ d, d ≠ c → t.core d = s.core d)
        ∧ t.mem = (s.physWrite (some q.part) m.mem).mem
        ∧ (y.flag = none → (t.core c).team q.oid = some (u.landed y))
        ∧ (y.flag.isSome = true → DueLater t (.dcopyFlagAdd c q.oid y.id)
          ∧ (t.core c).team q.oid = some (u.modCopy y.id fun z => { z with stage := 1, want := [] })))
    ∧ (y.stage = 2 → (s.core c).roomFor [] 1 = true →
      ∃ t, exec (.copyLand c q.oid y.id) s = .next t ∧ (∀ d, d ≠ c → t.core d = s.core d) ∧ t.mem = s.mem
        ∧ (t.core c).team q.oid = some (q.landed y)))
  ∧ ∀ (s : State) (c : CoreId) (q : Team) (y : Copy) (va : BitVec 57) (a : Nat), (s.core c).team q.oid = some q →
    q.copies.find? (·.id == y.id) = some y → y.stage = 1 → y.flag = some va → s.pinKey q.proc y va = some a →
    (∀ k < 4, s.accessWaits (.event (.dcopyFlagAdd c q.oid y.id)) (a + k) = false) →
    (s.core c).l1Over ((List.range 4).map (a + ·)) = false →
    ∃ t, exec (.dcopyFlagAdd c q.oid y.id) s = .next t ∧ (∀ d, d ≠ c → t.core d = s.core d) ∧ DueIn t 1 (.copyLand c q.oid y.id)
      ∧ (t.core c).team q.oid = some (q.modCopy y.id fun z => { z with stage := 2, want := [] })
      ∧ t.mem = (s.physWrite (some q.part) (cellsAt a (bytesLE 4
          ((natLE ((List.range 4).map fun k => s.physRead (some q.part) (a + k)) + 1) % 2 ^ 32)))).mem

/-! Teams (spec/08, 16, 18, 20, 21). -/

/-- TEAM_ADMIT: a core that may take the entry holds the team with what it held, RESIDENT, and the entry leaves the queue;
one that may not leaves it to the next core (R144, R302, R303). MIGR_ARRIVAL seats a team in the landing slot that it holds,
with what it held; where the slot's cluster takes no teams any more or is another partition's, or the rest of its persistent grid is
out, it stands saved on that die (R259, R265, R266, R356, R434, R437). -/
def Obligations.TeamsAreSeated : Prop :=
  (∀ (s : State) (c : CoreId) (oid : Nat) (e : QEnt) (i : Image), s.runq.find? (·.oid == oid) = some e → e.oid = oid →
    e.die = c.die → e.cluster = c.cluster → s.image oid = some i → s.gridOf i.team.grid = none → objKind (s.obj oid) = kTEAM →
    (∀ p, s.admits c e = some p → NothingToFeed s → (s.core c).team oid = none → p.oid = oid →
      ∃ t q, exec (.teamAdmit c oid) s = .next t ∧ (∀ d, d ≠ c → t.core d = s.core d) ∧ (t.core c).team oid = some q
        ∧ kept { q with tiles := [] } = kept { p with tiles := [] } ∧ (p.fresh = false → q.tiles = p.tiles)
        ∧ t.mgmt = s.mgmt ∧ t.cycle = s.cycle ∧ t.image oid = none ∧ (∀ f ∈ t.runq, f.oid ≠ oid)
        ∧ objState (t.obj oid) = 2 ∧ fld (t.obj oid) 80 12 = locOf c % 4096 ∧ (t.core c).cur.isSome = true)
    ∧ (s.admits c e = none →
      ∃ t, exec (.teamAdmit c oid) s = .next t ∧ { t with agenda := s.agenda } = s
        ∧ DueIn t 1 (.teamAdmit ⟨c.die, c.cluster, (c.core + 1) % 16⟩ oid)))
  ∧ (∀ (s : State) (oid : Nat) (i : Image) (l : Landing), s.image oid = some i → i.moving = true → i.team.fresh = false →
    s.landings.find? (·.team == oid) = some l → s.lands l.die l.cluster = true →
    (s.clusters i.team.part l.die).contains l.cluster = true →
    (∀ g, s.gridOf i.team.grid = some g → g.pers = true → s.gridOut i.team.grid = false) → (s.core ⟨l.die, l.cluster, l.slot⟩).withdrawn = false →
    (s.core ⟨l.die, l.cluster, l.slot⟩).rollback = none →
    (s.core ⟨l.die, l.cluster, l.slot⟩).team oid = none →
    ∃ t q, exec (.migrArrival oid) s = .next t ∧ (t.core ⟨l.die, l.cluster, l.slot⟩).team oid = some q ∧ q.inSlot = true
      ∧ kept q = kept i.team ∧ t.image oid = none ∧ (∀ d, d ≠ ⟨l.die, l.cluster, l.slot⟩ → t.core d = s.core d)
      ∧ t.cycle = s.cycle)
  ∧ ∀ (s : State) (oid : Nat) (i : Image) (l : Landing), s.image oid = some i → i.moving = true →
    s.landings.find? (·.team == oid) = some l →
    (s.lands l.die l.cluster = false ∨ (s.clusters i.team.part l.die).contains l.cluster = false
      ∨ ∃ g, s.gridOf i.team.grid = some g ∧ g.pers = true ∧ s.gridOut i.team.grid = true) →
    ∃ t j, exec (.migrArrival oid) s = .next t ∧ CoresKept s t ∧ t.image oid = some j ∧ j.team = i.team ∧ j.moving = false
      ∧ j.die = l.die ∧ ∀ m ∈ t.landings, m.team ≠ oid

/-- TEAM_RETIRE, SWAP_OUT and MIGR_SHIP: with nothing under way and room in the hold-back buffer, the team's report, image or
state is held behind every earlier effect, and the heat closes with its counter export, or its close waits (R150, R152, R153, R265,
R276, R283, R289).
A shipment that its MIGR has put into the buffer is not put there again, and its heat closes if it is the open one (R267).
BLOCKED_SWAP swaps a team that has been blocked for SWT microseconds while its cluster's queue holds a team, and with a team of a
persistent grid every team of it (R259, R374). -/
def Obligations.TeamsLeave : Prop :=
  (∀ (i : Instr) (c : CoreId) (oid : Nat) (kind : HeldKind) (ok : Core → Team → Prop), LeaveRow i c oid kind ok →
    ∀ (s : State) (q : Team) (h : Heat), (s.core c).team oid = some q → ok (s.core c) q → (s.core c).rollback = none →
      (∀ e ∈ (s.core c).held, e.ref.team ≠ oid ∧ e.kind ≠ kind) → (s.core c).holdRoom = true → (s.core c).cur = some h →
      let k1 : Core := { s.core c with held := (s.core c).held ++ [heldTeam (s.core c) oid kind] }
      ∃ t, exec i s = .next t ∧ CoreOnly s t c
        ∧ (∀ f ∈ (t.core c).faults, f.team ≠ oid) ∧ ((t.core c).team oid).map kept = some (kept { q with seq := { q.seq with
            run := q.seq.run && decide (kind ≠ .report oid) } })
        ∧ ((s.core c).old = none → (t.core c).old.map (·.num) = some h.num ∧ Exported k1 (t.core c) h ∧ DueIn t 225 (.heatSet c))
        ∧ ((s.core c).old.isSome = true → (t.core c).held = k1.held ∧ (t.core c).closeReq = true))
  ∧ (∀ (s : State) (c : CoreId) (oid : Nat) (q : Team) (h : Heat) (e : Held), (s.core c).team oid = some q →
    q.leave = some .migrate → (s.core c).rollback = none → (s.core c).held.find? (·.kind == .ship oid) = some e →
    (s.core c).cur = some h → (s.core c).old = none →
    ∃ t, exec (.migrShip c oid) s = .next t ∧ CoreOnly s t c
      ∧ (e.heat = h.num → (t.core c).old.map (·.num) = some h.num ∧ Exported (s.core c) (t.core c) h ∧ DueIn t 225 (.heatSet c))
      ∧ (e.heat ≠ h.num → (t.core c).held = (s.core c).held ∧ (t.core c).old = none ∧ (t.core c).cur = some h))
  ∧ ∀ (s : State) (c : CoreId) (oid n : Nat) (q : Team), (s.core c).team oid = some q → q.leave = none → q.blocked = some n →
    let swt := bitsNat (s.mreg (partBlock q.part)) 0 10
    swt ≠ 0 →
    (n + micros swt ≤ s.wall → (s.queued c.die c.cluster) ≠ [] → (∀ g, s.gridOf q.grid = some g → g.pers = false) →
      ∃ t, exec (.blockedSwap c oid) s = .next t ∧ CoreOnly s t c ∧ DueIn t 1 (.swapOut c oid)
        ∧ (t.core c).team oid = some { q with leave := some (.swap .wait) })
    ∧ (n + micros swt ≤ s.wall → (s.queued c.die c.cluster) ≠ [] → (∃ g, s.gridOf q.grid = some g ∧ g.pers = true) →
      (s.cores.map (·.id)).Nodup → (∀ k ∈ s.cores, (k.teams.map (·.oid)).Nodup) →
      ∃ t, exec (.blockedSwap c oid) s = .next t ∧ t.mem = s.mem ∧ t.mgmt = s.mgmt ∧ t.cycle = s.cycle
        ∧ ∀ k ∈ s.cores, ∀ u ∈ k.teams, u.grid = q.grid → u.leave = none →
          (t.core k.id).team u.oid = some { u with leave := some (.swap .wait) } ∧ DueIn t 1 (.swapOut k.id u.oid))
    ∧ ((s.wall < n + micros swt ∨ s.queued c.die c.cluster = []) →
      ∃ t, exec (.blockedSwap c oid) s = .next t ∧ { t with agenda := s.agenda } = s ∧ DueIn t 1 (.blockedSwap c oid))

/-- MIGR: a team of more than one wave takes MIGRATE with NW in AUX; one that holds an accelerator context or a sequencer or more than
16,384 bytes of scratchpad, one whose page no die of the package homes, or a die that is not live, and one whose page's home holds no
free landing slot MIGRATE with AUX 1; at its home already the run passes; else, once LD, ST and CP are 0 and the hold-back buffer has room, the team is to leave for a
free landing slot of the page's home, by a shipment of this heat (R31, R265, R266, R267). -/
def Obligations.MigrMoves : Prop :=
  ∀ (f : RForm) (s : State) (x : Ctx) (act : List Nat),
    s.Issues { g := f.g, uniform := true, reads := regsOf f.a true true } x act →
    s.landings = [] → x.room (x.rcdKeys act) = true →
    let va : BitVec 57 := (x.spair f.a).setWidth 57
    (x.team.nw ≠ 1 →
      ∃ t, exec (.migr f) s = .next t ∧ s.Delivered t x [] 0 act (fun _ => ⟨11, va, BitVec.ofNat 32 x.team.nw⟩) 1)
    ∧ (x.team.nw = 1 → (∀ a ∈ act, (x.thread a).deny = none) → ∀ e,
      x.core.tlb.find? (·.hits x.team.proc va) = some e → e.refuses 1 = none → ∀ key, s.keyUnder e va = some key →
      (homeDie key = none → ∃ t, exec (.migr f) s = .next t ∧ s.Delivered t x [] 0 act (fun _ => ⟨11, va, 1⟩) 1)
      ∧ ∀ d, homeDie key = some d →
      (d = x.w.core.die → ∃ t, exec (.migr f) s = .next t ∧ s.Passed t x 1)
      ∧ (d ≠ x.w.core.die → (s.freeLanding x.team.part d = none ∨ x.team.acc ≠ 0 ∨ x.team.mseq = true ∨ 16384 < x.team.sz
          ∨ s.live d = false) →
        ∃ t, exec (.migr f) s = .next t ∧ s.Delivered t x [] 0 act (fun _ => ⟨11, va, 1⟩) 1)
      ∧ ∀ l, d ≠ x.w.core.die → s.freeLanding x.team.part d = some l → x.team.acc = 0 → x.team.mseq = false →
        x.team.sz ≤ 16384 → s.live d = true → x.wave.counter .ld = 0 → x.wave.counter .st = 0 → x.wave.counter .cp = 0 →
        x.holdRoom 1 = true →
        ∃ t, exec (.migr f) s = .next t ∧ s.Passed { t with landings := s.landings } x 1
          ∧ t.landings = [{ l with team := x.w.team }]
          ∧ (t.core x.w.core).held = x.core.held ++ [heldTeam x.core x.w.team (.ship x.w.team)]
          ∧ (t.teamOf x.w).map (·.leave) = some (some .migrate) ∧ (s.cycle, Due.migrShip x.w.core x.w.team) ∈ t.agenda)

/-- FAULT_REPLY: a retry takes the key from each parked thread that waits on it, and one with no key left is eligible again
at the same instruction; a denial takes it up with a DENY mark. TRANSLATION_WALK_DONE puts the entry that the tables hold
into the core's and its cluster's TLBs (R204, R345, R350). -/
def Obligations.FaultsAreAnswered : Prop :=
  (∀ (s : State) (w : WaveId) (q : Team) (v : Wave) (key : FaultKey) (mask : BitVec 3) (a : Nat) (deny : Bool),
    s.waveAt w = some (q, v) → s.coreOf w.team = some (s.core w.core) → q.seq.stall ≠ some key → a < 32 →
    Ctx.heatLoad (s.core w.core).cur + Ctx.heatLoad (s.core w.core).old < 3072 →
    (v.thread a).life = .parked → key ∈ (v.thread a).keys → (deny = true ∨ ∀ k ∈ (v.thread a).keys, k = key) →
    ∃ t, exec (.faultReply w.team key deny mask) s = .next t ∧ CoreOnly s t w.core ∧ s.Wrote t w []
      ∧ (t.threadAt w a).life = .eligible ∧ (t.threadAt w a).keys = []
      ∧ (t.threadAt w a).deny = (if deny then some (key, mask) else (v.thread a).deny)
      ∧ (∀ k, t.pcAt w k = s.pcAt w k ∧ t.recAt w k = s.recAt w k)
      ∧ ((s.core w.core).faultQ = [] → (∀ r ∈ t.cupola, ¬ (r.team = w.team ∧ FaultKey.ofVa r.va r.fetch = key))
        ∧ ∀ f ∈ (t.core w.core).faults, ¬ (f.team = w.team ∧ f.key = key)))
  ∧ ∀ (s : State) (c : CoreId) (q : Team) (va : BitVec 57) (e : Tlb),
    (s.core c).teams.find? (·.proc == q.proc) = some q → (∀ x ∈ (s.core c).tlb, x.hits q.proc va = false) →
    (∀ x ∈ s.l2, ¬ (x.1 = clusterOf c ∧ x.2.hits q.proc va = true)) → s.walk q.part q.proc va (some (.wave ⟨c, q.oid, 0⟩ 0)) = .found e →
    ∃ t, exec (.translationWalkDone c q.proc va) s = .next t ∧ CoreOnly s t c ∧ e ∈ (t.core c).tlb ∧ (clusterOf c, e) ∈ t.l2
      ∧ (t.core c).teams = (s.core c).teams

/-! Grants and shootdowns (spec/19, 20). -/

/-- GRANT_PTE_UPDATE sets the GRANTED bit of every entry that still maps the page with the rights, and the shootdown starts;
where it does not, the reservation is released and the send completes with CLASH, detail 4. SHOOTDOWN_ACK waits while an
access translated before is not performed, and the last acknowledgement completes the shootdown. GRANT_COMMIT makes the
message visible and the send's OK sets out, once every earlier reservation of the port has been committed; wherever the port
no longer holds the reservation, as where it has been freed, the send is ABSENT (R328, R329, R346, R347; log 74). -/
def Obligations.GrantsTakeTheirOrder : Prop :=
  (∀ (s : State) (g : Grant), s.grants.find? (·.req == g.req) = some g → g.marked = false →
    (s.walk g.part g.proc g.va (some (.event (.grantPteUpdate g.req)))).away = [] →
    (s.stillMapped g = false → ∃ t, exec (.grantPteUpdate g.req) s = .next t ∧ CoresKept s t
      ∧ (∀ h ∈ t.grants, h.req ≠ g.req) ∧ (∀ q, s.req g.req = some q → Answered t g.req 0x409 0 [])
      ∧ ∀ i, g.port = some i → objKind (s.obj i) = kPORT → ∀ m ∈ t.portMsgs i, m.req ≠ some (.here g.req))
    ∧ (s.stillMapped g = true →
      ∃ t x, exec (.grantPteUpdate g.req) s = .next t ∧ t.mem = (s.markGranted g.part g.proc g.page.sz g.va).mem ∧ t.mgmt = s.mgmt
        ∧ t.cycle = s.cycle ∧ t.shoots = s.shoots ++ [x] ∧ x.for_ = .grant g.req ∧ x.proc = g.proc ∧ x.va = g.va ∧ x.np = 1
        ∧ (∃ h, t.grants.find? (·.req == g.req) = some h ∧ h.marked = true)
        ∧ ∀ c, s.pcluHas g.part c = true → ∀ e ∈ (t.core c).tlb, x.covers e = false))
  ∧ (∀ (s : State) (c : CoreId) (x : Shoot) (ops : List OpRef), s.shoots = [x] → x.acks = [(c, ops)] →
    (s.core c).rollback = none →
    ((∃ r ∈ ops, s.undone c r = true) → ∃ t, exec (.shootdownAck c x.id) s = .next t ∧ { t with agenda := s.agenda } = s
      ∧ DueIn t 1 (.shootdownAck c x.id))
    ∧ ((∀ r ∈ ops, s.undone c r = false) → ∃ t, exec (.shootdownAck c x.id) s = .next t ∧ CoresKept s t ∧ t.shoots = []
      ∧ (∀ r, x.for_ = .request r → Reports t r 0) ∧ ∀ id, x.for_ = .grant id → DueLater t (.grantCommit id)))
  ∧ (∀ (s : State) (g : Grant) (q : Req) (i : Nat), s.grants.find? (·.req == g.req) = some g → s.req g.req = some q →
    g.port = some i → objKind (s.obj i) = kPORT → Had s (s.ringKey i) (.grantCommit g.req) → (∀ x ∈ s.gslots, x.proc ≠ g.proc) →
    ((∃ m ∈ s.portMsgs i, m.req = some (.here g.req)) → (∀ m ∈ reservedTo g.req (s.portMsgs i), m.req = none) →
      ∃ t, exec (.grantCommit g.req) s = .next t ∧ CoresKept s t ∧ Answered t g.req 0 0 []
        ∧ (∀ h ∈ t.grants, h.req ≠ g.req) ∧ (t.portMsgs i).map (·.bits) = (s.portMsgs i).map (·.bits)
        ∧ ∀ m ∈ t.portMsgs i, m.req ≠ some (.here g.req))
    ∧ ((∃ m ∈ s.portMsgs i, m.req = some (.here g.req)) → (∃ m ∈ reservedTo g.req (s.portMsgs i), m.req ≠ none) →
      ∃ t, exec (.grantCommit g.req) s = .next t ∧ { t with agenda := s.agenda } = s ∧ DueIn t 1 (.grantCommit g.req)))
  ∧ ∀ (s : State) (g : Grant) (q : Req) (i : Nat), s.grants.find? (·.req == g.req) = some g → s.req g.req = some q →
    g.port = some i → Had s (s.ringKey i) (.grantCommit g.req) → (∀ m ∈ s.portMsgs i, m.req ≠ some (.here g.req)) →
    ∃ t, exec (.grantCommit g.req) s = .next t ∧ TlbsOnly s t ∧ Answered t g.req 6 0 [] ∧ ∀ h ∈ t.grants, h.req ≠ g.req

/-! Messages, launches and contexts (spec/21, 24, 25). -/

/-- LAUNCH, RUNGRAPH, FENCE, ORD_START and DOORBELL: the message at NEXTSEQ of a whole port is taken; the first check it fails
rejects it with that status and detail; a good LAUNCH starts its teams, a good RUNGRAPH its run at ENTRY, a FENCE writes its
record's SEQ and complement; behind unfinished messages ORD holds it; a message that is replayed has no second record; a doorbell too
far past NEXTSEQ changes nothing but the log (R360 to R364, R372, R381, R406, R429, R430).  The model's choices: the fence record lies at a host
physical address (log 40), the pace of a block's update (log 39) and the number of an unmapped port (log 76). -/
def Obligations.MessagesAreTaken : Prop :=
  (∀ (s u : State) (part slot : Nat) (x : PortSlot) (m : BitVec 512), Offers s u part slot x m →
    ((msgOp m = 0 ∨ 3 < msgOp m) → ∃ t, exec (.launch part slot) s = .next t ∧ TookOne s t part slot x
      ∧ (Unrecorded x x.next → Posted t part slot x.next 1 0 0)
      ∧ (¬ Unrecorded x x.next → ∀ r ∈ t.records, r ∈ s.records ∨ r.bits.extractLsb' 0 32 = x.next + 1))
    ∧ (msgOp m = 1 → fld m 9 7 = 0 → (∀ st, u.launchHead x.proc m = some st → Unrecorded x x.next →
        ∃ t, exec (.launch part slot) s = .next t ∧ TookOne s t part slot x ∧ Posted t part slot x.next st 0 0
          ∧ t.grids = s.grids)
      ∧ (∀ st d, u.launchHead x.proc m = none → Readable u part slot (u.launchKeys part x.proc m (some (.event (.launch part slot)))) →
        u.checkLaunch part x.proc m = .inl (st, d) → Unrecorded x x.next →
        ∃ t, exec (.launch part slot) s = .next t ∧ TookOne s t part slot x ∧ Posted t part slot x.next st d 0
          ∧ t.grids = s.grids)
      ∧ ∀ g, u.launchHead x.proc m = none → Readable u part slot (u.launchKeys part x.proc m (some (.event (.launch part slot)))) →
        u.checkLaunch part x.proc m = .inr g → g.part = part → g.started = false → Fresh u slot x → x.taken = [] →
        ∃ t, exec (.launch part slot) s = .next t ∧ TookOne s t part slot x
          ∧ (t.slot part slot).map (·.taken) = some [x.next]
          ∧ ∃ h ∈ t.grids, h.slot = some (slot, x.next) ∧ h.started = true ∧ h.desc = g.desc ∧ h.total = g.total
            ∧ h.proc = g.proc ∧ h.args = g.args ∧ h.bufs = g.bufs)
    ∧ (msgOp m = 2 → fld m 9 7 = 0 → fld m 48 16 = 0 → fld m 96 416 = 0 → u.dying x.proc = false →
      (u.graphOf x.proc m = none → Unrecorded x x.next → ∃ t, exec (.rungraph part slot) s = .next t ∧ TookOne s t part slot x
        ∧ Posted t part slot x.next 11 0 0 ∧ t.runs = s.runs)
      ∧ ∀ o, u.graphOf x.proc m = some o → objKind (u.obj o) = kGRAPH → (u.obj o).getLsbD 160 = false → x.taken = [] →
        ∃ t, exec (.rungraph part slot) s = .next t ∧ TookOne s t part slot x ∧ (t.obj o).getLsbD 160 = true
          ∧ fld (t.obj o) 176 16 = fld (u.obj o) 144 16
          ∧ t.runs = s.runs ++ [{ graph := o, part := part, slot := slot, seq := x.next, proc := x.proc
                                  node := fld (u.obj o) 144 16 }]
          ∧ DueIn t 1 (.graphTimeNode o))
    ∧ (msgOp m = 3 → fld m 9 7 = 0 → fld m 48 16 = 0 → fld m 64 448 = 0 → u.dying x.proc = false →
      Had u (startKeys x m) (.fenceMessage part slot) →
      (x.taken = [] → s.Inv → (∀ r, s.regionOf (s.domKey x.pcb) = some r → s.regionByte r < hostBase) → Unrecorded x x.next →
        ∃ t, exec (.fenceMessage part slot) s = .next t ∧ TookOne s t part slot x
        ∧ Posted t part slot x.next 0 0 0 ∧ memNat t.mem (hostBase + x.fenceA) 4 = x.next.toNat
        ∧ memNat t.mem (hostBase + x.fenceA + 4) 4 = (~~~x.next).toNat)
      ∧ (x.taken ≠ [] → ∃ t, exec (.fenceMessage part slot) s = .next t ∧ TookOne s t part slot x
        ∧ (t.slot part slot).map (·.ord) = some (some m) ∧ t.records = s.records)))
  ∧ (∀ (s : State) (part slot : Nat) (x : PortSlot) (m : BitVec 512), s.Inv → s.slot part slot = some x → x.ord = some m →
    msgOp m = 3 → x.taken = [msgSeq m] → Had s (startKeys x m) (.ordStart part slot) →
    (∀ r, s.regionOf (s.domKey x.pcb) = some r → s.regionByte r < hostBase) →
    Unrecorded x (msgSeq m) →
    ∃ t, exec (.ordStart part slot) s = .next t ∧ t.cores = s.cores ∧ Posted t part slot (msgSeq m) 0 0 0
      ∧ memNat t.mem (hostBase + x.fenceA) 4 = (msgSeq m).toNat ∧ (t.slot part slot).map (·.ord) = some none)
  ∧ ∀ (s : State) (part slot : Nat) (v : Word) (x : PortSlot), s.slot part slot = some x →
    (63 < (v - x.next).toNat → ∃ t, exec (.doorbell part slot v) s = .next t
      ∧ { t with errs := s.errs, errHead := s.errHead } = s ∧ t.errHead = s.errHead + 1)
    ∧ ((v - x.next).toNat ≤ 63 → ∃ t, exec (.doorbell part slot v) s = .next t ∧ t.cores = s.cores
      ∧ (s.accessWaits (.event (.launch part slot)) (s.domKey x.pcb) = false → t.mem = s.mem)
      ∧ t.objs = s.objs ∧ t.mgmt = s.mgmt ∧ (t.slot part slot).map (·.bell) = some (some v)
      ∧ (t.slot part slot).map (·.next) = some x.next)

/-- RUNNER_RANGE_REPORT: the launch completes with the number of its teams when its last range has retired, and the run that it belongs
to goes on at the node after it.  GRAPH_TIME_NODE: a LAUNCH node starts its launch and the run waits, or a check that fails ends the run
with its status; a COND node goes to NEXT, or to ALT at zero; a WHILE node goes to ALT and counts, while its word is not zero and LIM
allows it, else to NEXT; a TIME node waits for its time; a SIGNAL node posts its value; a bad node, or one whose word or image its owner
may not read, ends the run with status 10; a run at 0xFFFF ends.  COMPLETION_POST writes a record while the host has read far enough, and then POSTED counts it and the vector is raised; a
port whose block is torn posts nothing (R429), and is looked at again after 64 cycles (log 39).  A ring's base is a host physical address
(log 40).  BUCKET_TICK moves a bucket's level as R366 says (R364, R366, R367, R371 to R373, R405). -/
def Obligations.RunsAndRecordsGoOn : Prop :=
  (∀ (s : State) (g : Grid) (r : Range367) (k : Nat) (seq : Word) (x : PortSlot), s.gridOf g.id = some g → g.ranges = [r] →
    r.left = 0 → r.hi ≤ r.next → g.slot = some (k, seq) → s.slot g.part k = some x → seq ∈ x.taken → Unrecorded x seq →
    ∃ t, exec (.runnerRangeReport g.id r.die) s = .next t ∧ CoresKept s t ∧ t.mem = s.mem ∧ Posted t g.part k seq 0 0 g.total
      ∧ ∀ h ∈ t.grids, h.id ≠ g.id)
  ∧ (∀ (s : State) (g : Grid) (r : Range367) (q : GraphRun), s.gridOf g.id = some g → g.ranges = [r] → r.left = 0 → r.hi ≤ r.next →
    g.slot = none → g.run = some q.graph → s.runs.find? (·.graph == q.graph) = some q → objKind (s.obj q.graph) = kGRAPH →
    ∃ t, exec (.runnerRangeReport g.id r.die) s = .next t ∧ CoresKept s t ∧ RunAt t q q.next ∧ ∀ h ∈ t.grids, h.id ≠ g.id)
  ∧ (∀ (s : State) (r : GraphRun) (n : BitVec 256), s.runs.find? (·.graph == r.graph) = some r → r.waits = false →
    r.node ≠ 0xFFFF → s.node r = some n → nodeBad r n = false → objKind (s.obj r.graph) = kGRAPH →
    let me : Due := .graphTimeNode r.graph
    let owner := objOwner (s.obj r.graph)
    let reads (a : BitVec 57) (k : Nat) : List Nat := s.vkeys r.part owner a k (some (.event me))
    let addr : BitVec 57 := n.extractLsb' 64 57
    let next := bitsNat n 16 16
    let alt := bitsNat n 32 16
    Had s (reads (s.nodeVa r) 32) me →
    (bitsNat n 0 3 = 0 → Had s (reads addr 64) me → ∀ v, s.vreadNat r.part owner addr 64 = some v →
      let m : BitVec 512 := BitVec.ofNat 512 v
      (msgOp m ≠ 1 → ∃ t, exec (.graphTimeNode r.graph) s = .next t ∧ CoresKept s t ∧ RunOver s t r 1 0)
      ∧ (msgOp m = 1 → ∀ st, s.launchHead owner m = some st →
        ∃ t, exec (.graphTimeNode r.graph) s = .next t ∧ CoresKept s t ∧ RunOver s t r st 0)
      ∧ (msgOp m = 1 → s.launchHead owner m = none → Had s (s.launchKeys r.part owner m (some (.event me))) me →
        (∀ st d, s.checkLaunch r.part owner m = .inl (st, d) →
          ∃ t, exec (.graphTimeNode r.graph) s = .next t ∧ CoresKept s t ∧ RunOver s t r st d)
        ∧ ∀ g, s.checkLaunch r.part owner m = .inr g → (∀ h ∈ s.grids, h.id ≠ s.nextId) →
          ∃ t, exec (.graphTimeNode r.graph) s = .next t ∧ CoresKept s t
            ∧ (t.runs.find? (·.graph == r.graph)).map (fun q => (q.waits, q.next)) = some (true, next)
            ∧ ∃ h ∈ t.grids, h.id = s.nextId ∧ h.run = some r.graph ∧ h.slot = none ∧ h.started = true ∧ h.desc = g.desc
              ∧ h.total = g.total ∧ h.proc = g.proc ∧ h.args = g.args ∧ h.bufs = g.bufs))
    ∧ (bitsNat n 0 3 = 1 → Had s (reads addr 4) me → ∀ v, s.vreadNat r.part owner addr 4 = some v →
      ∃ t, exec (.graphTimeNode r.graph) s = .next t ∧ CoresKept s t ∧ RunAt t r (if v = 0 then alt else next))
    ∧ (bitsNat n 0 3 = 2 → Had s (reads addr 4) me → ∀ v, s.vreadNat r.part owner addr 4 = some v →
      let c := (r.counts.lookup r.node).getD 0
      let lim := bitsNat n 128 32
      (v ≠ 0 ∧ (lim = 0 ∨ c < lim) → ∃ t, exec (.graphTimeNode r.graph) s = .next t ∧ CoresKept s t ∧ RunAt t r alt
        ∧ (t.runs.find? (·.graph == r.graph)).map (·.counts.lookup r.node) = some (some (c + 1)))
      ∧ (¬ (v ≠ 0 ∧ (lim = 0 ∨ c < lim)) → ∃ t, exec (.graphTimeNode r.graph) s = .next t ∧ CoresKept s t ∧ RunAt t r next))
    ∧ (bitsNat n 0 3 = 3 →
      (s.untilPtp (bitsNat n 128 64) = 0 → ∃ t, exec (.graphTimeNode r.graph) s = .next t ∧ CoresKept s t ∧ RunAt t r next)
      ∧ (s.untilPtp (bitsNat n 128 64) ≠ 0 → ∃ t, exec (.graphTimeNode r.graph) s = .next t ∧ { t with agenda := s.agenda } = s
        ∧ DueIn t (s.untilPtp (bitsNat n 128 64)) me))
    ∧ (bitsNat n 0 3 = 4 → (s.slot r.part (fld (s.obj r.graph) 192 7)).isSome = true →
      ∃ t, exec (.graphTimeNode r.graph) s = .next t ∧ CoresKept s t ∧ RunAt t r next
        ∧ Posted t r.part (fld (s.obj r.graph) 192 7) r.seq 13 0 (bitsNat n 128 64)))
  ∧ (∀ (s : State) (r : GraphRun), s.runs.find? (·.graph == r.graph) = some r → r.waits = false →
    r.node ≠ 0xFFFF → objKind (s.obj r.graph) = kGRAPH →
    (fld (s.obj r.graph) 128 16 ≤ r.node
      ∨ (Had s (s.vkeys r.part (objOwner (s.obj r.graph)) (s.nodeVa r) 32 (some (.event (.graphTimeNode r.graph)))) (.graphTimeNode r.graph)
        ∧ ∀ n, s.node r = some n → nodeBad r n = true
          ∨ (bitsNat n 0 3 < 3 ∧ let size := if bitsNat n 0 3 = 0 then 64 else 4
            Had s (s.vkeys r.part (objOwner (s.obj r.graph)) (n.extractLsb' 64 57) size (some (.event (.graphTimeNode r.graph))))
              (.graphTimeNode r.graph)
            ∧ s.vreadNat r.part (objOwner (s.obj r.graph)) (n.extractLsb' 64 57) size = none))) →
    ∃ t, exec (.graphTimeNode r.graph) s = .next t ∧ CoresKept s t ∧ RunOver s t r 10 (r.node % 256))
  ∧ (∀ (s : State) (r : GraphRun), s.runs.find? (·.graph == r.graph) = some r → r.waits = false →
    r.node = 0xFFFF → objKind (s.obj r.graph) = kGRAPH →
    ∃ t, exec (.graphTimeNode r.graph) s = .next t ∧ CoresKept s t ∧ RunOver s t r 0 0)
  ∧ (∀ (s : State) (ring : RingId) (r : PendRec) (base crn vec : Nat), s.Inv → s.records.find? (·.ring == ring) = some r →
    s.ring ring = some (base, crn, vec) →
    Had s (s.postKeys ring ++ [base + 16 * ((s.postedOf ring).toNat % 2 ^ crn), base + 16 * 2 ^ crn]) (.completionPost ring) →
    s.linkDown = false → s.ringTorn ring = false →
    (s.postedOf ring - BitVec.ofNat 32 (memNat s.mem (base + 16 * 2 ^ crn + 16) 4)).toNat < 2 ^ crn →
    (r.written = false → ∃ t, exec (.completionPost ring) s = .next t ∧ CoresKept s t ∧ t.postedOf ring = s.postedOf ring
      ∧ t.raised = s.raised ∧ DueIn t 1 (.completionPost ring)
      ∧ memNat t.mem (base + 16 * ((s.postedOf ring).toNat % 2 ^ crn)) 16 = r.bits.toNat
      ∧ (∀ a, (a < base + 16 * ((s.postedOf ring).toNat % 2 ^ crn)
          ∨ base + 16 * ((s.postedOf ring).toNat % 2 ^ crn) + 16 ≤ a) → t.byte a = s.byte a))
    ∧ (r.written = true → (∀ p k, ring = .slot p k → k < 128) →
      (∀ p k x r, ring = .slot p k → s.slot p k = some x → s.regionOf (s.domKey x.pcb) = some r → s.regionByte r < hostBase) →
      hostBase ≤ base → ∃ t, exec (.completionPost ring) s = .next t ∧ CoresKept s t
      ∧ t.postedOf ring = s.postedOf ring + 1 ∧ t.raised = s.raised ++ [vec]
      ∧ memNat t.mem (base + 16 * 2 ^ crn) 4 = (s.postedOf ring + 1).toNat))
  ∧ (∀ (s : State) (ring : RingId) (r : PendRec) (base crn vec : Nat), s.records.find? (·.ring == ring) = some r →
    s.ring ring = some (base, crn, vec) →
    Had s (s.postKeys ring ++ [base + 16 * ((s.postedOf ring).toNat % 2 ^ crn), base + 16 * 2 ^ crn]) (.completionPost ring) →
    s.ringTorn ring = true → ∃ t, exec (.completionPost ring) s = .next t ∧ { t with agenda := s.agenda } = s
      ∧ DueIn t 64 (.completionPost ring))
  ∧ ∀ (s : State) (part k : Nat),
    let v := s.mreg (bucketReg part k)
    let old := (s.mreg (bucketReg part k + 8)).extractLsb' 0 32
    let new := min (bitsNat v 16 32 : Int) (old.toInt + bitsNat v 0 16 - s.tenantWaves part k)
    ∃ t, exec (.bucketTick part k) s = .next t ∧ t.cores = s.cores ∧ t.cycle = s.cycle ∧ t.objs = s.objs
      ∧ (part < 16 → k < 256 → (∀ x ∈ s.slots, s.accessWaits (.event (.launch x.part x.slot)) (s.domKey x.pcb) = false) →
        t.mem = s.mem)
      ∧ DueIn t (s.cyclesIn (micros 1)) (.bucketTick part k)
      ∧ (-(2 ^ 31) ≤ new → new < 2 ^ 31 → ((t.mreg (bucketReg part k + 8)).extractLsb' 0 32).toInt = new)
      ∧ ∀ a, a ≠ bucketReg part k + 8 → t.mreg a = s.mreg a

/-! Management (spec/18, 20, 21, 24, 25). -/

/-- A request whose ring is not set up, or that finds 64 outstanding, is not performed and logged; one with a bad header or a
bit that must be 0 completes with STATUS 2 and has no other effect; one whose partition has an earlier request that waits is served
behind it (R407, R416, R418, R427; log 92). -/
def Obligations.RequestsAreChecked : Prop :=
  ∀ (i : Instr) (r : MgmtReq) (kind : Nat), ReqRow i r kind → mKind r = kind → ∀ (s : State),
    (((s.ring (mRing r)).isSome = false ∨ 64 ≤ s.outstanding) →
      ∃ t, exec i s = .next t ∧ { t with errs := s.errs, errHead := s.errHead } = s ∧ t.errHead ≠ s.errHead)
    ∧ ((s.ring (mRing r)).isSome = true → s.outstanding < 64 → (mHeaderBad r = true ∨ bodyOk kind r = false) →
      ∃ t, exec i s = .next t ∧ Reports t r 2
        ∧ { t with records := s.records, agenda := s.agenda, errs := s.errs, errHead := s.errHead } = s)
    ∧ ((s.ring (mRing r)).isSome = true → s.outstanding < 64 → mHeaderBad r = false → bodyOk kind r = true → s.barred r = true →
      ∃ t, exec i s = .next t ∧ { t with waiting := s.waiting, agenda := s.agenda } = s ∧ t.waiting = s.waiting ++ [r]
        ∧ ∃ k, (k, Due.requestServe (mLane r)) ∈ t.agenda)

/-- Dies and the package: DCRESET of a live die saves its teams first, of a memory-only die reports at once; DRESTART makes a
memory-only die live, and of a down one trains the stack first, from which it is memory-only and then live, unless machine-checks keep
it down; DDOWN takes a memory-only die's memory away once nothing pins it; PKRESET, which
is logged and not performed behind 64 outstanding requests, FUNCTION_LEVEL_RESET and POWER_INPUT_FAULT lose everything that is
the package's, and RESET_RELEASE brings it up (R416, R419 to R424, R431, R432, R435).  The model's choices: registers back at the reset values of log 1,
bytes that read 0 before the bring-up (log 5), and the layout of the store's measured hash (log 24). -/
def Obligations.DiesAndPackageReset : Prop :=
  (∀ (s : State) (r : MgmtReq), Performed 2 s r → (s.die (mDie r)).reset = none →
    ((s.die (mDie r)).st = 1 → ∃ t, exec (.dcreset r) s = .next t ∧ Reports t r 0 ∧ CoresKept s t ∧ t.dies = s.dies)
    ∧ ((s.die (mDie r)).st = 0 → ∃ t, exec (.dcreset r) s = .next t ∧ Reports t r 22 ∧ CoresKept s t ∧ t.dies = s.dies)
    ∧ ((s.die (mDie r)).st = 2 → ∃ t, exec (.dcreset r) s = .next t ∧ CoresKept s t ∧ t.records = s.records
      ∧ t.die (mDie r) = { s.die (mDie r) with reset := some r } ∧ DueIn t 1 (.dcresetGoesOn (mDie r))))
  ∧ (∀ (s : State) (r : MgmtReq), Performed 3 s r →
    (((s.die (mDie r)).dead = true ∨ (s.die (mDie r)).up.isSome = true) →
      ∃ t, exec (.drestart r) s = .next t ∧ Reports t r 22 ∧ CoresKept s t ∧ t.dies = s.dies)
    ∧ ((s.die (mDie r)).dead = false → (s.die (mDie r)).up = none → (s.live (mDie r) = true →
        ∃ t, exec (.drestart r) s = .next t ∧ Reports t r 0 ∧ CoresKept s t ∧ t.dies = s.dies)
      ∧ ((s.die (mDie r)).st = 1 →
        ∃ t, exec (.drestart r) s = .next t ∧ Reports t r 0 ∧ (t.die (mDie r)).st = 2 ∧ (t.die (mDie r)).born = s.cycle
          ∧ DueIn t 0 (.crucibleFrame (mDie r)) ∧ ∀ d, d ≠ mDie r → t.die d = s.die d)
      ∧ ((s.die (mDie r)).st = 0 →
        ∃ t, exec (.drestart r) s = .next t ∧ CoresKept s t ∧ (t.die (mDie r)).st = 0 ∧ (t.die (mDie r)).up = some r
          ∧ DueLater t (.drestartGoesOn (mDie r)) ∧ ∀ d, d ≠ mDie r → t.die d = s.die d)))
  ∧ (∀ (s : State) (d : Nat) (r : MgmtReq), (s.die d).up = some r → s.hostWaits = [] →
    ((s.die d).st = 0 → ∃ t, runDue (.drestartGoesOn d) s = .next t ∧ CoresKept s t ∧ (t.die d).st = 1 ∧ (t.die d).up = some r
      ∧ DueLater t (.drestartGoesOn d))
    ∧ ((s.die d).st ≠ 0 → ∃ t, runDue (.drestartGoesOn d) s = .next t ∧ Reports t r 0 ∧ (t.die d).st = 2))
  ∧ (∀ (s : State) (r : MgmtReq), Performed 4 s r → (s.die (mDie r)).down = none → (s.die (mDie r)).up = none →
    ((s.die (mDie r)).st = 2 → ∃ t, exec (.ddown r) s = .next t ∧ Reports t r 22 ∧ CoresKept s t ∧ t.dies = s.dies)
    ∧ ((s.die (mDie r)).st = 0 → ∃ t, exec (.ddown r) s = .next t ∧ Reports t r 0 ∧ CoresKept s t ∧ t.dies = s.dies)
    ∧ ((s.die (mDie r)).st = 1 → ∃ t, exec (.ddown r) s = .next t ∧ CoresKept s t ∧ DueIn t 1 (.ddownProceed (mDie r))
      ∧ t.die (mDie r) = { s.die (mDie r) with down := some r }))
  ∧ (∀ (s : State) (d : Nat) (r : MgmtReq), (s.die d).down = some r →
    (s.pinsDie d = true → ∃ t, exec (.ddownProceed d) s = .next t ∧ { t with agenda := s.agenda } = s
      ∧ DueIn t 64 (.ddownProceed d))
    ∧ (s.pinsDie d = false → (s.die d).die = d → ∃ t, exec (.ddownProceed d) s = .next t ∧ CoresKept s t ∧ Reports t r 0
      ∧ (t.die d).st = 0 ∧ (t.die d).down = none))
  ∧ (∀ (s : State) (r : MgmtReq), mKind r = 5 → mHeaderBad r = false → bitsNat r 64 192 = 0 → 64 ≤ s.outstanding →
    ∃ t, exec (.pkreset r) s = .next t ∧ { t with errs := s.errs, errHead := s.errHead } = s ∧ t.errHead ≠ s.errHead)
  ∧ (∀ (i : Instr) (s : State), ResetRow s i → s.Inv →
    ∃ t, exec i s = .next t ∧ t.cores = [] ∧ t.reqs = [] ∧ t.objs = [] ∧ t.images = [] ∧ t.dies = [] ∧ t.patches = []
      ∧ t.slots = [] ∧ t.car = [] ∧ t.cycle = s.cycle ∧ DueLater t .resetRelease ∧ (∀ a, t.mreg a = regReset a)
      ∧ t.keys = s.keys.map (fun k => if k.key.isSome then { k with gen := k.gen + 1, key := none } else k) ∧ ∀ a, t.byte a = if a < 2 ^ 41 then 0 else s.byte a)
  ∧ ∀ (s : State), s.Inv → (s.measured.isSome = true → exec .resetRelease s = .next s) ∧ (s.measured = none →
    ∃ t, exec .resetRelease s = .next t ∧ t.cores = s.cores ∧ t.dies.map (·.die) = List.range 8
      ∧ (∀ d, d < 8 → (t.die d).st = if Config.stackTrains d then 1 else 0)
      ∧ (∀ a, t.byte a = if a < 2 ^ 41 then 0 else s.byte a) ∧ t.mreg 0x38 = BitVec.ofNat 64 harvest
      ∧ t.measured = some storeHash ∧ DueIn t 0 .sensorTest
      ∧ s.attIndex ≤ t.attIndex ∧ t.attIndex % 1024 = 0 ∧ t.attIndex < s.attIndex + 1024)

/-- Objects, ports, transfers, patches and shootdowns: what each performed request does, with its record; a patched partition's fetches
take its entries' words
(R298, R347, R352, R354, R360, R381, R422, R425, R426, R430).  The model's choices: the layout of a PATCH's image (log 24), the fields that
CREATE's record keeps (log 48), and the transfer of a region whose OWN is 3, with its log entry (log 49). -/
def Obligations.ObjectsAndTransfers : Prop :=
  (∀ (s : State) (r : MgmtReq), Performed 9 s r → r.getLsbD 88 = false →
    let i := bitsNat r 64 24
    let kind := bitsNat r 92 4
    let old : BitVec 512 := s.recordAt i
    s.inRange (mPart r) i = true → s.live (objHome i) = true → Served s r (s.objKey i) →
    (objKind (s.obj i) = 0 → objKind old = 0 → kind ∈ [1, 3, 4, 5, 6, 7] →
      ∃ t, exec (.create r) s = .next t ∧ Reports t r 0 ∧ CoresKept s t ∧ t.obj i = createdRecord old kind
        ∧ RecordsKept s t [i])
    ∧ ((objKind (s.obj i) ≠ 0 ∨ objKind old ≠ 0 ∨ kind ∉ [1, 3, 4, 5, 6, 7]) →
      ∃ t, exec (.create r) s = .next t ∧ Reports t r 22 ∧ CoresKept s t ∧ t.objs = s.objs ∧ t.mem = s.mem))
  ∧ (∀ (s : State) (r : MgmtReq), Performed 9 s r → r.getLsbD 88 = true →
    let i := bitsNat r 64 24
    s.inRange (mPart r) i = true → s.live (objHome i) = true →
    (bitsNat r 92 4 ∈ [1, 3, 4, 5, 6, 7] → objKind (s.obj i) = kWORK →
      ∃ t, exec (.create r) s = .next t ∧ Reports t r 0 ∧ CoresKept s t ∧ fld (t.obj i) 128 32 = 0 ∧ objState (t.obj i) = 1
        ∧ RecordsKept s t [i])
    ∧ ((bitsNat r 92 4 ∉ [1, 3, 4, 5, 6, 7] ∨ objKind (s.obj i) ≠ kWORK) →
      ∃ t, exec (.create r) s = .next t ∧ Reports t r 22 ∧ CoresKept s t ∧ t.objs = s.objs ∧ t.mem = s.mem))
  ∧ (∀ (s : State) (r : MgmtReq), Performed 10 s r →
    let p := mPart r
    let k := bitsNat r 64 7
    let pa := bitsNat r 128 52
    let u := s.rolledAt pa
    pa % 64 = 0 → s.absentPa pa = false → Served s r (s.domKey pa) →
    (u.pcbOk p (u.pcbAt p pa) = true → ∃ t x, exec (.portmap r) s = .next t ∧ Reports t r 0 ∧ CoresKept s t
      ∧ t.slot p k = some x ∧ x.pcb = pa ∧ x.next = (u.pcbAt p pa).extractLsb' 256 32 ∧ x.bell = none ∧ x.taken = []
      ∧ x.recorded = [] ∧ x.proc = fld (u.pcbAt p pa) 32 24 ∧ t.postedOf (.slot p k) = 0)
    ∧ (u.pcbOk p (u.pcbAt p pa) = false → ∃ t, exec (.portmap r) s = .next t ∧ Reports t r 22 ∧ CoresKept s t
      ∧ t.slots = u.slots))
  ∧ (∀ (s : State) (r : MgmtReq) (x : PortSlot), Performed 11 s r → s.slot (mPart r) (bitsNat r 64 7) = some x →
    ∃ t, exec (.portunmap r) s = .next t ∧ Reports t r 0 ∧ CoresKept s t
      ∧ (x.jstep = 0 → x.jv = false → t.mem = s.mem) ∧ t.slot (mPart r) (bitsNat r 64 7) = none)
  ∧ (∀ (s : State) (r : MgmtReq), Performed 13 s r →
    let key := if r.getLsbD 116 then hostBase + bitsNat r 64 52 else s.domKey (bitsNat r 64 52)
    bitsNat r 64 52 % 2 ^ 21 = 0 → ∀ q, s.regionOf key = some q → (∀ x ∈ s.xfers, ¬ (x.host = q.1 ∧ x.region = q.2)) →
    (s.owner key = 1 → s.Inv → s.confOf (s.regionByte q) = none → ∃ t, exec (.xferhost r) s = .next t ∧ CoresKept s t
      ∧ t.xfers = s.xfers ++ [{ host := q.1, region := q.2, toHost := true, req := some r }]
      ∧ regionAt t q = regionAt s q ||| 4 ∧ DueLater t (.regionTransferDone q.1 q.2))
    ∧ (s.owner key ≠ 1 → ∃ t, exec (.xferhost r) s = .next t ∧ Reports t r 0 ∧ CoresKept s t ∧ t.mem = s.mem
      ∧ t.xfers = s.xfers
      ∧ t.errHead = s.errHead + if rgnEn s = true ∧ (regionAt s q).toNat % 4 = 3 then 1 else 0))
  ∧ (∀ (s : State) (x : Xfer), s.Inv → s.xfers = [x] → x.acc = none → x.owed = false →
    s.confOf (s.regionByte (x.host, x.region)) = none →
    let left : List Xfer := if x.askers ≠ [] then [{ x with seq := none, owed := true }] else []
    (x.seq = none → ∃ t, exec (.regionTransferDone x.host x.region) s = .next t ∧ CachesOnly s t ∧ t.xfers = left
      ∧ regionAt t (x.host, x.region) = (regionAt s (x.host, x.region) &&& 0xF8) ||| (if x.toHost then 2 else 1)
      ∧ ∀ r, x.req = some r → Reports t r 0)
    ∧ ∀ (r : MgmtReq), Performed 12 s r → x.seq = some (r.extractLsb' 64 32) →
      ∃ t, exec (.xferdone r) s = .next t ∧ CachesOnly s t ∧ Reports t r 0 ∧ t.xfers = left
        ∧ regionAt t (x.host, x.region) = (regionAt s (x.host, x.region) &&& 0xF8) ||| (if x.toHost then 2 else 1))
  ∧ (∀ (s : State) (r : MgmtReq), Performed 6 s r →
    let i := s.patchImage (4096 * bitsNat r 64 20)
    (s.patchStatus i = 0 → ∃ t, exec (.patch r) s = .next t ∧ Reports t r 0 ∧ CoresKept s t
      ∧ t.patches = patchesBut s.patches i.pm ++ i.entries ∧ (∀ p ∈ patchesBut s.patches i.pm, p.pmask &&& i.pm = 0)
      ∧ (⟨i.pm, i.ver, i.hash⟩ : PatchSet) ∈ t.patchSets
      ∧ ∀ e ∈ i.entries, ∀ p, p < 16 → i.pm.getLsbD p = true → t.patternWord (some p) e.maddr.toNat = e.word)
    ∧ (s.patchStatus i ≠ 0 → ∃ t, exec (.patch r) s = .next t ∧ Reports t r (s.patchStatus i) ∧ CoresKept s t
      ∧ t.patches = s.patches ∧ t.patchSets = s.patchSets))
  ∧ ∀ (s : State) (r : MgmtReq), Performed 15 s r →
    ∃ t x, exec (.shootdown r) s = .next t ∧ t.shoots = s.shoots ++ [x] ∧ x.for_ = .request r ∧ t.mem = s.mem
      ∧ t.records = s.records ∧ x.proc = bitsNat r 64 24
      ∧ (∀ k ∈ t.cores, s.pcluHas (mPart r) k.id = true → (∀ e ∈ k.tlb, x.covers e = false) ∧ ∀ e ∈ k.rcache, e.proc ≠ x.proc)
      ∧ TlbsOnly s t

/-- PREEMPT begins a pre-emption of a LIVE context; with none of its teams resident it completes at its drain deadline's
check, and past DDL each resident team is to be swapped.  At the reset deadline the context is reset where a team is overdue
(without HOLD one that was there at the start and has not retired, with HOLD one still resident), and else the deadline is
watched no more; before it the check comes again at the deadline.  RESUME queues a FAULTED team again, and ends for a PROC none of
whose teams a HOLD pre-emption keeps out with STATUS 22 (the model's choice, log 29); CTXRESET makes the PROC
DYING; PRESET ends its runs, requests and launches (R302, R376, R377, R380, R382). -/
def Obligations.ContextsStopAndResume : Prop :=
  (∀ (s : State) (r : MgmtReq), Performed 7 s r →
    (s.liveProc (mPart r) (bitsNat r 64 24) = true → s.escalating (mPart r) (bitsNat r 64 24) = none →
      ∃ t x, exec (.preempt r) s = .next t ∧ CoresKept s t ∧ t.preempts = s.preempts ++ [x] ∧ x.proc = bitsNat r 64 24
        ∧ x.hold = r.getLsbD 88 ∧ x.ddl = bitsNat r 96 20 ∧ x.rdl = bitsNat r 128 24 ∧ x.t0 = s.wall ∧ x.done = false
        ∧ DueIn t 1 (.preemptDrainDeadline (mPart r) (bitsNat r 64 24))
        ∧ (x.rdl ≠ 0 → DueIn t (s.cyclesIn (micros x.rdl)) (.preemptResetDeadline (mPart r) (bitsNat r 64 24))))
    ∧ ((s.liveProc (mPart r) (bitsNat r 64 24) = false ∨ (s.escalating (mPart r) (bitsNat r 64 24)).isSome = true) →
      ∃ t, exec (.preempt r) s = .next t ∧ CoresKept s t ∧ Reports t r 22 ∧ t.preempts = s.preempts))
  ∧ (∀ (s : State) (x : Preempt), s.preempts = [x] → x.done = false →
    ((∀ k ∈ s.cores, ∀ q ∈ k.teams, q.proc ≠ x.proc) → (∀ i ∈ s.images, i.team.proc ≠ x.proc) →
      ∃ t, exec (.preemptDrainDeadline x.part x.proc) s = .next t ∧ CoresKept s t ∧ Reports t x.req 0
        ∧ ∀ y ∈ t.preempts, y.done = true)
    ∧ (∀ k q, s.cores = [k] → k.teams = [q] → q.proc = x.proc → q.leave = none → q.grid = 0 →
      x.t0 + micros x.ddl ≤ s.wall →
      ∃ t u, exec (.preemptDrainDeadline x.part x.proc) s = .next t ∧ t.cores = [u]
        ∧ u.teams = [{ q with leave := some (.swap .preempt) }] ∧ DueIn t 1 (.swapOut k.id q.oid)
        ∧ DueIn t 64 (.preemptDrainDeadline x.part x.proc) ∧ t.preempts = [{ x with forced := true }]))
  ∧ (∀ (s : State) (x : Preempt), s.preempts = [x] → x.rdl ≠ 0 →
    (s.wall < x.t0 + micros x.rdl → ∃ t, exec (.preemptResetDeadline x.part x.proc) s = .next t
      ∧ { t with agenda := s.agenda } = s
      ∧ DueIn t (s.cyclesIn (x.t0 + micros x.rdl - s.wall)) (.preemptResetDeadline x.part x.proc))
    ∧ (x.t0 + micros x.rdl ≤ s.wall → s.overdue x = false →
      ∃ t, exec (.preemptResetDeadline x.part x.proc) s = .next t ∧ { t with preempts := s.preempts } = s
        ∧ t.preempts = if x.done then [] else [{ x with rdl := 0 }])
    ∧ (x.t0 + micros x.rdl ≤ s.wall → s.overdue x = true → NothingToFeed s → (s.cores.map (·.id)).Nodup →
      (∀ k ∈ s.cores, ∀ q ∈ k.teams, s.coreOf q.oid = some k) →
      ∃ t, exec (.preemptResetDeadline x.part x.proc) s = .next t ∧ t.mgmt = s.mgmt ∧ t.cycle = s.cycle ∧ t.preempts = []
        ∧ (∀ k ∈ t.cores, ∀ q ∈ k.teams, q.proc ≠ x.proc) ∧ (∀ i ∈ t.images, i.team.proc ≠ x.proc)
        ∧ (∀ g ∈ t.grids, g.proc ≠ x.proc) ∧ (∀ g ∈ t.runs, g.proc ≠ x.proc) ∧ (x.done = false → Reports t x.req 0)))
  ∧ (∀ (s : State) (r : MgmtReq) (i : Image) (c : Nat), Performed 8 s r → r.getLsbD 88 = true →
    let oid := bitsNat r 64 24
    objKind (s.obj oid) = kTEAM → objState (s.obj oid) = 4 → objPart (s.obj oid) = mPart r → s.image oid = some i →
    fld (s.obj oid) 448 32 = 0 → s.live i.die = true → (s.die i.die).reset = none → s.queueFor i.team.part i.die = some c → s.queueRoom i.team.part i.die = true →
    ∃ t, exec (.resume r) s = .next t ∧ CoresKept s t ∧ Reports t r 0 ∧ objState (t.obj oid) = 1
      ∧ fld (t.obj oid) 72 8 = 0 ∧ (∃ e ∈ t.runq, e.oid = oid ∧ e.die = i.die ∧ e.cluster = c)
      ∧ DueIn t 1 (.teamAdmit ⟨i.die, c, 0⟩ oid))
  ∧ (∀ (s : State) (r : MgmtReq), Performed 8 s r → r.getLsbD 88 = false →
    (∀ i ∈ s.images, i.team.proc = bitsNat r 64 24 → i.held = false) →
    ∃ t, exec (.resume r) s = .next t ∧ CoresKept s t ∧ Reports t r 22 ∧ t.images = s.images ∧ t.runq = s.runq)
  ∧ (∀ (s : State) (r : MgmtReq), Performed 14 s r →
    let proc := bitsNat r 64 24
    (s.liveProc (mPart r) proc = true → (∀ k ∈ s.cores, ∀ q ∈ k.teams, q.proc ≠ proc) →
      (∀ i ∈ s.images, i.team.proc ≠ proc) → Roomy s →
      (∀ x ∈ s.runs, x.proc ≠ proc ∧ x.graph ≠ proc ∧ Cached s x.graph ∧ objOwner (s.obj x.graph) ≠ proc) →
      (∀ x ∈ s.slots, x.proc ≠ proc) →
      (∀ g ∈ s.grids, g.proc ≠ proc) → NothingToFeed s → objRefs (s.obj proc) ≠ 0 →
      ∃ t, exec (.ctxreset r) s = .next t ∧ CoresKept s t ∧ Reports t r 0 ∧ objState (t.obj proc) = 2
        ∧ (∀ x ∈ t.preempts, x.proc ≠ proc) ∧ RecordsKept s t [proc])
    ∧ (s.liveProc (mPart r) proc = false → ∃ t, exec (.ctxreset r) s = .next t ∧ CoresKept s t ∧ Reports t r 22
      ∧ t.objs = s.objs))
  ∧ ∀ (s : State) (r : MgmtReq), Performed 1 s r → (∀ k ∈ s.cores, ∀ q ∈ k.teams, q.part ≠ mPart r) →
    (∀ i ∈ s.images, i.team.part ≠ mPart r) → (∀ x ∈ s.slots, x.part ≠ mPart r) →
    ∃ t, exec (.preset r) s = .next t ∧ ReplayOnly s t ∧ Reports t r 0
      ∧ (∀ q ∈ t.reqs, q.part = mPart r → ∃ a b c, q.stage = .answered a b c)
      ∧ (∀ g ∈ t.grids, g.part ≠ mPart r) ∧ (∀ g ∈ t.runs, g.part ≠ mPart r) ∧ (∀ g ∈ t.catches, g.part ≠ mPart r)
      ∧ ∀ g ∈ t.preempts, g.part ≠ mPart r

/-- The named register writes: one that sets a reserved bit is not performed and logged with code 2, one that its rule
forbids with code 1; any other gives the register its value, and no other register, no core and no time changes. PGATE gates
clusters, PSCHED takes SWT, FLASK_CHANGE_DONE ends a change of FLCTL (R7, R279, R297, R318, R338, R357, R384, R385, R407,
R410, R417, R437, R438, R441).  The model's choices: the addresses and the code of a refused write (log 49), and that the bits of PGATE above
23, of NSCTL above 31 and bits 62:58 of a range register are reserved (log 77). -/
def Obligations.RegistersAreWritten : Prop :=
  (∀ (i : Instr) (off : Nat) (v rsv : DWord) (ok : State → Prop) (val : State → DWord), RegRow i off v rsv ok val →
    ∀ (s : State),
      (v &&& rsv ≠ 0 → ∃ t, exec i s = .next t ∧ Logged s t 2)
      ∧ (v &&& rsv = 0 → ¬ ok s → ∃ t, exec i s = .next t ∧ Logged s t 1)
      ∧ (v &&& rsv = 0 → ok s → ∃ t, exec i s = .next t ∧ t.cores = s.cores ∧ t.cycle = s.cycle ∧ t.mreg off = val s
        ∧ ∀ a, a ≠ off → t.mreg a = s.mreg a))
  ∧ (∀ (s : State) (d : Nat) (v : DWord), v &&& span 24 40 = 0 → d < 8 →
    ∃ t, exec (.pgateWrite d v) s = .next t ∧ t.mem = s.mem ∧ t.cycle = s.cycle
      ∧ t.mreg (dieBlock d + 0x38) = v &&& ~~~fusedBit d ∧ (∀ a, a ≠ dieBlock d + 0x38 → t.mreg a = s.mreg a)
      ∧ ∀ c oid q, c.die = d → v.getLsbD c.cluster = true → (s.mreg (dieBlock d + 0x38)).getLsbD c.cluster = false →
        (fusedBit d).getLsbD c.cluster = false → s.cores = [{ s.core c with teams := [q] }] → q.oid = oid → q.leave = none →
        q.grid = 0 → c.cluster < 24 →
        (t.core c).team oid = some { q with leave := some (.swap .requeue) } ∧ DueIn t 1 (.swapOut c oid))
  ∧ (∀ (s : State) (p : Nat) (v : DWord), p < 16 → v &&& (span 10 22 ||| span 36 28) = 0 →
    ∃ t, exec (.registerWrite (partBlock p) 8 v) s = .next t ∧ t.cores = s.cores
      ∧ (t.mreg (partBlock p)).extractLsb' 0 10 = v.extractLsb' 0 10
      ∧ (t.mreg (partBlock p)).extractLsb' 10 54 = (s.mreg (partBlock p)).extractLsb' 10 54
      ∧ ∀ a, a ≠ partBlock p → t.mreg a = s.mreg a)
  ∧ (∀ (s : State) (off bytes : Nat) (v : DWord), off < 0x1000000 → (bytes ≠ 8 ∨ off % 8 ≠ 0) →
    ∃ t, exec (.registerWrite off bytes v) s = .next t ∧ Logged s t 1)
  ∧ ∀ (s : State), (s.mreg 0x50).getLsbD 39 = true →
    ∃ t, exec .flaskChangeDone s = .next t ∧ t.cores = s.cores ∧ t.mem = s.mem ∧ (t.mreg 0x50).getLsbD 39 = false
      ∧ (t.mreg 0x50).extractLsb' 0 17 = (s.mreg 0x50).extractLsb' 0 17
      ∧ (t.mreg 0x10).extractLsb' 16 9 = (s.mreg 0x50).extractLsb' 0 9
      ∧ bitsNat (t.mreg 0x50) 32 7 ≤ 96 ∧ ((s.mreg 0x50).getLsbD 16 = false → bitsNat (t.mreg 0x50) 32 7 = 0)

/-- What reaches the package from outside: the PTP input steps the counter beyond 1 ms and slews it within; an unreachable
package's sends complete with UNAVAILABLE; records that were not counted when the link failed are written again; Pattern's
watchdog completes the requests in progress of its die, and of the partitions whose Sprue is there, with 20; a core whose sensors fail is withdrawn; keys are imported and destroyed;
attestation indices are used once; a host access to a region of the accelerator's waits for its transfer, and one to the
host's own memory is performed at once (log 85; R353, R406, R412,
R414, R415, R428, R434, R438, R440). -/
def Obligations.OutsideEventsAct : Prop :=
  (∀ (s : State) (sec ns : Nat), sec < 2 ^ 48 → ns < 1000000000 →
    let off : Int := ((sec * 1000000000 + ns : Nat) : Int) - (s.ptpNanos : Int)
    (1000000 < off.natAbs → ∃ t, exec (.ptpInput sec ns) s = .next t ∧ CoresKept s { t with mgmt := s.mgmt }
      ∧ t.ptpNanos = sec * 1000000000 + ns ∧ t.mreg 0x18 = 5)
    ∧ (off.natAbs ≤ 1000000 → ∃ t, exec (.ptpInput sec ns) s = .next t ∧ CoresKept s { t with mgmt := s.mgmt }
      ∧ t.ptpNanos = s.ptpNanos ∧ (t.mreg 0x18).getLsbD 0 = decide (off.natAbs ≤ 50)
      ∧ (t.mreg 0x18).getLsbD 2 = (s.mreg 0x18).getLsbD 2))
  ∧ (∀ (s : State), ∃ t, exec .ptpInputLoss s = .next t ∧ { t with mgmt := s.mgmt } = s ∧ (t.mreg 0x18).getLsbD 0 = false
      ∧ (t.mreg 0x18).getLsbD 1 = true)
  ∧ (∀ (s : State) (pkg : Nat), pkg ≠ 0 → pkg ≠ s.pkgId →
    ∃ t, exec (.remoteUnreachable pkg) s = .next t ∧ CoresKept s t ∧ pkg ∈ t.unreachable
      ∧ (∀ q h m i, s.req q.id = some q → q.ask = .ksend h m none → q.stage = .pending i →
        q.far.map (·.1) = some pkg → (∀ g ∈ s.grants, g.req ≠ q.id) → Answered t q.id 7 0 []))
  ∧ (∀ (s : State) (pkg : Nat), pkg ∈ s.unreachable →
    ∃ t, exec (.packageReachable pkg) s = .next t ∧ CoresKept s t ∧ pkg ∉ t.unreachable
      ∧ (∀ p, p ≠ pkg → (p ∈ t.unreachable ↔ p ∈ s.unreachable)) ∧ t.reqs = s.reqs ∧ t.hostWaits = s.hostWaits
      ∧ t.waiting = s.waiting ∧ t.agenda = s.agenda ∧ t.mem = s.mem ∧ t.objs = s.objs)
  ∧ (∀ (s : State), (∃ t, exec .linkFailure s = .next t ∧ { t with linkDown := s.linkDown } = s ∧ t.linkDown = true)
    ∧ ∃ t, exec .linkReturn s = .next t ∧ { t with linkDown := s.linkDown, records := s.records } = s ∧ t.linkDown = false
      ∧ t.records.map (fun r => (r.ring, r.bits)) = s.records.map (fun r => (r.ring, r.bits))
      ∧ ∀ r ∈ t.records, r.written = false)
  ∧ (∀ (s : State) (d : Nat) (r : MgmtReq), (∀ x ∈ s.restarts, x.1 ≠ d) →
    ((s.die d).reset = some r → (∀ x ∈ s.preempts, x.done = true ∨ s.sprue x.part ≠ some d) →
      ∃ t, exec (.patternWatchdog d) s = .next t ∧ CoresKept s t ∧ Reports t r 20 ∧ (t.die d).reset = none
        ∧ (d, s.wall) ∈ t.restarts ∧ ((∀ x ∈ s.slots, x.jv = false) → t.errHead = s.errHead + 1))
    ∧ (∀ x ∈ s.preempts, x.req = r → x.done = false → s.sprue x.part = some d →
      ∃ t, exec (.patternWatchdog d) s = .next t ∧ Reports t r 20 ∧ (∀ y ∈ t.preempts, y ∈ s.preempts ∧ (y.done = true ∨ s.sprue y.part ≠ some d))))
  ∧ (∀ (s : State) (c : CoreId), (s.core c).withdrawn = false → (s.core c).teams = [] →
    ∃ t, exec (.sensorSelftest [c]) s = .next t ∧ (t.core c).withdrawn = true ∧ t.mem = s.mem
      ∧ t.mreg (dieBlock c.die + 0x30) = s.mreg (dieBlock c.die + 0x30) + 1)
  ∧ (∀ (s : State) (k : Core), k ∈ s.cores → s.core k.id = k → k.retest = true →
    ∃ t, exec (.sensorSelftest []) s = .next t ∧ (t.core k.id).withdrawn = false ∧ (t.core k.id).teams = k.teams)
  ∧ (∀ (s : State) (p k : Nat) (g : BitVec 8) (blob : List Byte), s.freeKey = some (k, g) →
    ∃ t, exec (.keyImport p blob) s = .next t ∧ { t with keys := s.keys, mail := s.mail } = s
      ∧ t.keyOf (g ++ BitVec.ofNat 8 k) = some (Config.decapsulate blob, p)
      ∧ t.mail = s.mail ++ [[BitVec.ofNat 8 k, g]])
  ∧ (∀ (s : State) (h : BitVec 16) (mac : List Byte) (k : BitVec 512) (p : Nat), s.keyOf h = some (k, p) →
    (Config.destroyMacOk k mac = true → ∃ t, exec (.keyDestroy h mac) s = .next t ∧ { t with keys := s.keys } = s
      ∧ t.keyOf h = none)
    ∧ (Config.destroyMacOk k mac = false → exec (.keyDestroy h mac) s = .next s))
  ∧ (∀ (s : State) (p : Nat) (nonce : List Byte),
    (s.attIndex < 2 ^ 30 → ∃ t, exec (.attestationReport p nonce) s = .next t
      ∧ { t with attIndex := s.attIndex, mail := s.mail } = s ∧ t.attIndex = s.attIndex + 1)
    ∧ (2 ^ 30 ≤ s.attIndex → ∃ t, exec (.attestationReport p nonce) s = .next t ∧ { t with mail := s.mail } = s
      ∧ t.mail = s.mail ++ [[21]]))
  ∧ (∀ (s : State) (a : HostAccess), s.Inv → a.own = true →
    (a.write = none → exec (.hostMemoryAccess a) s = .next s)
    ∧ ∀ bs, a.write = some bs → bs.length = a.bytes → ∃ t, exec (.hostMemoryAccess a) s = .next t ∧ { t with mem := s.mem } = s
      ∧ (∀ k < a.bytes, t.byte (hostBase + a.addr + k) = bs.getD k 0)
      ∧ ∀ n, (n < hostBase + a.addr ∨ hostBase + a.addr + a.bytes ≤ n) → t.byte n = s.byte n)
  ∧ ∀ (s : State) (a : HostAccess), s.Inv → a.own = false → a.addr < 2 ^ 41 → s.absentPa a.addr = false →
    s.downKey (s.domKey a.addr) = false → s.xfers = [] →
    (s.owner (s.domKey a.addr) ≠ 1 → ∀ bs, a.write = some bs → (∀ k < a.bytes, s.confOf (s.domKey a.addr + k) = none) →
      bs.length = a.bytes → ∃ t, exec (.hostMemoryAccess a) s = .next t ∧ CoresKept s t
        ∧ (∀ k < a.bytes, t.byte (s.domKey a.addr + k) = bs.getD k 0)
        ∧ ∀ n, (n < s.domKey a.addr ∨ s.domKey a.addr + a.bytes ≤ n) → t.byte n = s.byte n)
    ∧ (s.owner (s.domKey a.addr) ≠ 1 → a.write = none → ∃ t, exec (.hostMemoryAccess a) s = .next t
      ∧ { t with errs := s.errs, errHead := s.errHead } = s
      ∧ ∀ q, s.regionOf (s.domKey a.addr) = some q →
        t.errHead = s.errHead + if rgnEn s = true ∧ (regionAt s q).toNat % 4 = 3 then 1 else 0)
    ∧ ∀ q, s.regionOf (s.domKey a.addr) = some q → s.owner (s.domKey a.addr) = 1 → s.confOf (s.regionByte q) = none →
      ∃ t, exec (.hostMemoryAccess a) s = .next t ∧ CoresKept s t
        ∧ t.xfers = [{ host := q.1, region := q.2, toHost := true, acc := some a }]
        ∧ regionAt t q = regionAt s q ||| 4 ∧ DueLater t (.regionTransferDone q.1 q.2)

/-! The machine as a whole (spec/02, 03, 04, 05, 08, 10, 14). -/

/-- Right after reset the memories list nothing and are canonical, no core, team, object or request is there, every
management register stands at its reset value (zero, but for the fields whose Reset column says otherwise), and nothing is due
but the bring-up (R7, R424; the values that the spec does not give are the model's: zero, log 1).

A team starts with the state of R143 and R147: every thread at its role's entry label, registers zero but for p31 and what
the launch loads, trap records, counters, tags and barriers as listed. -/
def Obligations.ResetAndStartStates : Prop :=
  (State.reset.Inv ∧ State.reset.mem = [] ∧ State.reset.bar2 = [] ∧ State.reset.staging = [] ∧ State.reset.cores = [] ∧ State.reset.objs = []
    ∧ State.reset.reqs = [] ∧ (∀ a, State.reset.mreg a = regReset a) ∧ State.reset.agenda = [(0, .resetRelease)]
    ∧ State.reset.inputs = [] ∧ State.reset.cycle = 0
    ∧ (∀ p, p < 16 → bitsNat (State.reset.mreg (partBlock p + 0x8)) 0 5 = 8
        ∧ bitsNat (State.reset.mreg (partBlock p + 0x10)) 40 4 = 6 ∧ bitsNat (State.reset.mreg (partBlock p)) 0 10 = 20))
  ∧ ∀ (oid part proc x y z grid : Nat) (d : Rec256) (pb : WAddr) (args : List Word) (bufs : List BufRec),
    let q := freshTeam oid part proc d pb x y z args bufs grid
    (descFault d = none → q.waves.length = bitsNat d 0 4 + 1) ∧ q.tags = 0 ∧ q.busy = 0 ∧ q.copies = [] ∧ q.leave = none
      ∧ (∀ n, n < 16 → q.bar n = { e := bitsNat d 0 4 + 1, arr := 0, p := false, pend := 0 })
      ∧ ∀ (i : Nat) (v : Wave), q.waves[i]? = some v → v.wid = i ∧ v.ops = [] ∧ v.ended = false
        ∧ (∀ n, n < 64 → v.sreg n = args.getD n 0) ∧ (∀ n, n < 16 → v.breg n = bufs.getD n 0)
        ∧ v.budget = 16 * 2 ^ bitsNat (descRole d v.role) 4 2
        ∧ ∀ a, a < 32 → (v.thread a).cb = pb + (descEntry d v.role).setWidth 48
          ∧ (v.thread a).pc = pb + (descEntry d v.role).setWidth 48 + 1 ∧ (v.thread a).rcd = 0
          ∧ (v.thread a).life = .eligible ∧ (∀ n, (v.thread a).reg n = 0) ∧ ∀ n, n < 32 → (v.thread a).pred n = (n == 31)

/-- Every step of every state with canonical memories answers a next state with canonical memories: no instruction and no
event faults or is refused, and equal memories stay equal data. -/
def Obligations.StepKeepsInvariant : Prop := ∀ (s : State), s.Inv → ∃ t, step s = .next t ∧ t.Inv

/-- A well-formed instruction's word decodes to the instruction, with whatever follows it left over, in its own class; and a
word that decodes is the one word of its instruction, which is well-formed (R33, R39 to R53). -/
def Obligations.WordsRoundTrip : Prop :=
  (∀ (i : Instr) (e : Enc), encode i = some e → i.WellFormed →
    decodeWord e.cls e.word = .ok i ∧ ∀ rest, decodeBytes e.cls (bytesOfWord e.word ++ rest) = .ok (i, rest))
  ∧ ∀ (c : Nat) (w : DWord) (i : Instr), decodeWord c w = .ok i → i.WellFormed ∧ encode i = some ⟨c, w⟩

/-- A step runs what it finds: of the events that are due the earliest, one of the machine's own before an outside one of
the same cycle; then the instruction that the focused
agent's next word encodes in the class of its clause; a run that stands before a header enters it; a word that is no
instruction of its class is ILLEGAL_OP for every thread of the run, or MSTREAM for a stream, behind an earlier word that is still in
its engine (R26, R31, R33 to R36, R236, R246).  The model's choices: which agent is in focus (log 2), and the class of the clause of
the run's lowest thread (log 67). -/
def Obligations.StepRunsDecoded : Prop :=
  (∀ (s : State) (e : Nat × Due) (i : Instr), earliest s.cycle s.agenda = some e → DueRow e.2 i →
    (∀ o, earliest s.cycle s.inputs = some o → e.1 ≤ o.1) → step s = exec i { s with agenda := s.agenda.erase e })
  ∧ (∀ (s : State) (e : Nat × Instr), earliest s.cycle s.inputs = some e →
    (∀ o, earliest s.cycle s.agenda = some o → e.1 < o.1) → step s = exec e.2 { s with inputs := s.inputs.erase e })
  ∧ (∀ (s : State) (w : WaveId) (x : Ctx), NothingDue s → s.focus = .wave w → s.ctxAt w = some x →
    (∀ a, a < 32 → (x.thread a).mtraps = []) →
    ((∃ a ∈ x.run, (x.thread a).mark = true) → step s = exec (.clauseEntry w) s)
    ∧ ((∀ a ∈ x.run, (x.thread a).mark = false ∧ (x.thread a).deny = none) →
      let cls := (Header.ofWord (x.thread (x.run.headD 0)).hdr).cls.toNat
      (∀ (y : Ctx) (word : DWord) (i : Instr), x.fetch x.pc = (y, .word word) → decodeWord cls word = .ok i →
        step s = exec i y.state)
      ∧ ∀ (word : DWord) (r : Reject), WordAt x x.pc word → decodeWord cls word = .error r →
        x.room (x.rcdKeys x.run) = true →
        ∃ t, step s = .next t ∧ s.Delivered t x [] 0 x.run (fun _ => ⟨1, 0, word.extractLsb' 32 32⟩) 1))
  ∧ ∀ (s : State) (c : CoreId) (oid : Nat) (q : Team) (word : DWord), NothingDue s → s.focus = .seq c oid →
    (s.core c).team oid = some q → q.seq.word = some word →
    (∀ i, decodeWord 4 word = .ok i → step s = exec i s)
    ∧ (∀ r, decodeWord 4 word = .error r → q.seq.busy = true → ∃ t, step s = .next t ∧ { t with cycle := s.cycle } = s
      ∧ t.cycle = s.cycle + 1)
    ∧ ∀ r w k, decodeWord 4 word = .error r → q.seq.busy = false → q.recorder = some (w, k) →
      ∃ t, step s = .next t ∧ (t.core c).team oid = some
        ({ q with seq := { q.seq with run := false, word := none, stall := none } }.modWave w
          (·.modThread k fun h => { h with mtraps := h.mtraps ++ [(wordVa q.seq.spc, word.extractLsb' 32 32)] }))
        ∧ DueIn t 1 (.mstreamTrapTake c oid)

/-- The worked words of the spec, in the class of their clause, decode to the instructions they stand for; an OP that a class
does not assign, a field that must be 0 and a clause class without instructions are refused by name (R35, R50 to R53, R98,
R161, R179, R203, R264, R304). -/
def Obligations.WorkedWordsDecode : Prop :=
  decodeWord 2 0x01F8_4044_0000_0040 = .ok (.stb ⟨.always, 4, 1, 1, false, false, 0, 0, 0, 4, 0⟩)
  ∧ decodeWord 2 0x02F8_214C_0000_8B20 = .ok (.atb ⟨.always, 2, 5, 3, false, false, 8, 5, 2, 2, 0⟩)
  ∧ decodeWord 3 0x0CF8_0000_0000_4001 = .ok (.barinit ⟨.always, 0, 0, 0, 0, 0, 0, false, true, 1⟩)
  ∧ decodeWord 3 0x0EF8_0200_0000_4000 = .ok (.barx ⟨.always, 0, 8, 0, 0, 0, 0, false, true, 0⟩)
  ∧ decodeWord 3 0x0FF8_0000_0001_4000 = .ok (.barw ⟨.always, 0, 0, 0, 0, 0, 1, false, true, 0⟩)
  ∧ decodeWord 3 0x08F8_0000_3F03_FFFF = .ok (.wait ⟨.always, 0, 0, false, false, 0, 0x3F03FFFF⟩)
  ∧ decodeWord 3 0x0BF8_0000_0000_0015 = .ok (.fence ⟨.always, 0, 0, 0, 0, 0, 0, false, false, 0x15⟩)
  ∧ decodeWord 5 0x0BF8_0100_0100_0000 = .ok (.migr ⟨.always, 0, 4, 0, 0, false, true, false, false, 0, 0, false, 0, 0, 0⟩)
  ∧ decodeWord 6 0x01F8_A108_1800_0001 = .ok (.ksend ⟨.always, 10, 4, 8, 6, 0, 1⟩)
  ∧ decodeWord 6 0x03F8_C149_0000_0000 = .ok (.kwait ⟨.always, 12, 5, 9, 0, 0, 0⟩)
  ∧ decodeWord 6 0x0CF8_E140_0000_0003 = .ok (.kinfo ⟨.always, 14, 5, 0, 0, 0, 3⟩)
  ∧ Header.ofWord 0xA20F_FFFF_FFE0_0000 = { Header.plain 2 with yld := true }
  ∧ (decodeWord 3 0xFFF8_0000_0000_0000 = .error .hole ∧ decodeWord 3 0x0CF8_0000_0000_4000 = .error .illegalField
    ∧ decodeWord 3 0x0CF8_0000_0000_C001 = .error .illegalField ∧ decodeWord 3 0x09F8_0040_0000_0000 = .error .illegalField
    ∧ decodeWord 3 0x0BF8_0000_0000_0005 = .error .illegalField)
  ∧ ∀ (w : DWord) (c : Nat), 8 ≤ c → decodeWord c w = .error .noClass

/-- FSH delivers bits 63:32 of A:B shifted left by c mod 32, and FSH.R bits 31:0 of A:B shifted right by it, to each active
thread, or once to an s register (R89). -/
def Obligations.FunnelsShift : Prop :=
  ∀ (f : RForm) (s : State) (x : Ctx) (act : List Nat), (Instr.fsh f).WellFormed →
    s.Issues (issueOfR Spec.fsh f 1) x act → (rowR Spec.fsh f 1 (fshRes (hasBit f.sub 0))).Fits x act →
    ∃ t, exec (.fsh f) s = .next t ∧ ∀ a ∈ act,
      let ab := (x.rd a f.a f.ak false).toNat * 2 ^ 32 + (x.rd a f.b f.bk false).toNat
      let n := (x.rd a f.c f.ck false).toNat % 32
      (if f.dk then t.sreg x.w f.d.toNat else t.vreg x.w a f.d.toNat)
        = BitVec.ofNat 32 (if f.sub = 0 then ab * 2 ^ n / 2 ^ 32 else ab / 2 ^ n)

/-- The four events of a numbered barrier, and its phase check (R177), in terms of its count of arrivals, phase and pending bytes: an arrival counts
up to 31 and adds its bytes, a landing takes its bytes away, BARINIT keeps the phase, and a phase completes exactly when E
arrivals are there and no byte is pending.  BARA and MBARA arrive with no bytes (R178, R245), BARX with its word, BARINIT sets E,
and no other barrier moves; a team starts with E = NW + 1 and nothing else (R147). -/
def Obligations.BarriersCount : Prop :=
  (∀ (b : Bar) (n : Nat),
    let pend := (b.pend.toNat + n) % 2 ^ 48
    let arr := min (b.arr + 1) 31
    let r := b.arrive n
    r.e = b.e ∧ r.pend.toNat = pend ∧ (b.e ≤ arr ∧ pend = 0 → r.p = !b.p ∧ r.arr = 0)
      ∧ (¬ (b.e ≤ arr ∧ pend = 0) → r.p = b.p ∧ r.arr = arr))
  ∧ (∀ (b : Bar) (n : Nat),
    let pend := ((b.pend.toNat : Int) - n) % 2 ^ 48
    let r := b.land n
    r.e = b.e ∧ (r.pend.toNat : Int) = pend ∧ (b.e ≤ b.arr ∧ pend = 0 → r.p = !b.p ∧ r.arr = 0)
      ∧ (¬ (b.e ≤ b.arr ∧ pend = 0) → r.p = b.p ∧ r.arr = b.arr))
  ∧ (∀ (b : Bar) (n : Nat), b.init n = { e := n, arr := 0, p := b.p, pend := 0 })
  ∧ (∀ (oid part proc x y z grid n : Nat) (d : Rec256) (pb : WAddr) (args : List Word) (bufs : List BufRec), n < 16 →
    (freshTeam oid part proc d pb x y z args bufs grid).bar n = { e := bitsNat d 0 4 + 1, arr := 0, p := false, pend := 0 })
  ∧ (∀ (f : MSForm) (s : State) (x : SeqCtx), s.seqCtx = some x → x.team.seq.busy = false →
    let b := (f.imm.extractLsb' 0 4).toNat
    ∃ t, exec (.mbara f) s = .next t ∧ ((t.core x.c).team x.team.oid).map (·.bar b) = some ((x.team.bar b).arrive 0)
      ∧ ∀ k, k < 16 → k ≠ b → ((t.core x.c).team x.team.oid).map (·.bar k) = some (x.team.bar k))
  ∧ (∀ (f : XForm) (s : State) (x : Ctx) (act : List Nat) (n : Nat) (i : Instr) (iss : Issue),
    ((i = .bara f ∧ n = 0 ∧ iss = { g := f.g, uniform := true })
      ∨ (i = .barx f ∧ n = (x.sword f.a).toNat ∧ iss = { g := f.g, uniform := true, reads := regsOf f.a true false })) →
    s.Issues iss x act → x.wave.acquiring = false → x.spadOpen = false → x.relWaits false = false →
    ∃ t, exec i s = .next t ∧ (t.teamOf x.w).map (·.bar f.bar.toNat) = some ((x.team.bar f.bar.toNat).arrive n)
      ∧ ∀ k, k < 16 → k ≠ f.bar.toNat → (t.teamOf x.w).map (·.bar k) = some (x.team.bar k))
  ∧ ∀ (f : XForm) (s : State) (x : Ctx) (act : List Nat), s.Issues { g := f.g, uniform := true } x act →
    x.wave.acquiring = false → x.spadOpen = false → x.relWaits false = false →
    ∃ t, exec (.barinit f) s = .next t
      ∧ (t.teamOf x.w).map (·.bar f.bar.toNat) = some ((x.team.bar f.bar.toNat).init (f.mod.extractLsb' 0 5).toNat)
      ∧ ∀ k, k < 16 → k ≠ f.bar.toNat → (t.teamOf x.w).map (·.bar k) = some (x.team.bar k)

/-- Taking a trap (R29, R30): the record holds the code, the trapping word and its clause, ADDR and AUX, with HND set, and the
thread enters the team's trap vector; where the team has none it is parked and the team takes a fault with the code (R149); a
second trap under HND leaves the record as it was, parks the thread, and the team's fault has the second code.

A team that faults so stops and is to be swapped out (R150); one that does not, stays. -/
def Obligations.TrapsAreTaken : Prop :=
  (∀ (q : Team) (tr : Trap) (pc cb : WAddr) (h : Thread), tr.code < 256 →
    let r := h.take q tr pc cb
    (h.hnd = false → r.1.code = tr.code ∧ r.1.hnd = true ∧ r.1.xpc = pc ∧ r.1.xcb = cb ∧ r.1.xaddr = tr.addr ∧ r.1.xaux = tr.aux
      ∧ r.1.rcd.extractLsb' 9 7 = 0 ∧ r.1.rcd.extractLsb' 112 16 = 0 ∧ r.1.rcd.extractLsb' 185 7 = 0
      ∧ r.1.rcd.extractLsb' 224 32 = 0 ∧ r.1.v = h.v ∧ r.1.p = h.p
      ∧ (q.tve = true → r.1.cb = q.tvec ∧ r.1.pc = q.tvec + 1 ∧ r.1.life = h.life ∧ r.2 = none)
      ∧ (q.tve = false → r.1.life = .parked ∧ r.1.pc = h.pc ∧ r.2 = some tr.code))
    ∧ (h.hnd = true → r.1.rcd = h.rcd ∧ r.1.life = .parked ∧ r.1.pc = h.pc ∧ r.1.v = h.v ∧ r.1.p = h.p
      ∧ r.2 = some tr.code))
  ∧ ∀ (f : IForm) (s : State) (x : Ctx) (act : List Nat), s.Issues { g := f.g, uniform := true } x act →
    x.team.leave = none → x.room (x.rcdKeys act) = true →
    ∃ t, exec (.trap f) s = .next t ∧
      if x.team.tve = true ∧ ∀ a ∈ act, (x.thread a).hnd = false then (t.teamOf x.w).map (·.leave) = some none
      else (t.teamOf x.w).map (·.leave) = some (some (.fault 13))
        ∧ (s.cycle + 1, Due.swapOut x.w.core x.w.team) ∈ t.agenda

/-- What an exact integer delivers (R59, R80), in every type: without SAT the value of the type congruent to it modulo 2^w,
with SAT the nearest value of the type, and a narrow one extended into 32 bits.  What the shifts and the rotation make of the
w-bit pattern of A (R88).

IADDC delivers a + b + carry modulo 2^32, and its carry-out (R84); a uniform one reads the predicate of the
first active thread and writes every active thread's (log 30).

A finite value of a floating format that is representable rounds to itself in every mode, with no flag (R60, R63). -/
def Obligations.ValuesDeliver : Prop :=
  (∀ (ty : BitVec 4), ty.toNat ∈ tyInts →
    let w := tyWidth ty
    let lo : Int := if tySigned ty then -(2 ^ (w - 1)) else 0
    let hi : Int := if tySigned ty then 2 ^ (w - 1) - 1 else 2 ^ w - 1
    (∀ x : Int, (rdInt ty (deliver ty false x) - x) % 2 ^ w = 0
      ∧ lo ≤ rdInt ty (deliver ty false x) ∧ rdInt ty (deliver ty false x) ≤ hi
      ∧ rdInt ty (deliver ty true x) = max lo (min hi x))
    ∧ (∀ (x : Int) (sat : Bool), w < 64 → deliver ty sat x = (BitVec.ofInt 32 (rdInt ty (deliver ty sat x))).setWidth 64)
    ∧ ∀ o : Src,
      let n := o.b.toNat % 256
      pat ty (shlRes ty o).d = (if w ≤ n then 0 else pat ty o.a * 2 ^ n % 2 ^ w)
      ∧ pat ty (shrRes ty o).d = pat ty o.a / 2 ^ n
      ∧ intOf w true (sarRes ty o).d = intOf w true o.a / 2 ^ n
      ∧ pat ty (rolRes ty o).d = pat ty o.a * 2 ^ (n % w) % 2 ^ w + pat ty o.a / 2 ^ (w - n % w))
  ∧ (∀ (f : RForm) (s : State) (x : Ctx) (act : List Nat), (Instr.iaddc f).WellFormed →
    s.Issues (issueOfR Spec.iaddc f 1) x act →
    (rowR Spec.iaddc f 1 (addcRes (hasBit f.sub 0) (f.c.toNat % 32))).Fits x act →
    ∃ t, exec (.iaddc f) s = .next t ∧ ∀ a ∈ act,
      let b := if f.dk then act.headD 0 else a
      let sum := (x.rd b f.a f.ak false).toNat + (x.rd b f.b f.bk false).toNat
        + (if f.sub = 0 ∧ (x.thread b).pred f.ps.toNat = true then 1 else 0)
      (if f.dk then t.sreg x.w f.d.toNat else t.vreg x.w a f.d.toNat) = BitVec.ofNat 32 sum
        ∧ t.preg x.w a f.c.toNat = (f.c == 31 || decide (2 ^ 32 ≤ sum)))
  ∧ ∀ (q : Fmt) (x rm m : Nat) (neg : Bool) (e : Int), q ∈ [f32, f16, bf16, e4m3, e5m2] → x < 2 ^ q.width → rm < 4 →
    q.decode x = .num neg m e → q.round rm false false (.num neg m e) = (x, 0) ∧ q.round rm true false (.num neg m e) = (x, 0)
end

