-- ==== Sys2Proof/Laws/Memory.lean ====
section
/-! SUPPORT. Lists of registers and memory: read after write, writes elsewhere, and the canonical form kept. -/

namespace Sys2Proof.Machine

/-! Register files. -/

theorem getD_setAt {α : Type} (d x : α) (n m : Nat) (l : List α) :
    (setAt d n x l).getD m d = if m = n then x else l.getD m d := by
  induction n generalizing l m with
  | zero => cases l <;> cases m <;> simp [setAt]
  | succ n ih =>
    cases l with
    | nil =>
      cases m with
      | zero => simp [setAt]
      | succ m => simpa [setAt] using ih m []
    | cons y ys =>
      cases m with
      | zero => simp [setAt]
      | succ m => simpa [setAt] using ih m ys

/-- A register reads as the last value written to it, and a write changes no other register. -/
theorem getD_putAt {α : Type} (size : Nat) (d x : α) (n m : Nat) (l : List α) :
    (putAt size d n x l).getD m d = if m = n ∧ n < size then x else l.getD m d := by
  unfold putAt
  split
  · rename_i h
    simp only [getD_setAt, h, and_true]
  · rename_i h
    simp only [h, and_false, if_false]

/-! Memory. -/

theorem memSorted_cons {lo k : Nat} {x : Byte} {r : List Host.Cell} :
    memSorted lo ((k, x) :: r) = true ↔ lo ≤ k ∧ x ≠ 0 ∧ memSorted (k + 1) r = true := by
  simp only [memSorted, Bool.and_eq_true, decide_eq_true_eq, bne_iff_ne, ne_eq, and_assoc]

theorem memSorted_mono {lo lo' : Nat} {m : List Host.Cell} (h : memSorted lo m = true) (hl : lo' ≤ lo) :
    memSorted lo' m = true := by
  cases m with
  | nil => rfl
  | cons c r => exact memSorted_cons.mpr ⟨Nat.le_trans hl (memSorted_cons.mp h).1, (memSorted_cons.mp h).2⟩

/-- Below its least address a memory reads as zero. -/
theorem memRead_below {lo a : Nat} {m : List Host.Cell} (h : memSorted lo m = true) (ha : a < lo) : memRead m a = 0 := by
  cases m with
  | nil => rfl
  | cons c r =>
    have := (memSorted_cons.mp h).1
    simp only [memRead, show a < c.1 by omega, if_true]

/-- A write keeps the canonical form. -/
theorem memWrite_sorted {lo a : Nat} {b : Byte} {m : List Host.Cell} (h : memSorted lo m = true) (ha : lo ≤ a) :
    memSorted lo (memWrite m a b) = true := by
  induction m generalizing lo with
  | nil =>
    simp only [memWrite]
    split
    · rfl
    · rename_i hb
      exact memSorted_cons.mpr ⟨ha, hb, rfl⟩
  | cons c r ih =>
    obtain ⟨k, x⟩ := c
    obtain ⟨hk, hx, hr⟩ := memSorted_cons.mp h
    simp only [memWrite]
    split
    · split
      · exact h
      · rename_i h1 h2
        exact memSorted_cons.mpr ⟨ha, h2, memSorted_cons.mpr ⟨by omega, hx, hr⟩⟩
    · split
      · rename_i h1 h2
        split
        · exact memSorted_mono hr (by omega)
        · rename_i hb
          exact memSorted_cons.mpr ⟨ha, hb, h2 ▸ hr⟩
      · exact memSorted_cons.mpr ⟨hk, hx, ih hr (by omega)⟩

@[simp] theorem memWrite_wf {a : Nat} {b : Byte} {m : List Host.Cell} (h : Memory.wf m = true) :
    Memory.wf (memWrite m a b) = true := memWrite_sorted h (Nat.zero_le a)

/-- Several writes keep the canonical form. -/
@[simp] theorem memWrites_wf {cs m : List Host.Cell} (h : Memory.wf m = true) : Memory.wf (memWrites m cs) = true := by
  induction cs generalizing m with
  | nil => exact h
  | cons c r ih => exact ih (memWrite_wf h)

/-- Forgetting some bytes keeps the canonical form. -/
theorem filter_sorted {lo : Nat} {p : Host.Cell → Bool} {m : List Host.Cell} (h : memSorted lo m = true) :
    memSorted lo (m.filter p) = true := by
  induction m generalizing lo with
  | nil => rfl
  | cons c r ih =>
    obtain ⟨k, x⟩ := c
    obtain ⟨hk, hx, hr⟩ := memSorted_cons.mp h
    rw [List.filter_cons]
    split
    · exact memSorted_cons.mpr ⟨hk, hx, ih hr⟩
    · exact memSorted_mono (ih hr) (by omega)

@[simp] theorem filter_wf {p : Host.Cell → Bool} {m : List Host.Cell} (h : Memory.wf m = true) :
    Memory.wf (m.filter p) = true := filter_sorted h

/-- A byte reads as it was last written, and a write changes no other byte. -/
theorem memRead_memWrite_sorted {lo a : Nat} {b : Byte} {m : List Host.Cell} (h : memSorted lo m = true) (c : Nat) :
    memRead (memWrite m a b) c = if c = a then b else memRead m c := by
  induction m generalizing lo with
  | nil =>
    by_cases hb : b = 0
    · simp only [memWrite, hb, if_true, memRead, ite_self]
    · simp only [memWrite, hb, if_false, memRead]
      by_cases h1 : c < a
      · simp only [h1, if_true, show ¬ c = a by omega, if_false]
      · simp only [h1, if_false]
  | cons q r ih =>
    obtain ⟨k, x⟩ := q
    obtain ⟨hk, hx, hr⟩ := memSorted_cons.mp h
    simp only [memWrite]
    by_cases h1 : a < k
    · simp only [h1, if_true]
      by_cases hb : b = 0
      · simp only [hb, if_true]
        by_cases h3 : c = a
        · simp only [h3, memRead, h1, if_true]
        · simp only [h3, if_false]
      · simp only [hb, if_false]
        by_cases h3 : c = a
        · simp only [memRead, h3, Nat.lt_irrefl, if_true, if_false]
        · by_cases h4 : c < a
          · simp only [memRead, h4, h3, if_true, if_false, show c < k by omega]
          · simp only [memRead, h4, h3, if_false]
    · simp only [h1, if_false]
      by_cases h2 : a = k
      · simp only [h2, if_true]
        by_cases hb : b = 0
        · simp only [hb, if_true]
          by_cases h3 : c = k
          · simp only [h3, if_true, memRead_below hr (show k < k + 1 by omega)]
          · simp only [h3, if_false, memRead]
            by_cases h4 : c < k
            · simp only [h4, if_true, memRead_below hr (show c < k + 1 by omega)]
            · simp only [h4, if_false]
        · simp only [hb, if_false, memRead]
          by_cases h3 : c = k
          · simp only [h3, Nat.lt_irrefl, if_true, if_false]
          · simp only [h3, if_false]
      · simp only [h2, if_false, memRead, ih hr]
        by_cases h3 : c = a
        · simp only [h3, h1, h2, if_true, if_false]
        · simp only [h3, if_false]

theorem memRead_memWrite {a : Nat} {b : Byte} {m : List Host.Cell} (h : Memory.wf m = true) (c : Nat) :
    memRead (memWrite m a b) c = if c = a then b else memRead m c := memRead_memWrite_sorted h c

/-- A byte outside the cells that are written reads as before. -/
theorem memRead_memWrites {cs m : List Host.Cell} (h : Memory.wf m = true) {c : Nat} (hc : ∀ q ∈ cs, q.1 ≠ c) :
    memRead (memWrites m cs) c = memRead m c := by
  induction cs generalizing m with
  | nil => rfl
  | cons q r ih =>
    simp only [memWrites]
    rw [ih (memWrite_wf h) (fun q hq => hc q (by simp [hq])), memRead_memWrite h]
    simp [Ne.symm (hc q (by simp))]

/-- A byte that is written once reads as written. -/
theorem memRead_memWrites_mem {cs m : List Host.Cell} (h : Memory.wf m = true) {c : Nat} {b : Byte} (hc : (c, b) ∈ cs)
    (hn : (cs.map (·.1)).Nodup) : memRead (memWrites m cs) c = b := by
  induction cs generalizing m with
  | nil => simp at hc
  | cons q r ih =>
    simp only [List.map_cons, List.nodup_cons] at hn
    simp only [memWrites]
    rcases List.mem_cons.mp hc with e | hr
    · subst e
      rw [memRead_memWrites (memWrite_wf h), memRead_memWrite h]
      · simp
      · intro q hq e
        exact hn.1 (List.mem_map.mpr ⟨q, hq, e⟩)
    · exact ih (memWrite_wf h) hr hn.2

/-- Equal memories are equal data: two canonical memories that read alike are the same list. -/
theorem memory_ext {lo : Nat} {m n : List Host.Cell} (hm : memSorted lo m = true) (hn : memSorted lo n = true)
    (h : ∀ a, memRead m a = memRead n a) : m = n := by
  induction m generalizing lo n with
  | nil =>
    cases n with
    | nil => rfl
    | cons c r =>
      obtain ⟨j, y⟩ := c
      have e := h j
      simp only [memRead, Nat.lt_irrefl, if_true, if_false] at e
      exact absurd e.symm (memSorted_cons.mp hn).2.1
  | cons c r ih =>
    obtain ⟨k, x⟩ := c
    obtain ⟨hk, hx, hr⟩ := memSorted_cons.mp hm
    cases n with
    | nil =>
      have e := h k
      simp only [memRead, Nat.lt_irrefl, if_true, if_false] at e
      exact absurd e hx
    | cons d q =>
      obtain ⟨j, y⟩ := d
      obtain ⟨hj, hy, hq⟩ := memSorted_cons.mp hn
      have hkj : k = j := by
        rcases Nat.lt_trichotomy k j with g | g | g
        · have e := h k
          simp only [memRead, Nat.lt_irrefl, g, if_true, if_false] at e
          exact absurd e hx
        · exact g
        · have e := h j
          simp only [memRead, Nat.lt_irrefl, g, if_true, if_false] at e
          exact absurd e.symm hy
      subst hkj
      have hxy : x = y := by
        have e := h k
        simpa only [memRead, Nat.lt_irrefl, if_true, if_false] using e
      subst hxy
      congr 1
      refine ih hr hq fun a => ?_
      rcases Nat.lt_trichotomy a k with g | g | g
      · rw [memRead_below hr (by omega), memRead_below hq (by omega)]
      · rw [memRead_below hr (by omega), memRead_below hq (by omega)]
      · have e := h a
        simpa only [memRead, show ¬ a < k by omega, show ¬ a = k by omega, if_false] using e

end Sys2Proof.Machine
end

