-- ==== Sys2Proof/Laws/State.lean ====
section
/-! SUPPORT. What the small updates of State leave alone, one lemma for each field, and how cores, teams, waves and threads
are found again after one of them is replaced. -/

namespace Sys2Proof.Machine

/-! One lemma for each field of each update. -/

@[simp] theorem State.tick_agenda (s : State) (n : Nat) : (s.tick n).agenda = s.agenda := rfl
@[simp] theorem State.tick_inputs (s : State) (n : Nat) : (s.tick n).inputs = s.inputs := rfl
@[simp] theorem State.tick_focus (s : State) (n : Nat) : (s.tick n).focus = s.focus := rfl
@[simp] theorem State.tick_focusAt (s : State) (n : Nat) : (s.tick n).focusAt = s.focusAt := rfl
@[simp] theorem State.tick_ctr (s : State) (n : Nat) : (s.tick n).ctr = s.ctr := rfl
@[simp] theorem State.tick_nextId (s : State) (n : Nat) : (s.tick n).nextId = s.nextId := rfl
@[simp] theorem State.tick_mem (s : State) (n : Nat) : (s.tick n).mem = s.mem := rfl
@[simp] theorem State.tick_bar2 (s : State) (n : Nat) : (s.tick n).bar2 = s.bar2 := rfl
@[simp] theorem State.tick_staging (s : State) (n : Nat) : (s.tick n).staging = s.staging := rfl
@[simp] theorem State.tick_mgmt (s : State) (n : Nat) : (s.tick n).mgmt = s.mgmt := rfl
@[simp] theorem State.tick_errs (s : State) (n : Nat) : (s.tick n).errs = s.errs := rfl
@[simp] theorem State.tick_errHead (s : State) (n : Nat) : (s.tick n).errHead = s.errHead := rfl
@[simp] theorem State.tick_dies (s : State) (n : Nat) : (s.tick n).dies = s.dies := rfl
@[simp] theorem State.tick_cores (s : State) (n : Nat) : (s.tick n).cores = s.cores := rfl
@[simp] theorem State.tick_l2 (s : State) (n : Nat) : (s.tick n).l2 = s.l2 := rfl
@[simp] theorem State.tick_l2c (s : State) (n : Nat) : (s.tick n).l2c = s.l2c := rfl
@[simp] theorem State.tick_cupola (s : State) (n : Nat) : (s.tick n).cupola = s.cupola := rfl
@[simp] theorem State.tick_objs (s : State) (n : Nat) : (s.tick n).objs = s.objs := rfl
@[simp] theorem State.tick_dirty (s : State) (n : Nat) : (s.tick n).dirty = s.dirty := rfl
@[simp] theorem State.tick_images (s : State) (n : Nat) : (s.tick n).images = s.images := rfl
@[simp] theorem State.tick_runq (s : State) (n : Nat) : (s.tick n).runq = s.runq := rfl
@[simp] theorem State.tick_grids (s : State) (n : Nat) : (s.tick n).grids = s.grids := rfl
@[simp] theorem State.tick_runs (s : State) (n : Nat) : (s.tick n).runs = s.runs := rfl
@[simp] theorem State.tick_slots (s : State) (n : Nat) : (s.tick n).slots = s.slots := rfl
@[simp] theorem State.tick_preempts (s : State) (n : Nat) : (s.tick n).preempts = s.preempts := rfl
@[simp] theorem State.tick_landings (s : State) (n : Nat) : (s.tick n).landings = s.landings := rfl
@[simp] theorem State.tick_reqs (s : State) (n : Nat) : (s.tick n).reqs = s.reqs := rfl
@[simp] theorem State.tick_ports (s : State) (n : Nat) : (s.tick n).ports = s.ports := rfl
@[simp] theorem State.tick_gslots (s : State) (n : Nat) : (s.tick n).gslots = s.gslots := rfl
@[simp] theorem State.tick_grants (s : State) (n : Nat) : (s.tick n).grants = s.grants := rfl
@[simp] theorem State.tick_shoots (s : State) (n : Nat) : (s.tick n).shoots = s.shoots := rfl
@[simp] theorem State.tick_dir (s : State) (n : Nat) : (s.tick n).dir = s.dir := rfl
@[simp] theorem State.tick_names (s : State) (n : Nat) : (s.tick n).names = s.names := rfl
@[simp] theorem State.tick_car (s : State) (n : Nat) : (s.tick n).car = s.car := rfl
@[simp] theorem State.tick_carIndex (s : State) (n : Nat) : (s.tick n).carIndex = s.carIndex := rfl
@[simp] theorem State.tick_catches (s : State) (n : Nat) : (s.tick n).catches = s.catches := rfl
@[simp] theorem State.tick_keys (s : State) (n : Nat) : (s.tick n).keys = s.keys := rfl
@[simp] theorem State.tick_attIndex (s : State) (n : Nat) : (s.tick n).attIndex = s.attIndex := rfl
@[simp] theorem State.tick_mail (s : State) (n : Nat) : (s.tick n).mail = s.mail := rfl
@[simp] theorem State.tick_patches (s : State) (n : Nat) : (s.tick n).patches = s.patches := rfl
@[simp] theorem State.tick_patchSets (s : State) (n : Nat) : (s.tick n).patchSets = s.patchSets := rfl
@[simp] theorem State.tick_unreachable (s : State) (n : Nat) : (s.tick n).unreachable = s.unreachable := rfl
@[simp] theorem State.tick_linkDown (s : State) (n : Nat) : (s.tick n).linkDown = s.linkDown := rfl
@[simp] theorem State.tick_records (s : State) (n : Nat) : (s.tick n).records = s.records := rfl
@[simp] theorem State.tick_posted (s : State) (n : Nat) : (s.tick n).posted = s.posted := rfl
@[simp] theorem State.tick_raised (s : State) (n : Nat) : (s.tick n).raised = s.raised := rfl
@[simp] theorem State.tick_xfers (s : State) (n : Nat) : (s.tick n).xfers = s.xfers := rfl
@[simp] theorem State.tick_seqNo (s : State) (n : Nat) : (s.tick n).seqNo = s.seqNo := rfl
@[simp] theorem State.tick_ptpBase (s : State) (n : Nat) : (s.tick n).ptpBase = s.ptpBase := rfl
@[simp] theorem State.tick_ptpAt (s : State) (n : Nat) : (s.tick n).ptpAt = s.ptpAt := rfl
@[simp] theorem State.tick_wallBase (s : State) (n : Nat) : (s.tick n).wallBase = s.wallBase := rfl
@[simp] theorem State.tick_wallAt (s : State) (n : Nat) : (s.tick n).wallAt = s.wallAt := rfl
@[simp] theorem State.tick_freedIds (s : State) (n : Nat) : (s.tick n).freedIds = s.freedIds := rfl
@[simp] theorem State.tick_freedPages (s : State) (n : Nat) : (s.tick n).freedPages = s.freedPages := rfl
@[simp] theorem State.tick_ptpRate (s : State) (n : Nat) : (s.tick n).ptpRate = s.ptpRate := rfl
@[simp] theorem State.tick_hostWaits (s : State) (n : Nat) : (s.tick n).hostWaits = s.hostWaits := rfl
@[simp] theorem State.tick_waiting (s : State) (n : Nat) : (s.tick n).waiting = s.waiting := rfl
@[simp] theorem State.tick_measured (s : State) (n : Nat) : (s.tick n).measured = s.measured := rfl
@[simp] theorem State.tick_restarts (s : State) (n : Nat) : (s.tick n).restarts = s.restarts := rfl

@[simp] theorem State.post_cycle (s : State) (d : Nat) (i : Due) : (s.post d i).cycle = s.cycle := rfl
@[simp] theorem State.post_inputs (s : State) (d : Nat) (i : Due) : (s.post d i).inputs = s.inputs := rfl
@[simp] theorem State.post_focus (s : State) (d : Nat) (i : Due) : (s.post d i).focus = s.focus := rfl
@[simp] theorem State.post_focusAt (s : State) (d : Nat) (i : Due) : (s.post d i).focusAt = s.focusAt := rfl
@[simp] theorem State.post_ctr (s : State) (d : Nat) (i : Due) : (s.post d i).ctr = s.ctr := rfl
@[simp] theorem State.post_nextId (s : State) (d : Nat) (i : Due) : (s.post d i).nextId = s.nextId := rfl
@[simp] theorem State.post_mem (s : State) (d : Nat) (i : Due) : (s.post d i).mem = s.mem := rfl
@[simp] theorem State.post_bar2 (s : State) (d : Nat) (i : Due) : (s.post d i).bar2 = s.bar2 := rfl
@[simp] theorem State.post_staging (s : State) (d : Nat) (i : Due) : (s.post d i).staging = s.staging := rfl
@[simp] theorem State.post_mgmt (s : State) (d : Nat) (i : Due) : (s.post d i).mgmt = s.mgmt := rfl
@[simp] theorem State.post_errs (s : State) (d : Nat) (i : Due) : (s.post d i).errs = s.errs := rfl
@[simp] theorem State.post_errHead (s : State) (d : Nat) (i : Due) : (s.post d i).errHead = s.errHead := rfl
@[simp] theorem State.post_dies (s : State) (d : Nat) (i : Due) : (s.post d i).dies = s.dies := rfl
@[simp] theorem State.post_cores (s : State) (d : Nat) (i : Due) : (s.post d i).cores = s.cores := rfl
@[simp] theorem State.post_l2 (s : State) (d : Nat) (i : Due) : (s.post d i).l2 = s.l2 := rfl
@[simp] theorem State.post_l2c (s : State) (d : Nat) (i : Due) : (s.post d i).l2c = s.l2c := rfl
@[simp] theorem State.post_cupola (s : State) (d : Nat) (i : Due) : (s.post d i).cupola = s.cupola := rfl
@[simp] theorem State.post_objs (s : State) (d : Nat) (i : Due) : (s.post d i).objs = s.objs := rfl
@[simp] theorem State.post_dirty (s : State) (d : Nat) (i : Due) : (s.post d i).dirty = s.dirty := rfl
@[simp] theorem State.post_images (s : State) (d : Nat) (i : Due) : (s.post d i).images = s.images := rfl
@[simp] theorem State.post_runq (s : State) (d : Nat) (i : Due) : (s.post d i).runq = s.runq := rfl
@[simp] theorem State.post_grids (s : State) (d : Nat) (i : Due) : (s.post d i).grids = s.grids := rfl
@[simp] theorem State.post_runs (s : State) (d : Nat) (i : Due) : (s.post d i).runs = s.runs := rfl
@[simp] theorem State.post_slots (s : State) (d : Nat) (i : Due) : (s.post d i).slots = s.slots := rfl
@[simp] theorem State.post_preempts (s : State) (d : Nat) (i : Due) : (s.post d i).preempts = s.preempts := rfl
@[simp] theorem State.post_landings (s : State) (d : Nat) (i : Due) : (s.post d i).landings = s.landings := rfl
@[simp] theorem State.post_reqs (s : State) (d : Nat) (i : Due) : (s.post d i).reqs = s.reqs := rfl
@[simp] theorem State.post_ports (s : State) (d : Nat) (i : Due) : (s.post d i).ports = s.ports := rfl
@[simp] theorem State.post_gslots (s : State) (d : Nat) (i : Due) : (s.post d i).gslots = s.gslots := rfl
@[simp] theorem State.post_grants (s : State) (d : Nat) (i : Due) : (s.post d i).grants = s.grants := rfl
@[simp] theorem State.post_shoots (s : State) (d : Nat) (i : Due) : (s.post d i).shoots = s.shoots := rfl
@[simp] theorem State.post_dir (s : State) (d : Nat) (i : Due) : (s.post d i).dir = s.dir := rfl
@[simp] theorem State.post_names (s : State) (d : Nat) (i : Due) : (s.post d i).names = s.names := rfl
@[simp] theorem State.post_car (s : State) (d : Nat) (i : Due) : (s.post d i).car = s.car := rfl
@[simp] theorem State.post_carIndex (s : State) (d : Nat) (i : Due) : (s.post d i).carIndex = s.carIndex := rfl
@[simp] theorem State.post_catches (s : State) (d : Nat) (i : Due) : (s.post d i).catches = s.catches := rfl
@[simp] theorem State.post_keys (s : State) (d : Nat) (i : Due) : (s.post d i).keys = s.keys := rfl
@[simp] theorem State.post_attIndex (s : State) (d : Nat) (i : Due) : (s.post d i).attIndex = s.attIndex := rfl
@[simp] theorem State.post_mail (s : State) (d : Nat) (i : Due) : (s.post d i).mail = s.mail := rfl
@[simp] theorem State.post_patches (s : State) (d : Nat) (i : Due) : (s.post d i).patches = s.patches := rfl
@[simp] theorem State.post_patchSets (s : State) (d : Nat) (i : Due) : (s.post d i).patchSets = s.patchSets := rfl
@[simp] theorem State.post_unreachable (s : State) (d : Nat) (i : Due) : (s.post d i).unreachable = s.unreachable := rfl
@[simp] theorem State.post_linkDown (s : State) (d : Nat) (i : Due) : (s.post d i).linkDown = s.linkDown := rfl
@[simp] theorem State.post_records (s : State) (d : Nat) (i : Due) : (s.post d i).records = s.records := rfl
@[simp] theorem State.post_posted (s : State) (d : Nat) (i : Due) : (s.post d i).posted = s.posted := rfl
@[simp] theorem State.post_raised (s : State) (d : Nat) (i : Due) : (s.post d i).raised = s.raised := rfl
@[simp] theorem State.post_xfers (s : State) (d : Nat) (i : Due) : (s.post d i).xfers = s.xfers := rfl
@[simp] theorem State.post_seqNo (s : State) (d : Nat) (i : Due) : (s.post d i).seqNo = s.seqNo := rfl
@[simp] theorem State.post_ptpBase (s : State) (d : Nat) (i : Due) : (s.post d i).ptpBase = s.ptpBase := rfl
@[simp] theorem State.post_ptpAt (s : State) (d : Nat) (i : Due) : (s.post d i).ptpAt = s.ptpAt := rfl
@[simp] theorem State.post_wallBase (s : State) (d : Nat) (i : Due) : (s.post d i).wallBase = s.wallBase := rfl
@[simp] theorem State.post_wallAt (s : State) (d : Nat) (i : Due) : (s.post d i).wallAt = s.wallAt := rfl
@[simp] theorem State.post_freedIds (s : State) (d : Nat) (i : Due) : (s.post d i).freedIds = s.freedIds := rfl
@[simp] theorem State.post_freedPages (s : State) (d : Nat) (i : Due) : (s.post d i).freedPages = s.freedPages := rfl
@[simp] theorem State.post_ptpRate (s : State) (d : Nat) (i : Due) : (s.post d i).ptpRate = s.ptpRate := rfl
@[simp] theorem State.post_hostWaits (s : State) (d : Nat) (i : Due) : (s.post d i).hostWaits = s.hostWaits := rfl
@[simp] theorem State.post_waiting (s : State) (d : Nat) (i : Due) : (s.post d i).waiting = s.waiting := rfl
@[simp] theorem State.post_measured (s : State) (d : Nat) (i : Due) : (s.post d i).measured = s.measured := rfl
@[simp] theorem State.post_restarts (s : State) (d : Nat) (i : Due) : (s.post d i).restarts = s.restarts := rfl

@[simp] theorem State.later_cycle (s : State) (i : Due) : (s.later i).cycle = s.cycle := rfl
@[simp] theorem State.later_inputs (s : State) (i : Due) : (s.later i).inputs = s.inputs := rfl
@[simp] theorem State.later_focus (s : State) (i : Due) : (s.later i).focus = s.focus := rfl
@[simp] theorem State.later_focusAt (s : State) (i : Due) : (s.later i).focusAt = s.focusAt := rfl
@[simp] theorem State.later_nextId (s : State) (i : Due) : (s.later i).nextId = s.nextId := rfl
@[simp] theorem State.later_mem (s : State) (i : Due) : (s.later i).mem = s.mem := rfl
@[simp] theorem State.later_bar2 (s : State) (i : Due) : (s.later i).bar2 = s.bar2 := rfl
@[simp] theorem State.later_staging (s : State) (i : Due) : (s.later i).staging = s.staging := rfl
@[simp] theorem State.later_mgmt (s : State) (i : Due) : (s.later i).mgmt = s.mgmt := rfl
@[simp] theorem State.later_errs (s : State) (i : Due) : (s.later i).errs = s.errs := rfl
@[simp] theorem State.later_errHead (s : State) (i : Due) : (s.later i).errHead = s.errHead := rfl
@[simp] theorem State.later_dies (s : State) (i : Due) : (s.later i).dies = s.dies := rfl
@[simp] theorem State.later_cores (s : State) (i : Due) : (s.later i).cores = s.cores := rfl
@[simp] theorem State.later_l2 (s : State) (i : Due) : (s.later i).l2 = s.l2 := rfl
@[simp] theorem State.later_l2c (s : State) (i : Due) : (s.later i).l2c = s.l2c := rfl
@[simp] theorem State.later_cupola (s : State) (i : Due) : (s.later i).cupola = s.cupola := rfl
@[simp] theorem State.later_objs (s : State) (i : Due) : (s.later i).objs = s.objs := rfl
@[simp] theorem State.later_dirty (s : State) (i : Due) : (s.later i).dirty = s.dirty := rfl
@[simp] theorem State.later_images (s : State) (i : Due) : (s.later i).images = s.images := rfl
@[simp] theorem State.later_runq (s : State) (i : Due) : (s.later i).runq = s.runq := rfl
@[simp] theorem State.later_grids (s : State) (i : Due) : (s.later i).grids = s.grids := rfl
@[simp] theorem State.later_runs (s : State) (i : Due) : (s.later i).runs = s.runs := rfl
@[simp] theorem State.later_slots (s : State) (i : Due) : (s.later i).slots = s.slots := rfl
@[simp] theorem State.later_preempts (s : State) (i : Due) : (s.later i).preempts = s.preempts := rfl
@[simp] theorem State.later_landings (s : State) (i : Due) : (s.later i).landings = s.landings := rfl
@[simp] theorem State.later_reqs (s : State) (i : Due) : (s.later i).reqs = s.reqs := rfl
@[simp] theorem State.later_ports (s : State) (i : Due) : (s.later i).ports = s.ports := rfl
@[simp] theorem State.later_gslots (s : State) (i : Due) : (s.later i).gslots = s.gslots := rfl
@[simp] theorem State.later_grants (s : State) (i : Due) : (s.later i).grants = s.grants := rfl
@[simp] theorem State.later_shoots (s : State) (i : Due) : (s.later i).shoots = s.shoots := rfl
@[simp] theorem State.later_dir (s : State) (i : Due) : (s.later i).dir = s.dir := rfl
@[simp] theorem State.later_names (s : State) (i : Due) : (s.later i).names = s.names := rfl
@[simp] theorem State.later_car (s : State) (i : Due) : (s.later i).car = s.car := rfl
@[simp] theorem State.later_carIndex (s : State) (i : Due) : (s.later i).carIndex = s.carIndex := rfl
@[simp] theorem State.later_catches (s : State) (i : Due) : (s.later i).catches = s.catches := rfl
@[simp] theorem State.later_keys (s : State) (i : Due) : (s.later i).keys = s.keys := rfl
@[simp] theorem State.later_attIndex (s : State) (i : Due) : (s.later i).attIndex = s.attIndex := rfl
@[simp] theorem State.later_mail (s : State) (i : Due) : (s.later i).mail = s.mail := rfl
@[simp] theorem State.later_patches (s : State) (i : Due) : (s.later i).patches = s.patches := rfl
@[simp] theorem State.later_patchSets (s : State) (i : Due) : (s.later i).patchSets = s.patchSets := rfl
@[simp] theorem State.later_unreachable (s : State) (i : Due) : (s.later i).unreachable = s.unreachable := rfl
@[simp] theorem State.later_linkDown (s : State) (i : Due) : (s.later i).linkDown = s.linkDown := rfl
@[simp] theorem State.later_records (s : State) (i : Due) : (s.later i).records = s.records := rfl
@[simp] theorem State.later_posted (s : State) (i : Due) : (s.later i).posted = s.posted := rfl
@[simp] theorem State.later_raised (s : State) (i : Due) : (s.later i).raised = s.raised := rfl
@[simp] theorem State.later_xfers (s : State) (i : Due) : (s.later i).xfers = s.xfers := rfl
@[simp] theorem State.later_seqNo (s : State) (i : Due) : (s.later i).seqNo = s.seqNo := rfl
@[simp] theorem State.later_ptpBase (s : State) (i : Due) : (s.later i).ptpBase = s.ptpBase := rfl
@[simp] theorem State.later_ptpAt (s : State) (i : Due) : (s.later i).ptpAt = s.ptpAt := rfl
@[simp] theorem State.later_wallBase (s : State) (i : Due) : (s.later i).wallBase = s.wallBase := rfl
@[simp] theorem State.later_wallAt (s : State) (i : Due) : (s.later i).wallAt = s.wallAt := rfl
@[simp] theorem State.later_freedIds (s : State) (i : Due) : (s.later i).freedIds = s.freedIds := rfl
@[simp] theorem State.later_freedPages (s : State) (i : Due) : (s.later i).freedPages = s.freedPages := rfl
@[simp] theorem State.later_ptpRate (s : State) (i : Due) : (s.later i).ptpRate = s.ptpRate := rfl
@[simp] theorem State.later_hostWaits (s : State) (i : Due) : (s.later i).hostWaits = s.hostWaits := rfl
@[simp] theorem State.later_waiting (s : State) (i : Due) : (s.later i).waiting = s.waiting := rfl
@[simp] theorem State.later_measured (s : State) (i : Due) : (s.later i).measured = s.measured := rfl
@[simp] theorem State.later_restarts (s : State) (i : Due) : (s.later i).restarts = s.restarts := rfl

@[simp] theorem State.setMreg_cycle (s : State) (off : Nat) (v : DWord) : (s.setMreg off v).cycle = s.cycle := rfl
@[simp] theorem State.setMreg_agenda (s : State) (off : Nat) (v : DWord) : (s.setMreg off v).agenda = s.agenda := rfl
@[simp] theorem State.setMreg_inputs (s : State) (off : Nat) (v : DWord) : (s.setMreg off v).inputs = s.inputs := rfl
@[simp] theorem State.setMreg_focus (s : State) (off : Nat) (v : DWord) : (s.setMreg off v).focus = s.focus := rfl
@[simp] theorem State.setMreg_focusAt (s : State) (off : Nat) (v : DWord) : (s.setMreg off v).focusAt = s.focusAt := rfl
@[simp] theorem State.setMreg_ctr (s : State) (off : Nat) (v : DWord) : (s.setMreg off v).ctr = s.ctr := rfl
@[simp] theorem State.setMreg_nextId (s : State) (off : Nat) (v : DWord) : (s.setMreg off v).nextId = s.nextId := rfl
@[simp] theorem State.setMreg_mem (s : State) (off : Nat) (v : DWord) : (s.setMreg off v).mem = s.mem := rfl
@[simp] theorem State.setMreg_bar2 (s : State) (off : Nat) (v : DWord) : (s.setMreg off v).bar2 = s.bar2 := rfl
@[simp] theorem State.setMreg_staging (s : State) (off : Nat) (v : DWord) : (s.setMreg off v).staging = s.staging := rfl
@[simp] theorem State.setMreg_errs (s : State) (off : Nat) (v : DWord) : (s.setMreg off v).errs = s.errs := rfl
@[simp] theorem State.setMreg_errHead (s : State) (off : Nat) (v : DWord) : (s.setMreg off v).errHead = s.errHead := rfl
@[simp] theorem State.setMreg_dies (s : State) (off : Nat) (v : DWord) : (s.setMreg off v).dies = s.dies := rfl
@[simp] theorem State.setMreg_cores (s : State) (off : Nat) (v : DWord) : (s.setMreg off v).cores = s.cores := rfl
@[simp] theorem State.setMreg_l2 (s : State) (off : Nat) (v : DWord) : (s.setMreg off v).l2 = s.l2 := rfl
@[simp] theorem State.setMreg_l2c (s : State) (off : Nat) (v : DWord) : (s.setMreg off v).l2c = s.l2c := rfl
@[simp] theorem State.setMreg_cupola (s : State) (off : Nat) (v : DWord) : (s.setMreg off v).cupola = s.cupola := rfl
@[simp] theorem State.setMreg_objs (s : State) (off : Nat) (v : DWord) : (s.setMreg off v).objs = s.objs := rfl
@[simp] theorem State.setMreg_dirty (s : State) (off : Nat) (v : DWord) : (s.setMreg off v).dirty = s.dirty := rfl
@[simp] theorem State.setMreg_images (s : State) (off : Nat) (v : DWord) : (s.setMreg off v).images = s.images := rfl
@[simp] theorem State.setMreg_runq (s : State) (off : Nat) (v : DWord) : (s.setMreg off v).runq = s.runq := rfl
@[simp] theorem State.setMreg_grids (s : State) (off : Nat) (v : DWord) : (s.setMreg off v).grids = s.grids := rfl
@[simp] theorem State.setMreg_runs (s : State) (off : Nat) (v : DWord) : (s.setMreg off v).runs = s.runs := rfl
@[simp] theorem State.setMreg_slots (s : State) (off : Nat) (v : DWord) : (s.setMreg off v).slots = s.slots := rfl
@[simp] theorem State.setMreg_preempts (s : State) (off : Nat) (v : DWord) : (s.setMreg off v).preempts = s.preempts := rfl
@[simp] theorem State.setMreg_landings (s : State) (off : Nat) (v : DWord) : (s.setMreg off v).landings = s.landings := rfl
@[simp] theorem State.setMreg_reqs (s : State) (off : Nat) (v : DWord) : (s.setMreg off v).reqs = s.reqs := rfl
@[simp] theorem State.setMreg_ports (s : State) (off : Nat) (v : DWord) : (s.setMreg off v).ports = s.ports := rfl
@[simp] theorem State.setMreg_gslots (s : State) (off : Nat) (v : DWord) : (s.setMreg off v).gslots = s.gslots := rfl
@[simp] theorem State.setMreg_grants (s : State) (off : Nat) (v : DWord) : (s.setMreg off v).grants = s.grants := rfl
@[simp] theorem State.setMreg_shoots (s : State) (off : Nat) (v : DWord) : (s.setMreg off v).shoots = s.shoots := rfl
@[simp] theorem State.setMreg_dir (s : State) (off : Nat) (v : DWord) : (s.setMreg off v).dir = s.dir := rfl
@[simp] theorem State.setMreg_names (s : State) (off : Nat) (v : DWord) : (s.setMreg off v).names = s.names := rfl
@[simp] theorem State.setMreg_car (s : State) (off : Nat) (v : DWord) : (s.setMreg off v).car = s.car := rfl
@[simp] theorem State.setMreg_carIndex (s : State) (off : Nat) (v : DWord) : (s.setMreg off v).carIndex = s.carIndex := rfl
@[simp] theorem State.setMreg_catches (s : State) (off : Nat) (v : DWord) : (s.setMreg off v).catches = s.catches := rfl
@[simp] theorem State.setMreg_keys (s : State) (off : Nat) (v : DWord) : (s.setMreg off v).keys = s.keys := rfl
@[simp] theorem State.setMreg_attIndex (s : State) (off : Nat) (v : DWord) : (s.setMreg off v).attIndex = s.attIndex := rfl
@[simp] theorem State.setMreg_mail (s : State) (off : Nat) (v : DWord) : (s.setMreg off v).mail = s.mail := rfl
@[simp] theorem State.setMreg_patches (s : State) (off : Nat) (v : DWord) : (s.setMreg off v).patches = s.patches := rfl
@[simp] theorem State.setMreg_patchSets (s : State) (off : Nat) (v : DWord) : (s.setMreg off v).patchSets = s.patchSets := rfl
@[simp] theorem State.setMreg_unreachable (s : State) (off : Nat) (v : DWord) : (s.setMreg off v).unreachable = s.unreachable := rfl
@[simp] theorem State.setMreg_linkDown (s : State) (off : Nat) (v : DWord) : (s.setMreg off v).linkDown = s.linkDown := rfl
@[simp] theorem State.setMreg_records (s : State) (off : Nat) (v : DWord) : (s.setMreg off v).records = s.records := rfl
@[simp] theorem State.setMreg_posted (s : State) (off : Nat) (v : DWord) : (s.setMreg off v).posted = s.posted := rfl
@[simp] theorem State.setMreg_raised (s : State) (off : Nat) (v : DWord) : (s.setMreg off v).raised = s.raised := rfl
@[simp] theorem State.setMreg_xfers (s : State) (off : Nat) (v : DWord) : (s.setMreg off v).xfers = s.xfers := rfl
@[simp] theorem State.setMreg_seqNo (s : State) (off : Nat) (v : DWord) : (s.setMreg off v).seqNo = s.seqNo := rfl
@[simp] theorem State.setMreg_ptpBase (s : State) (off : Nat) (v : DWord) : (s.setMreg off v).ptpBase = s.ptpBase := rfl
@[simp] theorem State.setMreg_ptpAt (s : State) (off : Nat) (v : DWord) : (s.setMreg off v).ptpAt = s.ptpAt := rfl
@[simp] theorem State.setMreg_wallBase (s : State) (off : Nat) (v : DWord) : (s.setMreg off v).wallBase = s.wallBase := rfl
@[simp] theorem State.setMreg_wallAt (s : State) (off : Nat) (v : DWord) : (s.setMreg off v).wallAt = s.wallAt := rfl
@[simp] theorem State.setMreg_freedIds (s : State) (off : Nat) (v : DWord) : (s.setMreg off v).freedIds = s.freedIds := rfl
@[simp] theorem State.setMreg_freedPages (s : State) (off : Nat) (v : DWord) : (s.setMreg off v).freedPages = s.freedPages := rfl
@[simp] theorem State.setMreg_ptpRate (s : State) (off : Nat) (v : DWord) : (s.setMreg off v).ptpRate = s.ptpRate := rfl
@[simp] theorem State.setMreg_hostWaits (s : State) (off : Nat) (v : DWord) : (s.setMreg off v).hostWaits = s.hostWaits := rfl
@[simp] theorem State.setMreg_waiting (s : State) (off : Nat) (v : DWord) : (s.setMreg off v).waiting = s.waiting := rfl
@[simp] theorem State.setMreg_measured (s : State) (off : Nat) (v : DWord) : (s.setMreg off v).measured = s.measured := rfl
@[simp] theorem State.setMreg_restarts (s : State) (off : Nat) (v : DWord) : (s.setMreg off v).restarts = s.restarts := rfl

@[simp] theorem State.logErr_cycle (s : State) (code part die off val : Nat) : (s.logErr code part die off val).cycle = s.cycle := rfl
@[simp] theorem State.logErr_agenda (s : State) (code part die off val : Nat) : (s.logErr code part die off val).agenda = s.agenda := rfl
@[simp] theorem State.logErr_inputs (s : State) (code part die off val : Nat) : (s.logErr code part die off val).inputs = s.inputs := rfl
@[simp] theorem State.logErr_focus (s : State) (code part die off val : Nat) : (s.logErr code part die off val).focus = s.focus := rfl
@[simp] theorem State.logErr_focusAt (s : State) (code part die off val : Nat) : (s.logErr code part die off val).focusAt = s.focusAt := rfl
@[simp] theorem State.logErr_ctr (s : State) (code part die off val : Nat) : (s.logErr code part die off val).ctr = s.ctr := rfl
@[simp] theorem State.logErr_nextId (s : State) (code part die off val : Nat) : (s.logErr code part die off val).nextId = s.nextId := rfl
@[simp] theorem State.logErr_mem (s : State) (code part die off val : Nat) : (s.logErr code part die off val).mem = s.mem := rfl
@[simp] theorem State.logErr_bar2 (s : State) (code part die off val : Nat) : (s.logErr code part die off val).bar2 = s.bar2 := rfl
@[simp] theorem State.logErr_staging (s : State) (code part die off val : Nat) : (s.logErr code part die off val).staging = s.staging := rfl
@[simp] theorem State.logErr_mgmt (s : State) (code part die off val : Nat) : (s.logErr code part die off val).mgmt = s.mgmt := rfl
@[simp] theorem State.logErr_dies (s : State) (code part die off val : Nat) : (s.logErr code part die off val).dies = s.dies := rfl
@[simp] theorem State.logErr_cores (s : State) (code part die off val : Nat) : (s.logErr code part die off val).cores = s.cores := rfl
@[simp] theorem State.logErr_l2 (s : State) (code part die off val : Nat) : (s.logErr code part die off val).l2 = s.l2 := rfl
@[simp] theorem State.logErr_l2c (s : State) (code part die off val : Nat) : (s.logErr code part die off val).l2c = s.l2c := rfl
@[simp] theorem State.logErr_cupola (s : State) (code part die off val : Nat) : (s.logErr code part die off val).cupola = s.cupola := rfl
@[simp] theorem State.logErr_objs (s : State) (code part die off val : Nat) : (s.logErr code part die off val).objs = s.objs := rfl
@[simp] theorem State.logErr_dirty (s : State) (code part die off val : Nat) : (s.logErr code part die off val).dirty = s.dirty := rfl
@[simp] theorem State.logErr_images (s : State) (code part die off val : Nat) : (s.logErr code part die off val).images = s.images := rfl
@[simp] theorem State.logErr_runq (s : State) (code part die off val : Nat) : (s.logErr code part die off val).runq = s.runq := rfl
@[simp] theorem State.logErr_grids (s : State) (code part die off val : Nat) : (s.logErr code part die off val).grids = s.grids := rfl
@[simp] theorem State.logErr_runs (s : State) (code part die off val : Nat) : (s.logErr code part die off val).runs = s.runs := rfl
@[simp] theorem State.logErr_slots (s : State) (code part die off val : Nat) : (s.logErr code part die off val).slots = s.slots := rfl
@[simp] theorem State.logErr_preempts (s : State) (code part die off val : Nat) : (s.logErr code part die off val).preempts = s.preempts := rfl
@[simp] theorem State.logErr_landings (s : State) (code part die off val : Nat) : (s.logErr code part die off val).landings = s.landings := rfl
@[simp] theorem State.logErr_reqs (s : State) (code part die off val : Nat) : (s.logErr code part die off val).reqs = s.reqs := rfl
@[simp] theorem State.logErr_ports (s : State) (code part die off val : Nat) : (s.logErr code part die off val).ports = s.ports := rfl
@[simp] theorem State.logErr_gslots (s : State) (code part die off val : Nat) : (s.logErr code part die off val).gslots = s.gslots := rfl
@[simp] theorem State.logErr_grants (s : State) (code part die off val : Nat) : (s.logErr code part die off val).grants = s.grants := rfl
@[simp] theorem State.logErr_shoots (s : State) (code part die off val : Nat) : (s.logErr code part die off val).shoots = s.shoots := rfl
@[simp] theorem State.logErr_dir (s : State) (code part die off val : Nat) : (s.logErr code part die off val).dir = s.dir := rfl
@[simp] theorem State.logErr_names (s : State) (code part die off val : Nat) : (s.logErr code part die off val).names = s.names := rfl
@[simp] theorem State.logErr_car (s : State) (code part die off val : Nat) : (s.logErr code part die off val).car = s.car := rfl
@[simp] theorem State.logErr_carIndex (s : State) (code part die off val : Nat) : (s.logErr code part die off val).carIndex = s.carIndex := rfl
@[simp] theorem State.logErr_catches (s : State) (code part die off val : Nat) : (s.logErr code part die off val).catches = s.catches := rfl
@[simp] theorem State.logErr_keys (s : State) (code part die off val : Nat) : (s.logErr code part die off val).keys = s.keys := rfl
@[simp] theorem State.logErr_attIndex (s : State) (code part die off val : Nat) : (s.logErr code part die off val).attIndex = s.attIndex := rfl
@[simp] theorem State.logErr_mail (s : State) (code part die off val : Nat) : (s.logErr code part die off val).mail = s.mail := rfl
@[simp] theorem State.logErr_patches (s : State) (code part die off val : Nat) : (s.logErr code part die off val).patches = s.patches := rfl
@[simp] theorem State.logErr_patchSets (s : State) (code part die off val : Nat) : (s.logErr code part die off val).patchSets = s.patchSets := rfl
@[simp] theorem State.logErr_unreachable (s : State) (code part die off val : Nat) : (s.logErr code part die off val).unreachable = s.unreachable := rfl
@[simp] theorem State.logErr_linkDown (s : State) (code part die off val : Nat) : (s.logErr code part die off val).linkDown = s.linkDown := rfl
@[simp] theorem State.logErr_records (s : State) (code part die off val : Nat) : (s.logErr code part die off val).records = s.records := rfl
@[simp] theorem State.logErr_posted (s : State) (code part die off val : Nat) : (s.logErr code part die off val).posted = s.posted := rfl
@[simp] theorem State.logErr_raised (s : State) (code part die off val : Nat) : (s.logErr code part die off val).raised = s.raised := rfl
@[simp] theorem State.logErr_xfers (s : State) (code part die off val : Nat) : (s.logErr code part die off val).xfers = s.xfers := rfl
@[simp] theorem State.logErr_seqNo (s : State) (code part die off val : Nat) : (s.logErr code part die off val).seqNo = s.seqNo := rfl
@[simp] theorem State.logErr_ptpBase (s : State) (code part die off val : Nat) : (s.logErr code part die off val).ptpBase = s.ptpBase := rfl
@[simp] theorem State.logErr_ptpAt (s : State) (code part die off val : Nat) : (s.logErr code part die off val).ptpAt = s.ptpAt := rfl
@[simp] theorem State.logErr_wallBase (s : State) (code part die off val : Nat) : (s.logErr code part die off val).wallBase = s.wallBase := rfl
@[simp] theorem State.logErr_wallAt (s : State) (code part die off val : Nat) : (s.logErr code part die off val).wallAt = s.wallAt := rfl
@[simp] theorem State.logErr_freedIds (s : State) (code part die off val : Nat) : (s.logErr code part die off val).freedIds = s.freedIds := rfl
@[simp] theorem State.logErr_freedPages (s : State) (code part die off val : Nat) : (s.logErr code part die off val).freedPages = s.freedPages := rfl
@[simp] theorem State.logErr_ptpRate (s : State) (code part die off val : Nat) : (s.logErr code part die off val).ptpRate = s.ptpRate := rfl
@[simp] theorem State.logErr_hostWaits (s : State) (code part die off val : Nat) : (s.logErr code part die off val).hostWaits = s.hostWaits := rfl
@[simp] theorem State.logErr_waiting (s : State) (code part die off val : Nat) : (s.logErr code part die off val).waiting = s.waiting := rfl
@[simp] theorem State.logErr_measured (s : State) (code part die off val : Nat) : (s.logErr code part die off val).measured = s.measured := rfl
@[simp] theorem State.logErr_restarts (s : State) (code part die off val : Nat) : (s.logErr code part die off val).restarts = s.restarts := rfl

@[simp] theorem State.setCore_cycle (s : State) (k : Core) : (s.setCore k).cycle = s.cycle := rfl
@[simp] theorem State.setCore_agenda (s : State) (k : Core) : (s.setCore k).agenda = s.agenda := rfl
@[simp] theorem State.setCore_inputs (s : State) (k : Core) : (s.setCore k).inputs = s.inputs := rfl
@[simp] theorem State.setCore_focus (s : State) (k : Core) : (s.setCore k).focus = s.focus := rfl
@[simp] theorem State.setCore_focusAt (s : State) (k : Core) : (s.setCore k).focusAt = s.focusAt := rfl
@[simp] theorem State.setCore_ctr (s : State) (k : Core) : (s.setCore k).ctr = s.ctr := rfl
@[simp] theorem State.setCore_nextId (s : State) (k : Core) : (s.setCore k).nextId = s.nextId := rfl
@[simp] theorem State.setCore_mem (s : State) (k : Core) : (s.setCore k).mem = s.mem := rfl
@[simp] theorem State.setCore_bar2 (s : State) (k : Core) : (s.setCore k).bar2 = s.bar2 := rfl
@[simp] theorem State.setCore_staging (s : State) (k : Core) : (s.setCore k).staging = s.staging := rfl
@[simp] theorem State.setCore_mgmt (s : State) (k : Core) : (s.setCore k).mgmt = s.mgmt := rfl
@[simp] theorem State.setCore_errs (s : State) (k : Core) : (s.setCore k).errs = s.errs := rfl
@[simp] theorem State.setCore_errHead (s : State) (k : Core) : (s.setCore k).errHead = s.errHead := rfl
@[simp] theorem State.setCore_dies (s : State) (k : Core) : (s.setCore k).dies = s.dies := rfl
@[simp] theorem State.setCore_l2 (s : State) (k : Core) : (s.setCore k).l2 = s.l2 := rfl
@[simp] theorem State.setCore_l2c (s : State) (k : Core) : (s.setCore k).l2c = s.l2c := rfl
@[simp] theorem State.setCore_cupola (s : State) (k : Core) : (s.setCore k).cupola = s.cupola := rfl
@[simp] theorem State.setCore_objs (s : State) (k : Core) : (s.setCore k).objs = s.objs := rfl
@[simp] theorem State.setCore_dirty (s : State) (k : Core) : (s.setCore k).dirty = s.dirty := rfl
@[simp] theorem State.setCore_images (s : State) (k : Core) : (s.setCore k).images = s.images := rfl
@[simp] theorem State.setCore_runq (s : State) (k : Core) : (s.setCore k).runq = s.runq := rfl
@[simp] theorem State.setCore_grids (s : State) (k : Core) : (s.setCore k).grids = s.grids := rfl
@[simp] theorem State.setCore_runs (s : State) (k : Core) : (s.setCore k).runs = s.runs := rfl
@[simp] theorem State.setCore_slots (s : State) (k : Core) : (s.setCore k).slots = s.slots := rfl
@[simp] theorem State.setCore_preempts (s : State) (k : Core) : (s.setCore k).preempts = s.preempts := rfl
@[simp] theorem State.setCore_landings (s : State) (k : Core) : (s.setCore k).landings = s.landings := rfl
@[simp] theorem State.setCore_reqs (s : State) (k : Core) : (s.setCore k).reqs = s.reqs := rfl
@[simp] theorem State.setCore_ports (s : State) (k : Core) : (s.setCore k).ports = s.ports := rfl
@[simp] theorem State.setCore_gslots (s : State) (k : Core) : (s.setCore k).gslots = s.gslots := rfl
@[simp] theorem State.setCore_grants (s : State) (k : Core) : (s.setCore k).grants = s.grants := rfl
@[simp] theorem State.setCore_shoots (s : State) (k : Core) : (s.setCore k).shoots = s.shoots := rfl
@[simp] theorem State.setCore_dir (s : State) (k : Core) : (s.setCore k).dir = s.dir := rfl
@[simp] theorem State.setCore_names (s : State) (k : Core) : (s.setCore k).names = s.names := rfl
@[simp] theorem State.setCore_car (s : State) (k : Core) : (s.setCore k).car = s.car := rfl
@[simp] theorem State.setCore_carIndex (s : State) (k : Core) : (s.setCore k).carIndex = s.carIndex := rfl
@[simp] theorem State.setCore_catches (s : State) (k : Core) : (s.setCore k).catches = s.catches := rfl
@[simp] theorem State.setCore_keys (s : State) (k : Core) : (s.setCore k).keys = s.keys := rfl
@[simp] theorem State.setCore_attIndex (s : State) (k : Core) : (s.setCore k).attIndex = s.attIndex := rfl
@[simp] theorem State.setCore_mail (s : State) (k : Core) : (s.setCore k).mail = s.mail := rfl
@[simp] theorem State.setCore_patches (s : State) (k : Core) : (s.setCore k).patches = s.patches := rfl
@[simp] theorem State.setCore_patchSets (s : State) (k : Core) : (s.setCore k).patchSets = s.patchSets := rfl
@[simp] theorem State.setCore_unreachable (s : State) (k : Core) : (s.setCore k).unreachable = s.unreachable := rfl
@[simp] theorem State.setCore_linkDown (s : State) (k : Core) : (s.setCore k).linkDown = s.linkDown := rfl
@[simp] theorem State.setCore_records (s : State) (k : Core) : (s.setCore k).records = s.records := rfl
@[simp] theorem State.setCore_posted (s : State) (k : Core) : (s.setCore k).posted = s.posted := rfl
@[simp] theorem State.setCore_raised (s : State) (k : Core) : (s.setCore k).raised = s.raised := rfl
@[simp] theorem State.setCore_xfers (s : State) (k : Core) : (s.setCore k).xfers = s.xfers := rfl
@[simp] theorem State.setCore_seqNo (s : State) (k : Core) : (s.setCore k).seqNo = s.seqNo := rfl
@[simp] theorem State.setCore_ptpBase (s : State) (k : Core) : (s.setCore k).ptpBase = s.ptpBase := rfl
@[simp] theorem State.setCore_ptpAt (s : State) (k : Core) : (s.setCore k).ptpAt = s.ptpAt := rfl
@[simp] theorem State.setCore_wallBase (s : State) (k : Core) : (s.setCore k).wallBase = s.wallBase := rfl
@[simp] theorem State.setCore_wallAt (s : State) (k : Core) : (s.setCore k).wallAt = s.wallAt := rfl
@[simp] theorem State.setCore_freedIds (s : State) (k : Core) : (s.setCore k).freedIds = s.freedIds := rfl
@[simp] theorem State.setCore_freedPages (s : State) (k : Core) : (s.setCore k).freedPages = s.freedPages := rfl
@[simp] theorem State.setCore_ptpRate (s : State) (k : Core) : (s.setCore k).ptpRate = s.ptpRate := rfl
@[simp] theorem State.setCore_hostWaits (s : State) (k : Core) : (s.setCore k).hostWaits = s.hostWaits := rfl
@[simp] theorem State.setCore_waiting (s : State) (k : Core) : (s.setCore k).waiting = s.waiting := rfl
@[simp] theorem State.setCore_measured (s : State) (k : Core) : (s.setCore k).measured = s.measured := rfl
@[simp] theorem State.setCore_restarts (s : State) (k : Core) : (s.setCore k).restarts = s.restarts := rfl

@[simp] theorem State.tick_cycle (s : State) (n : Nat) : (s.tick n).cycle = s.cycle + n := rfl
@[simp] theorem State.post_agenda (s : State) (d : Nat) (i : Due) :
    (s.post d i).agenda = s.agenda ++ [(s.cycle + d, i)] := rfl
@[simp] theorem State.later_ctr (s : State) (i : Due) : (s.later i).ctr = s.ctr + 1 := rfl
@[simp] theorem State.logErr_errHead (s : State) (code part die off val : Nat) :
    (s.logErr code part die off val).errHead = s.errHead + 1 := rfl

/-! Management registers. -/

/-- A management register reads as it was last written, and a write changes no other. -/
theorem State.mreg_setMreg (s : State) (off off' : Nat) (v : DWord) :
    (s.setMreg off v).mreg off' = if off' = off then v else s.mreg off' := by
  have key : ∀ l : List (Nat × DWord), ((l.filter (·.1 != off)) ++ (if v = regReset off then [] else [(off, v)])).lookup off'
      = if off' = off then (if v = regReset off then none else some v) else l.lookup off' := by
    intro l
    induction l with
    | nil =>
      by_cases h : off' = off
      · subst h; by_cases hv : v = regReset off' <;> simp [hv]
      · by_cases hv : v = regReset off <;> simp [hv, h]
    | cons q r ih =>
      obtain ⟨a, b⟩ := q
      by_cases h : a = off
      · subst h
        rw [List.filter_cons]
        simp only [bne_self_eq_false, Bool.false_eq_true, if_false, ih]
        by_cases h' : off' = a
        · simp [h']
        · simp [h', List.lookup, show (off' == a) = false by simp [h']]
      · rw [List.filter_cons]
        simp only [bne_iff_ne, ne_eq, h, not_false_eq_true, if_true, List.cons_append, List.lookup]
        by_cases h' : off' = a
        · subst h'; simp [h]
        · simp only [show (off' == a) = false by simp [h'], ih]
  unfold State.mreg State.setMreg
  simp only [key]
  by_cases h : off' = off
  · subst h
    by_cases hv : v = regReset off' <;> simp [hv]
  · simp [h]

@[simp] theorem State.mreg_tick (s : State) (n off : Nat) : (s.tick n).mreg off = s.mreg off := rfl
@[simp] theorem State.mreg_post (s : State) (d : Nat) (i : Due) (off : Nat) : (s.post d i).mreg off = s.mreg off := rfl
@[simp] theorem State.mreg_later (s : State) (i : Due) (off : Nat) : (s.later i).mreg off = s.mreg off := rfl
@[simp] theorem State.mreg_setCore (s : State) (k : Core) (off : Nat) : (s.setCore k).mreg off = s.mreg off := rfl

/-! Finding what was put. -/

theorem find_putWhere {α κ : Type} [DecidableEq κ] (key : α → κ) (x : α) (l : List α) (c : κ) :
    (putWhere (fun y => key y == key x) x l).find? (fun y => key y == c)
      = if c = key x then some x else l.find? (fun y => key y == c) := by
  induction l with
  | nil =>
    by_cases h : c = key x
    · subst h; simp [putWhere]
    · simp [putWhere, h, Ne.symm h]
  | cons y r ih =>
    simp only [putWhere]
    by_cases hy : key y = key x
    · by_cases h : c = key x
      · subst h; simp [hy]
      · simp [hy, h, Ne.symm h]
    · by_cases h : c = key y
      · subst h; simp [hy]
      · simp [hy, Ne.symm h, ih]

theorem find_modWhere {α κ : Type} [DecidableEq κ] (key : α → κ) (x : κ) (f : α → α) (hf : ∀ y, key (f y) = key y)
    (l : List α) (c : κ) :
    (modWhere (fun y => key y == x) f l).find? (fun y => key y == c)
      = (l.find? (fun y => key y == c)).map (fun y => if c = x then f y else y) := by
  induction l with
  | nil => rfl
  | cons y r ih =>
    unfold modWhere at ih ⊢
    rw [List.map_cons, List.find?_cons, List.find?_cons]
    have e : key (if (key y == x) = true then f y else y) = key y := by split <;> simp only [hf]
    simp only [e]
    by_cases h : key y = c
    · subst h
      by_cases hy : key y = x
      · simp only [hy, beq_self_eq_true, if_true, Option.map_some]
      · simp only [beq_self_eq_true, beq_iff_eq, hy, if_false, Option.map_some]
    · simp only [beq_false_of_ne h, ih]

theorem find_replaceWhere {α κ : Type} [DecidableEq κ] (key : α → κ) (x : α) (l : List α) (c : κ) :
    (modWhere (fun y => key y == key x) (fun _ => x) l).find? (fun y => key y == c)
      = if c = key x then (l.find? (fun y => key y == c)).map (fun _ => x) else l.find? (fun y => key y == c) := by
  induction l with
  | nil => simp [modWhere]
  | cons y r ih =>
    unfold modWhere at ih ⊢
    rw [List.map_cons, List.find?_cons, List.find?_cons]
    have e : key (if (key y == key x) = true then x else y) = key y := by
      split
      · rename_i h; exact (eq_of_beq h).symm
      · rfl
    simp only [e]
    by_cases h : key y = c
    · subst h
      by_cases hy : key y = key x
      · simp only [hy, beq_self_eq_true, if_true, Option.map_some]
      · simp only [beq_self_eq_true, beq_iff_eq, hy, if_false]
    · simp only [beq_false_of_ne h, ih]

/-! Cores. -/

theorem State.core_setCore (s : State) (k : Core) (c : CoreId) : (s.setCore k).core c = if c = k.id then k else s.core c := by
  unfold State.core State.setCore
  simp only
  rw [find_putWhere Core.id]
  split <;> simp_all

@[simp] theorem State.core_id (s : State) (c : CoreId) : (s.core c).id = c := by
  unfold State.core
  cases h : s.cores.find? (fun k => k.id == c) with
  | none => rfl
  | some k => simpa using List.find?_some h

@[simp] theorem State.core_tick (s : State) (n : Nat) (c : CoreId) : (s.tick n).core c = s.core c := rfl
@[simp] theorem State.core_post (s : State) (d : Nat) (i : Due) (c : CoreId) : (s.post d i).core c = s.core c := rfl
@[simp] theorem State.core_later (s : State) (i : Due) (c : CoreId) : (s.later i).core c = s.core c := rfl
@[simp] theorem State.core_setMreg (s : State) (o : Nat) (v : DWord) (c : CoreId) : (s.setMreg o v).core c = s.core c := rfl

/-! Teams of a core, waves of a team, threads of a wave. -/

theorem Core.team_setTeam (k : Core) (t : Team) (o : Nat) :
    (k.setTeam t).team o = if o = t.oid then (k.team o).map (fun _ => t) else k.team o :=
  find_replaceWhere Team.oid t k.teams o

theorem Core.team_oid {k : Core} {o : Nat} {t : Team} (h : k.team o = some t) : t.oid = o := by
  simpa using List.find?_some h

@[simp] theorem Core.setTeam_id (k : Core) (t : Team) : (k.setTeam t).id = k.id := rfl
@[simp] theorem Core.count_id (k : Core) (n m : Nat) : (k.count n m).id = k.id := rfl
@[simp] theorem Core.count_teams (k : Core) (n m : Nat) : (k.count n m).teams = k.teams := rfl

theorem Team.wave_setWave (t : Team) (w : Wave) (n : Nat) :
    (t.setWave w).wave n = if n = w.wid then (t.wave n).map (fun _ => w) else t.wave n :=
  find_replaceWhere Wave.wid w t.waves n

theorem Team.wave_wid {t : Team} {n : Nat} {w : Wave} (h : t.wave n = some w) : w.wid = n := by
  simpa using List.find?_some h

@[simp] theorem Team.setWave_oid (t : Team) (w : Wave) : (t.setWave w).oid = t.oid := rfl

theorem Wave.thread_modThread (w : Wave) (t u : Nat) (f : Thread → Thread) :
    (w.modThread t f).thread u = if u = t ∧ t < 32 then f (w.thread t) else w.thread u := by
  unfold Wave.modThread Wave.thread
  exact getD_putAt 32 ({} : Thread) (f (w.threads.getD t {})) t u w.threads

theorem Wave.thread_modThread_other (w : Wave) {t u : Nat} (f : Thread → Thread) (h : u ≠ t) :
    (w.modThread t f).thread u = w.thread u := by simp [Wave.thread_modThread, h]

theorem Wave.thread_modThread_same (w : Wave) {t : Nat} (f : Thread → Thread) (h : t < 32) :
    (w.modThread t f).thread t = f (w.thread t) := by simp [Wave.thread_modThread, h]

end Sys2Proof.Machine
end

