-- ==== Sys2Proof/Laws/Wave.lean ====
section
/-! SUPPORT. Selecting a run, rotation, settling at a clause boundary and register writes: what each leaves of a wave. -/

namespace Sys2Proof.Machine

/-! A wave but for its scheduling state: what `select`, `boundary` and the like may change is left out. -/

/-- A thread but for its place in the PC table. -/
def Thread.strip (t : Thread) : Thread := { t with tier := 0, rq := 0, demoted := 0, yld := false }

/-- The wave but for its threads, its run and its detector. -/
def Wave.rest (w : Wave) : Wave :=
  { w with threads := [], run := 0, timer := 0, prev := 0, ended := false, kcWait := false, det := {} }

/-- Two waves differ in scheduling state alone. -/
def Wave.Like (a b : Wave) : Prop := (∀ t, (a.thread t).strip = (b.thread t).strip) ∧ a.rest = b.rest

theorem Wave.Like.refl (a : Wave) : a.Like a := ⟨fun _ => rfl, rfl⟩

theorem Wave.Like.trans {a b c : Wave} (h : a.Like b) (g : b.Like c) : a.Like c :=
  ⟨fun t => (h.1 t).trans (g.1 t), h.2.trans g.2⟩

theorem Wave.like_modThread (w : Wave) (t : Nat) (f : Thread → Thread) (hf : ∀ h, (f h).strip = h.strip) :
    (w.modThread t f).Like w := by
  refine ⟨fun u => ?_, rfl⟩
  rw [Wave.thread_modThread]
  split
  · rename_i h; rw [hf, h.1]
  · rfl

theorem Wave.like_fold {β : Type} (f : Wave → β → Wave) (hf : ∀ w b, (f w b).Like w) (l : List β) (w : Wave) :
    (l.foldl f w).Like w := by
  induction l generalizing w with
  | nil => exact .refl w
  | cons b r ih => exact (ih (f w b)).trans (hf w b)

/-- A change of scheduling fields alone. -/
theorem Wave.like_of {a b : Wave} (ht : a.threads = b.threads) (hr : a.rest = b.rest) : a.Like b :=
  ⟨fun t => by unfold Wave.thread; rw [ht], hr⟩

theorem Wave.like_upd {a b w : Wave} (ht : a.threads = b.threads) (hr : a.rest = b.rest) (h : b.Like w) : a.Like w :=
  (like_of ht hr).trans h

theorem Wave.like_kcWait (w : Wave) (b : Bool) : ({ w with kcWait := b } : Wave).Like w := like_of rfl rfl

/-- A fold of changes of scheduling fields. -/
theorem Wave.like_fold_mod (f : Thread → Thread) (hf : ∀ h, (f h).strip = h.strip) (l : List Nat) (w : Wave) :
    (l.foldl (fun w t => w.modThread t f) w).Like w :=
  like_fold _ (fun _ _ => like_modThread _ _ f hf) l w

theorem Wave.select_like (w : Wave) : w.select.Like w := by
  unfold Wave.select
  split
  · split
    · exact like_of rfl rfl
    · refine like_upd (b := List.foldl _ w _) rfl rfl (like_fold_mod _ ?_ _ w)
      intro h
      rfl
  · exact .refl w

theorem Wave.rotate_like (w : Wave) (ts : List Nat) : (w.rotate ts).Like w := by
  unfold Wave.rotate
  split
  · exact .refl w
  · refine like_upd (b := List.foldl _ w _) rfl rfl (like_fold_mod _ ?_ _ w)
    intro h
    rfl

theorem Wave.level_like (w : Wave) : w.level.Like w := by
  unfold Wave.level
  split
  · exact .refl w
  · split
    · refine like_fold_mod _ ?_ _ w
      intro h
      rfl
    · exact .refl w

theorem Wave.boundary_like (prog : Bool) (fair : Nat) (w : Wave) : (w.boundary prog fair).Like w := by
  unfold Wave.boundary
  extract_lets ms ys w1 w2 w3 u
  have h1 : w1.Like w := by
    simp only [w1]
    split
    · exact .refl w
    · exact rotate_like _ _
  have h2 : w2.Like w := by
    simp only [w2]
    split
    · exact (rotate_like _ _).trans h1
    · exact h1
  have h3 : w3.Like w := by
    simp only [w3]
    refine Like.trans (like_fold_mod _ ?_ _ w2) h2
    intro h
    rfl
  have h4 : u.Like w := (level_like _).trans h3
  clear_value u
  exact like_upd (b := u) rfl rfl h4

theorem Wave.settle_like (prog : Bool) (fair : Nat) (edge : Bool) (w : Wave) : (w.settle prog fair edge).Like w := by
  unfold Wave.settle
  split
  · exact boundary_like _ _ w
  · exact level_like _

theorem Wave.spend_like (w : Wave) (n : Nat) : (w.spend n).Like w := by
  unfold Wave.spend
  split
  · exact .refl w
  · exact like_of rfl rfl

/-! What a wave's registers are, seen through `Like`. -/

theorem Thread.strip_v {a b : Thread} (h : a.strip = b.strip) : a.v = b.v := congrArg (·.v) h
theorem Thread.strip_p {a b : Thread} (h : a.strip = b.strip) : a.p = b.p := congrArg (·.p) h
theorem Thread.strip_pc {a b : Thread} (h : a.strip = b.strip) : a.pc = b.pc := congrArg (·.pc) h
theorem Thread.strip_cb {a b : Thread} (h : a.strip = b.strip) : a.cb = b.cb := congrArg (·.cb) h
theorem Thread.strip_mark {a b : Thread} (h : a.strip = b.strip) : a.mark = b.mark := congrArg (·.mark) h
theorem Thread.strip_hdr {a b : Thread} (h : a.strip = b.strip) : a.hdr = b.hdr := congrArg (·.hdr) h
theorem Thread.strip_life {a b : Thread} (h : a.strip = b.strip) : a.life = b.life := congrArg (·.life) h
theorem Thread.strip_rcd {a b : Thread} (h : a.strip = b.strip) : a.rcd = b.rcd := congrArg (·.rcd) h
theorem Wave.Like.s {a b : Wave} (h : a.Like b) : a.s = b.s := congrArg (·.s) h.2
theorem Wave.Like.b {a b : Wave} (h : a.Like b) : a.b = b.b := congrArg (·.b) h.2
theorem Wave.Like.wid {a b : Wave} (h : a.Like b) : a.wid = b.wid := congrArg (·.wid) h.2
theorem Wave.Like.ops {a b : Wave} (h : a.Like b) : a.ops = b.ops := congrArg (·.ops) h.2

end Sys2Proof.Machine
end

