-- ==== Sys2Proof/Laws/Registers.lean ====
section
/-! SUPPORT. Register writes: a register reads as the last write to it, and no other register changes (R17, R126). -/

namespace Sys2Proof.Machine

/-- A field written and read back bit by bit. -/
theorem hasBit_setBits_one {n : Nat} (x : BitVec n) (k m : Nat) (b : Bool) (hk : k < n) :
    hasBit (setBits x k (BitVec.ofBool b)) m = if m = k then b else hasBit x m := by
  unfold hasBit setBits
  by_cases h : m = k
  · subst h
    cases b <;> simp [hk]
  · by_cases h1 : m < k
    · simp [h, h1]
      intro g
      exact BitVec.lt_of_getLsbD g
    · have h2 : 1 ≤ m - k := by omega
      cases b <;> simp [h, h1, h2]
      all_goals
        by_cases g : m < n
        · simp [g]; try omega
        · simp [BitVec.getLsbD_of_ge x m (by omega)]

@[simp] theorem Thread.reg_setPred (t : Thread) (n : Nat) (b : Bool) (m : Nat) : (t.setPred n b).reg m = t.reg m := by
  unfold Thread.setPred; split <;> rfl

theorem Thread.pred_setPred (t : Thread) (n : Nat) (b : Bool) {m : Nat} (hm : m < 31) :
    (t.setPred n b).pred m = if m = n then b else t.pred m := by
  have h31 : (m == 31) = false := by simp; omega
  unfold Thread.setPred
  split
  · rename_i h
    simp [show ¬ m = n by omega]
  · simp only [Thread.pred, h31, Bool.false_or]
    by_cases hn : n < 32
    · exact hasBit_setBits_one t.p n m b hn
    · have e : ∀ c : BitVec 1, setBits t.p n c = t.p := by
        intro c
        unfold setBits
        have z : ∀ y : BitVec 32, y <<< n = 0 := fun y => by
          apply BitVec.eq_of_getLsbD_eq
          intro i hi
          simp; omega
        simp only [z]
        show t.p &&& BitVec.allOnes 32 ||| 0 = t.p
        simp only [BitVec.and_allOnes]
        exact BitVec.or_zero
      rw [e]
      simp [show ¬ m = n by omega]

/-! Folds of writes. -/

theorem Wave.reg_apply (w : Wave) (q : RegWrite) {t n : Nat} (ht : t < 32) (hn : n < 64) :
    ((q.apply w).thread t).reg n = (lastV [q] t n).getD ((w.thread t).reg n) := by
  cases q with
  | v u m x =>
    simp only [RegWrite.apply, lastV, Wave.thread_modThread, Option.none_or]
    by_cases h : u = t
    · subst h
      simp only [ht, and_self, if_true, Thread.reg, getD_putAt, true_and]
      by_cases g : m = n
      · subst g; simp [hn]
      · simp [g, Ne.symm g]
    · simp [h, Ne.symm h]
  | p u m x =>
    simp only [RegWrite.apply, lastV, Wave.thread_modThread, Option.none_or]
    split
    · rename_i h; simp [h.1]
    · rfl
  | s m x => rfl
  | b m x => rfl

theorem Wave.pred_apply (w : Wave) (q : RegWrite) {t n : Nat} (ht : t < 32) (hn : n < 31) :
    ((q.apply w).thread t).pred n = (lastP [q] t n).getD ((w.thread t).pred n) := by
  cases q with
  | v u m x =>
    simp only [RegWrite.apply, lastP, Wave.thread_modThread, Option.none_or]
    split
    · rename_i h; simp [h.1, Thread.pred]
    · rfl
  | p u m x =>
    simp only [RegWrite.apply, lastP, Wave.thread_modThread, Option.none_or]
    by_cases h : u = t
    · subst h
      simp only [ht, and_self, if_true, Thread.pred_setPred _ _ _ hn, true_and]
      by_cases g : m = n
      · subst g; simp
      · simp [g, Ne.symm g]
    · simp [h, Ne.symm h]
  | s m x => rfl
  | b m x => rfl

theorem Wave.sreg_apply (w : Wave) (q : RegWrite) {n : Nat} (hn : n < 64) :
    (q.apply w).sreg n = (lastS [q] n).getD (w.sreg n) := by
  cases q with
  | s m x =>
    simp only [RegWrite.apply, lastS, Wave.sreg, getD_putAt, Option.none_or]
    by_cases g : m = n
    · subst g; simp [hn]
    · simp [g, Ne.symm g]
  | _ => rfl

theorem Wave.breg_apply (w : Wave) (q : RegWrite) {n : Nat} (hn : n < 16) :
    (q.apply w).breg n = (lastB [q] n).getD (w.breg n) := by
  cases q with
  | b m x =>
    simp only [RegWrite.apply, lastB, Wave.breg, getD_putAt, Option.none_or]
    by_cases g : m = n
    · subst g; simp [hn]
    · simp [g, Ne.symm g]
  | _ => rfl

theorem Wave.reg_fold (w : Wave) (ws : List RegWrite) {t n : Nat} (ht : t < 32) (hn : n < 64) :
    ((ws.foldl RegWrite.apply w).thread t).reg n = (lastV ws t n).getD ((w.thread t).reg n) := by
  induction ws generalizing w with
  | nil => rfl
  | cons q r ih =>
    rw [List.foldl_cons, ih, Wave.reg_apply w q ht hn]
    cases h : lastV r t n <;> simp [lastV, h]

theorem Wave.pred_fold (w : Wave) (ws : List RegWrite) {t n : Nat} (ht : t < 32) (hn : n < 31) :
    ((ws.foldl RegWrite.apply w).thread t).pred n = (lastP ws t n).getD ((w.thread t).pred n) := by
  induction ws generalizing w with
  | nil => rfl
  | cons q r ih =>
    rw [List.foldl_cons, ih, Wave.pred_apply w q ht hn]
    cases h : lastP r t n <;> simp [lastP, h]

theorem Wave.sreg_fold (w : Wave) (ws : List RegWrite) {n : Nat} (hn : n < 64) :
    (ws.foldl RegWrite.apply w).sreg n = (lastS ws n).getD (w.sreg n) := by
  induction ws generalizing w with
  | nil => rfl
  | cons q r ih =>
    rw [List.foldl_cons, ih, Wave.sreg_apply w q hn]
    cases h : lastS r n <;> simp [lastS, h]

theorem Wave.breg_fold (w : Wave) (ws : List RegWrite) {n : Nat} (hn : n < 16) :
    (ws.foldl RegWrite.apply w).breg n = (lastB ws n).getD (w.breg n) := by
  induction ws generalizing w with
  | nil => rfl
  | cons q r ih =>
    rw [List.foldl_cons, ih, Wave.breg_apply w q hn]
    cases h : lastB r n <;> simp [lastB, h]

end Sys2Proof.Machine
end

