-- ==== Sys2Proof/Laws/Ctx.lean ====
section
/-! SUPPORT. The instruction in hand: what the small operations on it change, and the state they lead to. -/

namespace Sys2Proof.Machine

/-! What no step of an instruction changes: everything but registers, threads, scheduling, counters, flags and the log. -/

def Ctx.rest (x : Ctx) : Ctx :=
  { x with
    s := { x.s with agenda := [], ctr := 0 }
    core := { x.core with perf := [], cur := x.core.cur.map fun h => { h with log := [] } }
    team := { x.team with leave := none, fps := 0 }
    wave := { x.wave.rest with s := [], b := [] } }

@[simp] theorem Ctx.rest_log (x : Ctx) (ks : List LogKey) : (x.log ks).rest = x.rest := by
  unfold Ctx.rest Ctx.log Ctx.modCore
  simp only [Option.map_map]
  rfl

theorem Wave.rest_apply (w : Wave) (q : RegWrite) :
    ({ (q.apply w).rest with s := [], b := [] } : Wave) = { w.rest with s := [], b := [] } := by
  cases q <;> rfl

theorem Wave.rest_fold (ws : List RegWrite) (w : Wave) :
    ({ (ws.foldl RegWrite.apply w).rest with s := [], b := [] } : Wave) = { w.rest with s := [], b := [] } := by
  induction ws generalizing w with
  | nil => rfl
  | cons q r ih => rw [List.foldl_cons, ih, Wave.rest_apply]

@[simp] theorem Ctx.rest_write (x : Ctx) (ws : List RegWrite) : (x.write ws).rest = x.rest := by
  unfold Ctx.write
  have h : ∀ y : Ctx, (y.modWave fun w => w.write x.team.prog ws).rest = y.rest := by
    intro y
    have e : ({ (y.wave.write x.team.prog ws).rest with s := [], b := [] } : Wave) = { y.wave.rest with s := [], b := [] } := by
      unfold Wave.write
      split
      · exact Wave.rest_fold _ _
      · exact Wave.rest_fold _ _
    unfold Ctx.rest Ctx.modWave
    simp only [e]
  rw [h, Ctx.rest_log]

@[simp] theorem Ctx.rest_modThread (x : Ctx) (t : Nat) (f : Thread → Thread) : (x.modThread t f).rest = x.rest := rfl

theorem Ctx.rest_modWave (x : Ctx) (f : Wave → Wave)
    (h : ({ (f x.wave).rest with s := [], b := [] } : Wave) = { x.wave.rest with s := [], b := [] }) :
    (x.modWave f).rest = x.rest := by
  unfold Ctx.rest Ctx.modWave
  simp only [h]

@[simp] theorem Ctx.rest_trapAt (x : Ctx) (t : Nat) (tr : Trap) (pc cb : WAddr) : (x.trapAt t tr pc cb).rest = x.rest := by
  unfold Ctx.trapAt
  extract_lets r x1
  have h1 : x1.rest = x.rest := by
    refine (Ctx.rest_modWave _ _ ?_).trans (Ctx.rest_log x _)
    rfl
  split
  · exact h1
  · refine Eq.trans ?_ h1
    clear_value x1
    unfold Ctx.modState Ctx.modTeam Ctx.rest
    have e : ∀ (tm : Team) c, ({ tm.faulted c with leave := none, fps := 0 } : Team) = { tm with leave := none, fps := 0 } := by
      intro tm c
      unfold Team.faulted
      split <;> rfl
    simp only [e]
    rfl

theorem Ctx.rest_foldl {β : Type} (f : Ctx → β → Ctx) (hf : ∀ x b, (f x b).rest = x.rest) (l : List β) (x : Ctx) :
    (l.foldl f x).rest = x.rest := by
  induction l generalizing x with
  | nil => rfl
  | cons b r ih => rw [List.foldl_cons, ih, hf]

@[simp] theorem Ctx.rest_trapAll (x : Ctx) (ts : List Nat) (tr : Nat → Trap) : (x.trapAll ts tr).rest = x.rest :=
  Ctx.rest_foldl _ (fun y t => Ctx.rest_trapAt y t _ _ _) ts x

@[simp] theorem Ctx.rest_fallThrough (x : Ctx) (t : Nat) : (x.fallThrough t).rest = x.rest := rfl

@[simp] theorem Ctx.rest_next (x : Ctx) : x.next.rest = x.rest :=
  Ctx.rest_foldl Ctx.fallThrough (fun _ _ => rfl) _ x

@[simp] theorem Ctx.rest_park (x : Ctx) (t : Nat) (ks : List FaultKey) : (x.park t ks).rest = x.rest := rfl

/-! Reading through `rest`. -/

theorem Ctx.rest_w {x y : Ctx} (h : x.rest = y.rest) : x.w = y.w := congrArg (·.w) h
theorem Ctx.rest_run {x y : Ctx} (h : x.rest = y.rest) : x.run = y.run := congrArg (·.run) h
theorem Ctx.rest_pc {x y : Ctx} (h : x.rest = y.rest) : x.pc = y.pc := congrArg (·.pc) h
theorem Ctx.rest_cb {x y : Ctx} (h : x.rest = y.rest) : x.cb = y.cb := congrArg (·.cb) h
theorem Ctx.rest_wid {x y : Ctx} (h : x.rest = y.rest) : x.wave.wid = y.wave.wid := congrArg (·.wave.wid) h
theorem Ctx.rest_oid {x y : Ctx} (h : x.rest = y.rest) : x.team.oid = y.team.oid := congrArg (·.team.oid) h
theorem Ctx.rest_waves {x y : Ctx} (h : x.rest = y.rest) : x.team.waves = y.team.waves := congrArg (·.team.waves) h
theorem Ctx.rest_id {x y : Ctx} (h : x.rest = y.rest) : x.core.id = y.core.id := congrArg (·.core.id) h
theorem Ctx.rest_teams {x y : Ctx} (h : x.rest = y.rest) : x.core.teams = y.core.teams := congrArg (·.core.teams) h
theorem Ctx.rest_tve {x y : Ctx} (h : x.rest = y.rest) : x.team.desc = y.team.desc := congrArg (·.team.desc) h
theorem Ctx.rest_pbase {x y : Ctx} (h : x.rest = y.rest) : x.team.pbase = y.team.pbase := congrArg (·.team.pbase) h

/-! The instruction in hand names what stands in the state. -/

/-- `x` is about the wave `x.w`, which stands in the state. -/
structure Ctx.Ok (x : Ctx) : Prop where
  id : x.core.id = x.w.core
  oid : x.team.oid = x.w.team
  wid : x.wave.wid = x.w.wid
  team : ∃ t, x.core.team x.w.team = some t
  wave : ∃ v, x.team.wave x.w.wid = some v

theorem Ctx.Ok.of_rest {x y : Ctx} (h : x.Ok) (e : y.rest = x.rest) : y.Ok where
  id := by rw [Ctx.rest_id e, Ctx.rest_w e, h.id]
  oid := by rw [Ctx.rest_oid e, Ctx.rest_w e, h.oid]
  wid := by rw [Ctx.rest_wid e, Ctx.rest_w e, h.wid]
  team := by unfold Core.team; rw [Ctx.rest_teams e, Ctx.rest_w e]; exact h.team
  wave := by unfold Team.wave; rw [Ctx.rest_waves e, Ctx.rest_w e]; exact h.wave

/-- What a context holds of the state it was taken from. -/
structure State.Holds (s : State) (x : Ctx) : Prop where
  st : x.s = s
  core : x.core = s.core x.w.core
  team : (s.core x.w.core).team x.w.team = some x.team
  wave : ∃ v, x.team.wave x.w.wid = some v ∧ x.wave = v.select
  run : x.run = x.wave.members
  some_ : x.run ≠ []
  pc : ∃ h hs, x.run = h :: hs ∧ x.pc = (x.wave.thread h).pc ∧ x.cb = (x.wave.thread h).cb

theorem State.ctxAt_holds {s : State} {w : WaveId} {x : Ctx} (h : s.ctxAt w = some x) : x.w = w ∧ s.Holds x := by
  unfold State.ctxAt State.waveAt at h
  cases ht : (s.core w.core).team w.team with
  | none => simp [ht] at h
  | some t =>
    simp only [ht] at h
    cases hv : t.wave w.wid with
    | none => simp [hv] at h
    | some v =>
      simp only [hv, Option.map_some] at h
      cases hm : v.select.members with
      | nil => simp [hm] at h
      | cons a as =>
        simp only [hm, Option.some.injEq] at h
        subst h
        exact ⟨rfl, rfl, rfl, ht, ⟨v, hv, rfl⟩, hm.symm, by simp, ⟨a, as, rfl, rfl, rfl⟩⟩

theorem State.ctx_holds {s : State} {x : Ctx} (h : s.ctx = some x) : s.focus = .wave x.w ∧ s.Holds x := by
  unfold State.ctx at h
  cases hf : s.focus with
  | none => simp [hf] at h
  | seq c t => simp [hf] at h
  | wave w =>
    simp only [hf] at h
    obtain ⟨e, g⟩ := State.ctxAt_holds h
    exact ⟨by rw [e], g⟩

theorem State.Holds.ok {s : State} {x : Ctx} (h : s.Holds x) : x.Ok where
  id := by rw [h.core, State.core_id]
  oid := Core.team_oid h.team
  wid := by
    obtain ⟨v, hv, e⟩ := h.wave
    rw [e, (Wave.select_like v).wid]
    exact Team.wave_wid hv
  team := ⟨x.team, by rw [h.core]; exact h.team⟩
  wave := by obtain ⟨v, hv, -⟩ := h.wave; exact ⟨v, hv⟩

/-! The state that a context leads to. -/

theorem Ctx.Ok.state_teamOf {x : Ctx} (h : x.Ok) : x.state.teamOf x.w = some (x.team.setWave x.wave) := by
  obtain ⟨t, ht⟩ := h.team
  unfold Ctx.state State.teamOf
  rw [State.core_setCore, Core.setTeam_id, h.id]
  simp only [if_true]
  rw [Core.team_setTeam]
  simp [h.oid, ht]

theorem Ctx.Ok.state_waveAt {x : Ctx} (h : x.Ok) : x.state.waveAt x.w = some (x.team.setWave x.wave, x.wave) := by
  obtain ⟨v, hv⟩ := h.wave
  have e := h.state_teamOf
  unfold State.teamOf at e
  unfold State.waveAt
  rw [e]
  simp only
  rw [Team.wave_setWave]
  simp [h.wid, hv]

theorem Ctx.Ok.state_threadAt {x : Ctx} (h : x.Ok) (t : Nat) : x.state.threadAt x.w t = x.wave.thread t := by
  unfold State.threadAt; rw [h.state_waveAt]

theorem Ctx.Ok.state_sreg {x : Ctx} (h : x.Ok) (n : Nat) : x.state.sreg x.w n = x.wave.sreg n := by
  unfold State.sreg; rw [h.state_waveAt]

theorem Ctx.Ok.state_breg {x : Ctx} (h : x.Ok) (n : Nat) : x.state.breg x.w n = x.wave.breg n := by
  unfold State.breg; rw [h.state_waveAt]

theorem State.Holds.threadAt {s : State} {x : Ctx} (h : s.Holds x) (t : Nat) :
    (s.threadAt x.w t).strip = (x.wave.thread t).strip := by
  obtain ⟨v, hv, e⟩ := h.wave
  unfold State.threadAt State.waveAt
  simp only [h.team, hv, Option.map_some, e]
  exact ((Wave.select_like v).1 t).symm

theorem State.Holds.sreg {s : State} {x : Ctx} (h : s.Holds x) (n : Nat) : s.sreg x.w n = x.wave.sreg n := by
  obtain ⟨v, hv, e⟩ := h.wave
  unfold State.sreg State.waveAt
  simp only [h.team, hv, Option.map_some, e]
  unfold Wave.sreg
  rw [(Wave.select_like v).s]

theorem State.Holds.breg {s : State} {x : Ctx} (h : s.Holds x) (n : Nat) : s.breg x.w n = x.wave.breg n := by
  obtain ⟨v, hv, e⟩ := h.wave
  unfold State.breg State.waveAt
  simp only [h.team, hv, Option.map_some, e]
  unfold Wave.breg
  rw [(Wave.select_like v).b]

end Sys2Proof.Machine
end

