-- ==== Sys2Proof/Laws/Issue.lean ====
section
/-! SUPPORT. One lemma for each shared operation of an instruction that delivers results: it says everything the operation
does. -/

namespace Sys2Proof.Machine

/-! Nothing outside the wave. -/

/-- A context that agrees with the state but in what an instruction may change, written back, changes its wave alone. -/
theorem State.Holds.waveOnly {s : State} {x y : Ctx} (h : s.Holds x) (e : y.rest = x.rest)
    (a : s.agenda <+: y.s.agenda) : s.WaveOnly y.state x.w := by
  have hy : y.Ok := h.ok.of_rest e
  have ew : y.w = x.w := Ctx.rest_w e
  have es : ({ y.s with agenda := [], ctr := 0 } : State) = { s with agenda := [], ctr := 0 } := by
    have := congrArg (·.s) e
    simpa only [Ctx.rest, h.st] using this
  have core : ∀ c, c ≠ x.w.core → y.state.core c = s.core c := by
    intro c hc
    unfold Ctx.state
    rw [State.core_setCore, Core.setTeam_id, hy.id, ew]
    simp only [hc, if_false]
    have g := congrArg (fun q : State => q.core c) es
    exact g
  have here : y.state.core x.w.core = y.core.setTeam (y.team.setWave y.wave) := by
    unfold Ctx.state
    rw [State.core_setCore, Core.setTeam_id, hy.id, ew]
    simp only [if_true]
  have eteams : y.core.teams = (s.core x.w.core).teams := by rw [Ctx.rest_teams e, h.core]
  have tm : y.state.teamOf x.w = some (y.team.setWave y.wave) := by rw [← ew]; exact hy.state_teamOf
  have tm0 : s.teamOf x.w = some x.team := h.team
  refine ⟨?_, ?_, core, ?_, ?_, ?_, ?_, ?_⟩
  · have : ({ y.state with cycle := s.cycle, agenda := s.agenda, cores := s.cores, ctr := s.ctr } : State)
        = { ({ y.s with agenda := [], ctr := 0 } : State) with
            cycle := s.cycle, agenda := s.agenda, cores := s.cores, ctr := s.ctr } := rfl
    rw [this, es]
  · exact a
  · rw [here, ← h.core]
    have g := congrArg (fun q : Ctx => ({ q.core with teams := [], code := [] } : Core)) e
    exact g
  · intro o ho
    rw [here, Core.team_setTeam]
    have : y.team.oid = x.w.team := by rw [hy.oid, ew]
    rw [Team.setWave_oid, this]
    simp only [ho, if_false]
    unfold Core.team
    rw [eteams]
  · rw [tm, tm0]
    have g := congrArg (fun q : Ctx => some ({ q.team with waves := [] } : Team)) e
    exact g
  · intro n hn
    rw [tm, tm0]
    simp only [Option.map_some]
    rw [Team.wave_setWave, hy.wid, ew]
    simp only [hn, if_false]
    unfold Team.wave
    rw [Ctx.rest_waves e]
  · have e1 : y.state.waveAt x.w = some (y.team.setWave y.wave, y.wave) := by rw [← ew]; exact hy.state_waveAt
    obtain ⟨v, hv, ev⟩ := h.wave
    have e2 : s.waveAt x.w = some (x.team, v) := by
      unfold State.waveAt
      simp only [h.team, hv, Option.map_some]
    rw [e1, e2]
    have e3 : ({ y.wave.rest with s := [], b := [] } : Wave) = { v.rest with s := [], b := [] } := by
      have g := congrArg (fun q : Ctx => q.wave) e
      change ({ y.wave.rest with s := [], b := [] } : Wave) = { x.wave.rest with s := [], b := [] } at g
      rw [g, ev, (Wave.select_like v).2]
    have g := congrArg (fun q : Wave => some (q.ops, q.role, q.budget, q.lane, q.unit)) e3
    exact g

/-- Two changes of one wave after another. -/
theorem State.WaveOnly.of_eq {s t : State} {w : WaveId} (h : s.WaveOnly t w) {c : Nat} {a : List (Nat × Due)}
    (ha : t.agenda <+: a) : s.WaveOnly { t with cycle := c, agenda := a } w where
  rest := h.rest
  agenda := h.agenda.trans ha
  cores := h.cores
  core := h.core
  teams := h.teams
  team := h.team
  waves := h.waves
  ops := h.ops

/-! `close` and `hold`. -/

/-- What `close` leaves: the wave but for scheduling state, the counters, the team's reason to leave if its last wave has
ended, the time and perhaps a retirement on the agenda. -/
theorem Ctx.close_eq (x : Ctx) (cost ops : Nat) (edge : Bool := false) (words : Nat := 1) : ∃ (z : Ctx) (a : List (Nat × Due)),
    z.rest = x.rest ∧ z.wave.Like x.wave ∧ z.s = x.s ∧ z.team.fps = x.team.fps ∧
    x.close cost ops edge words = { z.state with cycle := x.s.cycle + cost, agenda := x.s.agenda ++ a } ∧
    z.w = x.w ∧ ({ z.core with perf := [] } : Core) = { x.core with perf := [] } ∧
    ({ z.team with leave := none } : Team) = { x.team with leave := none } := by
  unfold Ctx.close
  extract_lets y team z
  have hl : y.wave.Like x.wave :=
    (Wave.like_kcWait ((x.wave.spend cost).settle x.team.prog x.team.fair edge) false).trans
      ((Wave.settle_like _ _ _ _).trans (Wave.spend_like _ _))
  have hs : y.s = x.s := rfl
  have hf : y.team = x.team := rfl
  have ec : ({ y.core with perf := [] } : Core) = { x.core with perf := [] } := rfl
  have ed : y = { x with core := y.core, wave := y.wave } := rfl
  clear_value y
  have hr : y.rest = x.rest := by
    have e : y.wave.rest = x.wave.rest := hl.2
    rw [ed]
    unfold Ctx.rest
    have ec2 := congrArg (fun k : Core => ({ k with cur := k.cur.map fun h => { h with log := [] } } : Core)) ec
    change ({ y.core with perf := [], cur := y.core.cur.map fun h => { h with log := [] } } : Core)
        = { x.core with perf := [], cur := x.core.cur.map fun h => { h with log := [] } } at ec2
    simp only [e, ec2]
  split
  · refine ⟨y.modTeam fun t => { t with leave := some .retire }, [(y.s.cycle + 0, .teamRetire x.w.core x.w.team)], ?_, hl,
      hs, ?_, ?_, ?_, ec, ?_⟩
    · exact hr
    · exact congrArg (·.fps) hf
    · rw [← hs]
      rfl
    · rw [ed]; rfl
    · have := congrArg (fun t : Team => ({ t with leave := none } : Team)) hf
      exact this
  · refine ⟨y, [], hr, hl, hs, congrArg (·.fps) hf, ?_, ?_, ec, ?_⟩
    · rw [← hs, List.append_nil]
      rfl
    · rw [ed]
    · exact congrArg (fun t : Team => ({ t with leave := none } : Team)) hf

/-- A held instruction changes scheduling state and time alone. -/
theorem Ctx.hold_eq (x : Ctx) : ∃ z : Ctx, z.rest = x.rest ∧ z.wave.Like x.wave ∧ z.s = x.s ∧ z.team = x.team ∧ z.core = x.core ∧
    x.hold = { z.state with cycle := x.s.cycle + 1 } := by
  refine ⟨x.modWave fun w => w.spend 1, ?_, Wave.spend_like _ _, rfl, rfl, rfl, rfl⟩
  refine Ctx.rest_modWave _ _ ?_
  rw [(Wave.spend_like x.wave 1).2]

/-! Traps. -/

@[simp] theorem Thread.take_v (tm : Team) (tr : Trap) (pc cb : WAddr) (h : Thread) : (h.take tm tr pc cb).1.v = h.v := by
  unfold Thread.take; split <;> (try split) <;> rfl

@[simp] theorem Thread.take_p (tm : Team) (tr : Trap) (pc cb : WAddr) (h : Thread) : (h.take tm tr pc cb).1.p = h.p := by
  unfold Thread.take; split <;> (try split) <;> rfl

@[simp] theorem Thread.take_hdr (tm : Team) (tr : Trap) (pc cb : WAddr) (h : Thread) : (h.take tm tr pc cb).1.hdr = h.hdr := by
  unfold Thread.take; split <;> (try split) <;> rfl

/-- Taking a trap looks at the team's descriptor and program base alone. -/
theorem Thread.take_congr {a b : Team} (hd : a.desc = b.desc) (hp : a.pbase = b.pbase) (tr : Trap) (pc cb : WAddr)
    (h : Thread) : h.take a tr pc cb = h.take b tr pc cb := by
  unfold Thread.take Team.tve Team.tvec
  rw [hd, hp]

/-- The PC, record and life after a trap do not depend on the thread's place in the PC table. -/
theorem Thread.take_strip {g h : Thread} (e : g.strip = h.strip) (tm : Team) (tr : Trap) (pc cb : WAddr) :
    (g.take tm tr pc cb).1.pc = (h.take tm tr pc cb).1.pc ∧ (g.take tm tr pc cb).1.rcd = (h.take tm tr pc cb).1.rcd ∧
    (g.take tm tr pc cb).1.life = (h.take tm tr pc cb).1.life := by
  have hr : g.rcd = h.rcd := Thread.strip_rcd e
  have hp : g.pc = h.pc := Thread.strip_pc e
  have hh : g.hnd = h.hnd := by unfold Thread.hnd; rw [hr]
  unfold Thread.take
  rw [hh]
  split
  · exact ⟨hp, hr, rfl⟩
  · dsimp only
    split
    · have hl : g.life = h.life := Thread.strip_life e
      exact ⟨rfl, rfl, hl⟩
    · exact ⟨hp, rfl, rfl⟩

theorem Ctx.thread_trapAt (x : Ctx) (t : Nat) (tr : Trap) (pc cb : WAddr) (u : Nat) :
    (x.trapAt t tr pc cb).wave.thread u
      = if u = t ∧ t < 32 then ((x.wave.thread t).take x.team tr pc cb).1 else x.wave.thread u := by
  unfold Ctx.trapAt
  extract_lets r x1
  have h1 : x1.wave.thread u = if u = t ∧ t < 32 then r.1 else x.wave.thread u :=
    Wave.thread_modThread x.wave t u fun _ => r.1
  split
  · exact h1
  · exact h1

theorem Ctx.run_trapAt (x : Ctx) (t : Nat) (tr : Trap) (pc cb : WAddr) :
    (x.trapAt t tr pc cb).wave.run = x.wave.run &&& ~~~bit32 t := by
  unfold Ctx.trapAt
  extract_lets r x1
  split <;> rfl

theorem Ctx.s_trapAt (x : Ctx) (t : Nat) (tr : Trap) (pc cb : WAddr) : (x.trapAt t tr pc cb).wave.s = x.wave.s := by
  unfold Ctx.trapAt
  extract_lets r x1
  split <;> rfl

theorem Ctx.b_trapAt (x : Ctx) (t : Nat) (tr : Trap) (pc cb : WAddr) : (x.trapAt t tr pc cb).wave.b = x.wave.b := by
  unfold Ctx.trapAt
  extract_lets r x1
  split <;> rfl

theorem Ctx.fps_trapAt (x : Ctx) (t : Nat) (tr : Trap) (pc cb : WAddr) : (x.trapAt t tr pc cb).team.fps = x.team.fps := by
  unfold Ctx.trapAt
  extract_lets r x1
  split
  · rfl
  · show (Team.faulted x.team _).fps = x.team.fps
    unfold Team.faulted
    split <;> rfl

theorem Ctx.agenda_trapAt (x : Ctx) (t : Nat) (tr : Trap) (pc cb : WAddr) :
    x.s.agenda <+: (x.trapAt t tr pc cb).s.agenda := by
  unfold Ctx.trapAt
  extract_lets r x1
  split
  · exact List.prefix_refl _
  · exact List.prefix_append _ _

theorem hasBit_bit32 {t u : Nat} (ht : t < 32) : hasBit (bit32 t) u = decide (u = t) := by
  unfold hasBit bit32
  rw [BitVec.getLsbD_shiftLeft]
  by_cases h : u = t
  · subst h; simp [ht]
  · by_cases g : u < t
    · simp [g, h]
    · have e : ¬ u - t = 0 := by omega
      simp [h, e]

theorem hasBit_clear {t u : Nat} (ht : t < 32) (hu : u < 32) (m : BitVec 32) :
    hasBit (m &&& ~~~bit32 t) u = (hasBit m u && !decide (u = t)) := by
  have h := hasBit_bit32 (u := u) ht
  unfold hasBit at h ⊢
  rw [BitVec.getLsbD_and, BitVec.getLsbD_not, h]
  simp [hu]

/-- Several threads trap, each once: each takes its trap and leaves the run; no other thread, and no register, changes. -/
theorem Ctx.trapAll_spec (x : Ctx) (ts : List Nat) (tr : Nat → Trap) (hn : ts.Nodup) (hb : ∀ t ∈ ts, t < 32) :
    (∀ u, (x.trapAll ts tr).wave.thread u
      = if u ∈ ts then ((x.wave.thread u).take x.team (tr u) x.pc (x.wave.thread u).cb).1 else x.wave.thread u)
    ∧ (∀ u, u < 32 → hasBit (x.trapAll ts tr).wave.run u = (hasBit x.wave.run u && !decide (u ∈ ts)))
    ∧ (x.trapAll ts tr).wave.s = x.wave.s ∧ (x.trapAll ts tr).wave.b = x.wave.b
    ∧ (x.trapAll ts tr).team.fps = x.team.fps ∧ x.s.agenda <+: (x.trapAll ts tr).s.agenda := by
  induction ts generalizing x with
  | nil => exact ⟨fun u => by simp [Ctx.trapAll], fun u _ => by simp [Ctx.trapAll], rfl, rfl, rfl, List.prefix_refl _⟩
  | cons t r ih =>
    obtain ⟨h1, h2⟩ := List.nodup_cons.mp hn
    have ht : t < 32 := hb t (by simp)
    have e : x.trapAll (t :: r) tr = (x.trap t (tr t)).trapAll r tr := rfl
    have er : (x.trap t (tr t)).rest = x.rest := Ctx.rest_trapAt x t (tr t) _ _
    have epc : (x.trap t (tr t)).pc = x.pc := Ctx.rest_pc er
    obtain ⟨i1, i2, i3, i4, i5, i6⟩ := ih (x.trap t (tr t)) h2 (fun u hu => hb u (by simp [hu]))
    rw [e]
    refine ⟨fun u => ?_, fun u hu => ?_, ?_, ?_, ?_, ?_⟩
    · rw [i1, epc]
      have tk : ∀ (h : Thread) (c : WAddr), h.take (x.trap t (tr t)).team (tr u) x.pc c = h.take x.team (tr u) x.pc c :=
        fun h _ => Thread.take_congr (Ctx.rest_tve er) (Ctx.rest_pbase er) _ _ _ h
      rw [tk]
      have et : (x.trap t (tr t)).wave.thread u = if u = t ∧ t < 32 then
          ((x.wave.thread t).take x.team (tr t) x.pc (x.wave.thread t).cb).1 else x.wave.thread u :=
        Ctx.thread_trapAt x t (tr t) x.pc _ u
      rw [et]
      by_cases hu : u = t
      · subst hu
        simp [h1, ht]
      · simp [hu]
    · rw [i2 u hu]
      have e2 : (x.trap t (tr t)).wave.run = x.wave.run &&& ~~~bit32 t := Ctx.run_trapAt x t (tr t) x.pc _
      rw [e2]
      rw [hasBit_clear ht hu]
      simp [Bool.and_assoc]
    · rw [i3]; exact Ctx.s_trapAt x t (tr t) _ _
    · rw [i4]; exact Ctx.b_trapAt x t (tr t) _ _
    · rw [i5]; exact Ctx.fps_trapAt x t (tr t) _ _
    · exact (Ctx.agenda_trapAt x t (tr t) _ _).trans i6

/-! Falling through. -/

/-- A thread at the next word of its clause, or past the header that ends it. -/
def Ctx.passed (x : Ctx) (h : Thread) : Thread :=
  if x.pc + 1 = h.clauseEnd then { h with cb := x.pc + 1, pc := x.pc + 1 + 1, mark := true }
  else { h with pc := x.pc + 1 }

theorem Ctx.thread_fallThrough (x : Ctx) (t u : Nat) :
    (x.fallThrough t).wave.thread u = if u = t ∧ t < 32 then x.passed (x.wave.thread t) else x.wave.thread u := by
  unfold Ctx.fallThrough Ctx.modThread Ctx.modWave
  simp only [Wave.thread_modThread]
  rfl

theorem Ctx.passed_congr {x y : Ctx} (hp : y.pc = x.pc) (h : Thread) : y.passed h = x.passed h := by
  unfold Ctx.passed
  rw [hp]

@[simp] theorem Ctx.passed_v (x : Ctx) (h : Thread) : (x.passed h).v = h.v := by unfold Ctx.passed; split <;> rfl
@[simp] theorem Ctx.passed_p (x : Ctx) (h : Thread) : (x.passed h).p = h.p := by unfold Ctx.passed; split <;> rfl
@[simp] theorem Ctx.passed_hdr (x : Ctx) (h : Thread) : (x.passed h).hdr = h.hdr := by unfold Ctx.passed; split <;> rfl
@[simp] theorem Ctx.passed_rcd (x : Ctx) (h : Thread) : (x.passed h).rcd = h.rcd := by unfold Ctx.passed; split <;> rfl
@[simp] theorem Ctx.passed_life (x : Ctx) (h : Thread) : (x.passed h).life = h.life := by unfold Ctx.passed; split <;> rfl
@[simp] theorem Ctx.passed_pc (x : Ctx) (a : Nat) : (x.passed (x.wave.thread a)).pc = x.nextPc a := by
  unfold Ctx.passed Ctx.nextPc Ctx.thread
  split
  · show x.pc + 1 + 1 = x.pc + 2
    rw [BitVec.add_assoc]
    rfl
  · rfl

theorem Ctx.nextPc_congr {x y : Ctx} {a : Nat} (hp : y.pc = x.pc) (hc : (y.wave.thread a).cb = (x.wave.thread a).cb)
    (hh : (y.wave.thread a).hdr = (x.wave.thread a).hdr) : y.nextPc a = x.nextPc a := by
  unfold Ctx.nextPc Ctx.thread Thread.clauseEnd
  rw [hp, hc, hh]

/-- Threads fall through, each once. -/
theorem Ctx.fall_spec (x : Ctx) (ts : List Nat) (hn : ts.Nodup) (hb : ∀ t ∈ ts, t < 32) :
    (∀ u, (ts.foldl Ctx.fallThrough x).wave.thread u = if u ∈ ts then x.passed (x.wave.thread u) else x.wave.thread u)
    ∧ (ts.foldl Ctx.fallThrough x).wave.s = x.wave.s ∧ (ts.foldl Ctx.fallThrough x).wave.b = x.wave.b
    ∧ (ts.foldl Ctx.fallThrough x).wave.run = x.wave.run
    ∧ (ts.foldl Ctx.fallThrough x).team = x.team ∧ (ts.foldl Ctx.fallThrough x).s = x.s := by
  induction ts generalizing x with
  | nil => exact ⟨fun u => by simp, rfl, rfl, rfl, rfl, rfl⟩
  | cons t r ih =>
    obtain ⟨h1, h2⟩ := List.nodup_cons.mp hn
    have ht : t < 32 := hb t (by simp)
    obtain ⟨i1, i2, i3, i4, i5, i6⟩ := ih (x.fallThrough t) h2 (fun u hu => hb u (by simp [hu]))
    rw [List.foldl_cons]
    refine ⟨fun u => ?_, i2, i3, i4, i5, i6⟩
    rw [i1, Ctx.passed_congr (x := x) (y := x.fallThrough t) rfl, Ctx.thread_fallThrough]
    by_cases hu : u = t
    · subst hu
      simp [h1, ht]
    · simp [hu]

theorem tids_nodup : tids.Nodup := List.nodup_range

theorem mem_tids {t : Nat} : t ∈ tids ↔ t < 32 := List.mem_range

theorem Wave.mem_members {w : Wave} {t : Nat} :
    t ∈ w.members ↔ t < 32 ∧ hasBit w.run t = true ∧ (w.thread t).eligible = true := by
  unfold Wave.members
  rw [List.mem_filter, mem_tids]
  simp [Bool.and_eq_true]

theorem Wave.members_nodup (w : Wave) : w.members.Nodup := tids_nodup.filter _

end Sys2Proof.Machine
end

