-- ==== Sys2Proof/Laws/Deliver.lean ====
section
/-! SUPPORT. Delivering results: everything that an instruction of classes 0 and 1 leaves. -/

namespace Sys2Proof.Machine

/-! Register writes change registers alone. -/

/-- A thread but for its registers and its place in the PC table. -/
def Thread.bare (t : Thread) : Thread := { t.strip with v := [], p := 0 }

theorem Thread.bare_setPred (t : Thread) (n : Nat) (b : Bool) : (t.setPred n b).bare = t.bare := by
  unfold Thread.setPred; split <;> rfl

theorem Wave.bare_apply (w : Wave) (q : RegWrite) (t : Nat) : ((q.apply w).thread t).bare = (w.thread t).bare := by
  cases q with
  | v u m x =>
    simp only [RegWrite.apply, Wave.thread_modThread]
    split
    · rename_i h; rw [h.1]; rfl
    · rfl
  | p u m x =>
    simp only [RegWrite.apply, Wave.thread_modThread]
    split
    · rename_i h; rw [h.1, Thread.bare_setPred]
    · rfl
  | s m x => rfl
  | b m x => rfl

theorem Wave.bare_fold (ws : List RegWrite) (w : Wave) (t : Nat) :
    ((ws.foldl RegWrite.apply w).thread t).bare = (w.thread t).bare := by
  induction ws generalizing w with
  | nil => rfl
  | cons q r ih => rw [List.foldl_cons, ih, Wave.bare_apply]

theorem Wave.run_fold (ws : List RegWrite) (w : Wave) : (ws.foldl RegWrite.apply w).run = w.run := by
  induction ws generalizing w with
  | nil => rfl
  | cons q r ih =>
    rw [List.foldl_cons, ih]
    cases q <;> rfl

/-- What `write` leaves of the wave, when every write lands. -/
theorem Wave.write_spec (prog : Bool) (w : Wave) (ws : List RegWrite) (h : ∀ q ∈ ws, q.live w = true) :
    (∀ t n, t < 32 → n < 64 → ((w.write prog ws).thread t).reg n = (lastV ws t n).getD ((w.thread t).reg n))
    ∧ (∀ t n, t < 32 → n < 31 → ((w.write prog ws).thread t).pred n = (lastP ws t n).getD ((w.thread t).pred n))
    ∧ (∀ n, n < 64 → (w.write prog ws).sreg n = (lastS ws n).getD (w.sreg n))
    ∧ (∀ n, n < 16 → (w.write prog ws).breg n = (lastB ws n).getD (w.breg n))
    ∧ (∀ t, ((w.write prog ws).thread t).bare = (w.thread t).bare) ∧ (w.write prog ws).run = w.run := by
  have e : ws.filter (RegWrite.live w) = ws := List.filter_eq_self.mpr h
  have hw : (w.write prog ws).threads = (ws.foldl RegWrite.apply w).threads
      ∧ (w.write prog ws).s = (ws.foldl RegWrite.apply w).s ∧ (w.write prog ws).b = (ws.foldl RegWrite.apply w).b
      ∧ (w.write prog ws).run = (ws.foldl RegWrite.apply w).run := by
    unfold Wave.write
    rw [e]
    split
    · exact ⟨rfl, rfl, rfl, rfl⟩
    · exact ⟨rfl, rfl, rfl, rfl⟩
  obtain ⟨h1, h2, h3, h4⟩ := hw
  have ht : ∀ t, (w.write prog ws).thread t = (ws.foldl RegWrite.apply w).thread t := fun t => by
    unfold Wave.thread; rw [h1]
  refine ⟨fun t n a b => ?_, fun t n a b => ?_, fun n b => ?_, fun n b => ?_, fun t => ?_, ?_⟩
  · rw [ht, Wave.reg_fold w ws a b]
  · rw [ht, Wave.pred_fold w ws a b]
  · rw [← Wave.sreg_fold w ws b]; unfold Wave.sreg; rw [h2]
  · rw [← Wave.breg_fold w ws b]; unfold Wave.breg; rw [h3]
  · rw [ht, Wave.bare_fold]
  · rw [h4, Wave.run_fold]

theorem Thread.bare_pc {a b : Thread} (h : a.bare = b.bare) : a.pc = b.pc := by
  have := congrArg (·.pc) h; exact this
theorem Thread.bare_rcd {a b : Thread} (h : a.bare = b.bare) : a.rcd = b.rcd := by
  have := congrArg (·.rcd) h; exact this
theorem Thread.bare_hdr {a b : Thread} (h : a.bare = b.bare) : a.hdr = b.hdr := by
  have := congrArg (·.hdr) h; exact this
theorem Thread.bare_cb {a b : Thread} (h : a.bare = b.bare) : a.cb = b.cb := by
  have := congrArg (·.cb) h; exact this
theorem Thread.bare_life {a b : Thread} (h : a.bare = b.bare) : a.life = b.life := by
  have := congrArg (·.life) h; exact this
theorem Thread.bare_of_strip {a b : Thread} (h : a.strip = b.strip) : a.bare = b.bare := by
  have := congrArg (fun t : Thread => ({ t with v := [], p := 0 } : Thread)) h; exact this

theorem Thread.take_bare {g h : Thread} (e : g.bare = h.bare) (tm : Team) (tr : Trap) (pc cb : WAddr) :
    (g.take tm tr pc cb).1.pc = (h.take tm tr pc cb).1.pc ∧ (g.take tm tr pc cb).1.rcd = (h.take tm tr pc cb).1.rcd ∧
    (g.take tm tr pc cb).1.life = (h.take tm tr pc cb).1.life := by
  have hr : g.rcd = h.rcd := Thread.bare_rcd e
  have hp : g.pc = h.pc := Thread.bare_pc e
  have hl : g.life = h.life := Thread.bare_life e
  have hh : g.hnd = h.hnd := by unfold Thread.hnd; rw [hr]
  unfold Thread.take
  rw [hh]
  split
  · exact ⟨hp, hr, rfl⟩
  · dsimp only
    split
    · exact ⟨rfl, rfl, hl⟩
    · exact ⟨hp, rfl, rfl⟩

/-! The wave that is written back. -/

/-- Writing a context back gives the state these observations. -/
theorem State.Delivered.of {s t : State} {x y z : Ctx} {ws : List RegWrite} {fl : BitVec 5} {bad : List Nat}
    {tr : Nat → Trap} {cost : Nat} {a : List (Nat × Due)} (h : s.Holds x)
    (er : y.rest = x.rest) (ez : z.rest = y.rest) (lz : z.wave.Like y.wave) (sz : z.s = y.s) (fz : z.team.fps = y.team.fps)
    (et : t = { z.state with cycle := y.s.cycle + cost, agenda := y.s.agenda ++ a })
    (hag : x.s.agenda <+: y.s.agenda) (hfl : y.team.fps = x.team.fps ||| fl)
    (hv : ∀ a n, a < 32 → n < 64 → (y.wave.thread a).reg n = (lastV ws a n).getD ((x.wave.thread a).reg n))
    (hp : ∀ a n, a < 32 → n < 31 → (y.wave.thread a).pred n = (lastP ws a n).getD ((x.wave.thread a).pred n))
    (hs : ∀ n, n < 64 → y.wave.sreg n = (lastS ws n).getD (x.wave.sreg n))
    (hb : ∀ n, n < 16 → y.wave.breg n = (lastB ws n).getD (x.wave.breg n))
    (hm : ∀ a ∈ x.run, a ∉ bad → (y.wave.thread a).pc = x.nextPc a ∧ (y.wave.thread a).rcd = (x.wave.thread a).rcd
      ∧ (y.wave.thread a).life = .eligible)
    (hk : ∀ a ∈ bad, (y.wave.thread a).pc = ((x.wave.thread a).take x.team (tr a) x.pc (x.wave.thread a).cb).1.pc
      ∧ (y.wave.thread a).rcd = ((x.wave.thread a).take x.team (tr a) x.pc (x.wave.thread a).cb).1.rcd
      ∧ (y.wave.thread a).life = ((x.wave.thread a).take x.team (tr a) x.pc (x.wave.thread a).cb).1.life)
    (ho : ∀ a, a < 32 → a ∉ x.run → (y.wave.thread a).pc = (x.wave.thread a).pc ∧ (y.wave.thread a).rcd = (x.wave.thread a).rcd
      ∧ (y.wave.thread a).life = (x.wave.thread a).life) : s.Delivered t x ws fl bad tr cost := by
  subst et
  have hz : z.Ok := h.ok.of_rest (ez.trans er)
  have zw : z.w = x.w := Ctx.rest_w (ez.trans er)
  have ys : y.s.cycle = x.s.cycle := by
    have := congrArg (fun q : Ctx => q.s.cycle) er; exact this
  have thb : ∀ b, (State.threadAt { z.state with cycle := y.s.cycle + cost, agenda := y.s.agenda ++ a } x.w b).strip
      = (y.wave.thread b).strip := fun b => by
    have : State.threadAt { z.state with cycle := y.s.cycle + cost, agenda := y.s.agenda ++ a } x.w b = z.wave.thread b := by
      rw [← zw]; exact hz.state_threadAt b
    rw [this]; exact lz.1 b
  have s0 := h.threadAt
  refine ⟨⟨?_, ?_, ?_, ?_⟩, ?_, ?_, ?_, ?_, ?_, ?_⟩
  · intro b n hb' hn
    unfold State.vreg Thread.reg
    rw [Thread.strip_v (thb b), Thread.strip_v (s0 b)]
    exact hv b n hb' hn
  · intro b n hb' hn
    unfold State.preg Thread.pred
    rw [Thread.strip_p (thb b), Thread.strip_p (s0 b)]
    exact hp b n hb' hn
  · intro n hn
    have : State.sreg { z.state with cycle := y.s.cycle + cost, agenda := y.s.agenda ++ a } x.w n = z.wave.sreg n := by
      rw [← zw]; exact hz.state_sreg n
    rw [this, h.sreg, ← hs n hn]
    unfold Wave.sreg
    rw [lz.s]
  · intro n hn
    have : State.breg { z.state with cycle := y.s.cycle + cost, agenda := y.s.agenda ++ a } x.w n = z.wave.breg n := by
      rw [← zw]; exact hz.state_breg n
    rw [this, h.breg, ← hb n hn]
    unfold Wave.breg
    rw [lz.b]
  · refine State.WaveOnly.of_eq (h.waveOnly (ez.trans er) ?_) ?_
    · rw [sz, ← h.st]; exact hag
    · have : z.state.agenda = y.s.agenda := by
        show z.s.agenda = y.s.agenda
        rw [sz]
      rw [this]
      exact List.prefix_append _ _
  · have : State.teamOf { z.state with cycle := y.s.cycle + cost, agenda := y.s.agenda ++ a } x.w
        = some (z.team.setWave z.wave) := by rw [← zw]; exact hz.state_teamOf
    rw [this, show s.teamOf x.w = some x.team from h.team]
    show some z.team.fps = some (x.team.fps ||| fl)
    rw [fz, hfl]
  · intro b hb1 hb2
    unfold State.pcAt State.recAt
    rw [Thread.strip_pc (thb b), Thread.strip_rcd (thb b), Thread.strip_life (thb b), Thread.strip_rcd (s0 b)]
    exact hm b hb1 hb2
  · intro b hb1
    unfold State.pcAt State.recAt
    obtain ⟨k1, k2, k3⟩ := Thread.take_strip (s0 b) x.team (tr b) x.pc (x.wave.thread b).cb
    rw [Thread.strip_pc (thb b), Thread.strip_rcd (thb b), Thread.strip_life (thb b), Thread.strip_cb (s0 b), k1, k2, k3]
    exact hk b hb1
  · intro b hb1 hb2
    unfold State.pcAt State.recAt
    rw [Thread.strip_pc (thb b), Thread.strip_rcd (thb b), Thread.strip_life (thb b), Thread.strip_pc (s0 b),
      Thread.strip_rcd (s0 b), Thread.strip_life (s0 b)]
    exact ho b hb1 hb2
  · show y.s.cycle + cost = s.cycle + cost
    rw [ys, h.st]

/-- What the state holds once a context that changed only its wave is closed. -/
theorem Ctx.close_obs {s : State} {x y : Ctx} (h : s.Holds x) (e : y.rest = x.rest) (a : x.s.agenda <+: y.s.agenda)
    (cost ops : Nat) : s.WaveOnly (y.close cost ops) x.w
    ∧ (∀ b, ((y.close cost ops).threadAt x.w b).strip = (y.wave.thread b).strip)
    ∧ (∀ n, (y.close cost ops).sreg x.w n = y.wave.sreg n) ∧ (∀ n, (y.close cost ops).breg x.w n = y.wave.breg n)
    ∧ ((y.close cost ops).teamOf x.w).map (·.fps) = some y.team.fps ∧ (y.close cost ops).cycle = s.cycle + cost := by
  obtain ⟨z, l, z1, z2, z3, z4, z5, -⟩ := Ctx.close_eq y cost ops
  have er : z.rest = x.rest := z1.trans e
  have hz : z.Ok := h.ok.of_rest er
  have zw : z.w = x.w := Ctx.rest_w er
  have ys : y.s.cycle = x.s.cycle := by
    have := congrArg (fun q : Ctx => q.s.cycle) e; exact this
  rw [z5]
  refine ⟨State.WaveOnly.of_eq (h.waveOnly er ?_) ?_, ?_, ?_, ?_, ?_, ?_⟩
  · rw [z3, ← h.st]; exact a
  · have : z.state.agenda = y.s.agenda := by
      show z.s.agenda = y.s.agenda
      rw [z3]
    rw [this]
    exact List.prefix_append _ _
  · intro b
    have : State.threadAt { z.state with cycle := y.s.cycle + cost, agenda := y.s.agenda ++ l } x.w b = z.wave.thread b := by
      rw [← zw]; exact hz.state_threadAt b
    rw [this]; exact z2.1 b
  · intro n
    have : State.sreg { z.state with cycle := y.s.cycle + cost, agenda := y.s.agenda ++ l } x.w n = z.wave.sreg n := by
      rw [← zw]; exact hz.state_sreg n
    rw [this]; unfold Wave.sreg; rw [z2.s]
  · intro n
    have : State.breg { z.state with cycle := y.s.cycle + cost, agenda := y.s.agenda ++ l } x.w n = z.wave.breg n := by
      rw [← zw]; exact hz.state_breg n
    rw [this]; unfold Wave.breg; rw [z2.b]
  · have : State.teamOf { z.state with cycle := y.s.cycle + cost, agenda := y.s.agenda ++ l } x.w
        = some (z.team.setWave z.wave) := by rw [← zw]; exact hz.state_teamOf
    rw [this, ← z4]
    rfl
  · show y.s.cycle + cost = s.cycle + cost
    rw [ys, h.st]

/-! Delivering. -/

/-- The end of an instruction, once its registers are written: the threads of `bad` take their traps, the others of the run
fall through, and the lane goes on. -/
theorem Ctx.finish_spec {s : State} {x x1 : Ctx} (h : s.Holds x) (ws : List RegWrite) (fl : BitVec 5) (bad : List Nat)
    (tr : Nat → Trap) (cost ops : Nat) (hb : ∀ t ∈ bad, t ∈ x.run) (hbn : bad.Nodup)
    (x1rest : x1.rest = x.rest) (x1s : x1.s = x.s) (x1team : x1.team.fps = x.team.fps ||| fl)
    (w1 : ∀ t n, t < 32 → n < 64 → (x1.wave.thread t).reg n = (lastV ws t n).getD ((x.wave.thread t).reg n))
    (w2 : ∀ t n, t < 32 → n < 31 → (x1.wave.thread t).pred n = (lastP ws t n).getD ((x.wave.thread t).pred n))
    (w3 : ∀ n, n < 64 → x1.wave.sreg n = (lastS ws n).getD (x.wave.sreg n))
    (w4 : ∀ n, n < 16 → x1.wave.breg n = (lastB ws n).getD (x.wave.breg n))
    (w5 : ∀ t, (x1.wave.thread t).bare = (x.wave.thread t).bare) (w6 : x1.wave.run = x.wave.run) :
    s.Delivered ((x1.trapAll bad tr).next.close cost ops) x ws fl bad tr cost := by
  generalize ey : x1.trapAll bad tr = y
  have hmem : ∀ t ∈ x.run, t < 32 ∧ hasBit x.wave.run t = true ∧ (x.wave.thread t).life = .eligible := by
    intro t ht
    rw [h.run] at ht
    obtain ⟨a, b, c⟩ := Wave.mem_members.mp ht
    exact ⟨a, b, by simpa [Thread.eligible] using c⟩
  obtain ⟨t1, t2, t3, t4, t5, t6⟩ := Ctx.trapAll_spec x1 bad tr hbn (fun t ht => (hmem t (hb t ht)).1)
  rw [ey] at t1 t2 t3 t4 t5 t6
  have yrest : y.rest = x.rest := by rw [← ey, Ctx.rest_trapAll, x1rest]
  have ypc : y.pc = x.pc := Ctx.rest_pc yrest
  have x1pc : x1.pc = x.pc := Ctx.rest_pc x1rest
  have hdr : ∀ t, (y.wave.thread t).hdr = (x.wave.thread t).hdr := by
    intro t
    rw [t1]
    split
    · rw [Thread.take_hdr]; exact Thread.bare_hdr (w5 t)
    · exact Thread.bare_hdr (w5 t)
  have hymem : ∀ t, t ∈ y.wave.members ↔ t ∈ x.run ∧ t ∉ bad := by
    intro t
    rw [Wave.mem_members]
    constructor
    · rintro ⟨a, b, c⟩
      rw [t2 t a, w6] at b
      simp only [Bool.and_eq_true, Bool.not_eq_true', decide_eq_false_iff_not] at b
      refine ⟨?_, b.2⟩
      rw [h.run, Wave.mem_members]
      refine ⟨a, b.1, ?_⟩
      rw [t1, if_neg b.2] at c
      unfold Thread.eligible at c ⊢
      rw [Thread.bare_life (w5 t)] at c
      exact c
    · rintro ⟨a, b⟩
      obtain ⟨m1, m2, m3⟩ := hmem t a
      refine ⟨m1, ?_, ?_⟩
      · rw [t2 t m1, w6, m2]
        simp [b]
      · rw [t1, if_neg b]
        unfold Thread.eligible
        rw [Thread.bare_life (w5 t), m3]
        rfl
  obtain ⟨n1, n2, n3, n4, n5, n6⟩ := Ctx.fall_spec y y.wave.members (Wave.members_nodup _)
    (fun t ht => (Wave.mem_members.mp ht).1)
  have en : y.next = y.wave.members.foldl Ctx.fallThrough y := rfl
  rw [← en] at n1 n2 n3 n4 n5 n6
  have nrest : y.next.rest = x.rest := by rw [Ctx.rest_next, yrest]
  obtain ⟨z, a, z1, z2, z3, z4, z5, -⟩ := Ctx.close_eq y.next cost ops
  have regs : ∀ t, (y.next.wave.thread t).v = (x1.wave.thread t).v ∧ (y.next.wave.thread t).p = (x1.wave.thread t).p := by
    intro t
    rw [n1]
    have g : (y.wave.thread t).v = (x1.wave.thread t).v ∧ (y.wave.thread t).p = (x1.wave.thread t).p := by
      rw [t1]
      split
      · exact ⟨Thread.take_v _ _ _ _ _, Thread.take_p _ _ _ _ _⟩
      · exact ⟨rfl, rfl⟩
    split
    · rw [Ctx.passed_v, Ctx.passed_p]; exact g
    · exact g
  refine State.Delivered.of (y := y.next) h nrest z1 z2 z3 z4 z5 ?_ ?_ ?_ ?_ ?_ ?_ ?_ ?_ ?_
  · rw [n6, ← x1s]; exact t6
  · rw [n5, t5, x1team]
  · intro b n hb hn'
    rw [← w1 b n hb hn']
    unfold Thread.reg
    rw [(regs b).1]
  · intro b n hb hn'
    rw [← w2 b n hb hn']
    unfold Thread.pred
    rw [(regs b).2]
  · intro n hn'
    rw [← w3 n hn']
    unfold Wave.sreg
    rw [n2, t3]
  · intro n hn'
    rw [← w4 n hn']
    unfold Wave.breg
    rw [n3, t4]
  · intro b hb1 hb2
    rw [n1, if_pos ((hymem b).mpr ⟨hb1, hb2⟩), Ctx.passed_pc, Ctx.passed_rcd, Ctx.passed_life]
    have e : y.wave.thread b = x1.wave.thread b := by rw [t1, if_neg hb2]
    rw [e, Thread.bare_rcd (w5 b), Thread.bare_life (w5 b)]
    exact ⟨Ctx.nextPc_congr ypc (by rw [e, Thread.bare_cb (w5 b)]) (hdr b), rfl, (hmem b hb1).2.2⟩
  · intro b hb1
    have nb : b ∉ y.wave.members := fun g => ((hymem b).mp g).2 hb1
    rw [n1, if_neg nb, t1, if_pos hb1, x1pc, Thread.bare_cb (w5 b)]
    have tc : ∀ g : Thread, g.take x1.team (tr b) x.pc (x.wave.thread b).cb = g.take x.team (tr b) x.pc (x.wave.thread b).cb :=
      fun g => Thread.take_congr (Ctx.rest_tve x1rest) (Ctx.rest_pbase x1rest) _ _ _ g
    rw [tc]
    exact Thread.take_bare (w5 b) _ _ _ _
  · intro b hb1 hb2
    have nb : b ∉ y.wave.members := fun g => hb2 ((hymem b).mp g).1
    have nt : b ∉ bad := fun g => hb2 (hb b g)
    rw [n1, if_neg nb, t1, if_neg nt]
    exact ⟨Thread.bare_pc (w5 b), Thread.bare_rcd (w5 b), Thread.bare_life (w5 b)⟩

/-- Threads trap and the rest of the run passes, with no register written. -/
theorem Ctx.trapPass_spec {s : State} {x : Ctx} (h : s.Holds x) (bad : List Nat) (tr : Nat → Trap) (cost ops : Nat)
    (hb : ∀ t ∈ bad, t ∈ x.run) (hbn : bad.Nodup) :
    s.Delivered ((x.trapAll bad tr).next.close cost ops) x [] 0 bad tr cost :=
  Ctx.finish_spec h [] 0 bad tr cost ops hb hbn rfl rfl (BitVec.or_zero).symm (fun _ _ _ _ => rfl) (fun _ _ _ _ => rfl)
    (fun _ _ => rfl) (fun _ _ => rfl) (fun _ => rfl) rfl

/-- The run passes and nothing else happens. -/
theorem Ctx.pass_spec {s : State} {x : Ctx} (h : s.Holds x) (tr : Nat → Trap) (cost ops : Nat) :
    s.Delivered (x.next.close cost ops) x [] 0 [] tr cost :=
  Ctx.trapPass_spec h [] tr cost ops (fun _ ht => nomatch ht) List.nodup_nil

/-- Results that are written and traps on enabled flags, in one lemma: everything `deliverAll` does when the undo log has
room for its writes and its traps' records. -/
theorem Ctx.deliver_spec {s : State} {x : Ctx} (h : s.Holds x) (i : Issue) (mode : Mode) (act : List Nat)
    (res : Nat → List RegWrite × BitVec 5) (hsub : ∀ t ∈ act, t ∈ x.run) (hn : act.Nodup)
    (hroom : x.room (((goodOf x mode act fun t => (res t).2).flatMap fun t => (res t).1).map (·.logKey x.w.team x.w.wid)
      ++ x.rcdKeys (badOf x mode act fun t => (res t).2)) = true)
    (hlive : ∀ q ∈ (goodOf x mode act fun t => (res t).2).flatMap fun t => (res t).1, q.live x.wave = true) :
    s.Delivered (x.deliverAll i mode act res) x ((goodOf x mode act fun t => (res t).2).flatMap fun t => (res t).1)
      ((goodOf x mode act fun t => (res t).2).foldl (fun f t => f ||| (res t).2) 0) (badOf x mode act fun t => (res t).2)
      (fpxOf x mode act fun t => (res t).2) (i.cost act) := by
  generalize hgood : (goodOf x mode act fun t => (res t).2) = good at *
  generalize hbad : (badOf x mode act fun t => (res t).2) = bad at *
  generalize hws : (good.flatMap fun t => (res t).1) = ws at *
  generalize hfl : good.foldl (fun f t => f ||| (res t).2) 0 = fl
  have key : x.deliverAll i mode act res
      = (Ctx.trapAll ((x.write ws).modTeam fun tm => { tm with fps := tm.fps ||| fl }) bad
        (fpxOf x mode act fun t => (res t).2)).next.close (i.cost act) (i.tops act) := by
    unfold Ctx.deliverAll
    extract_lets fpe fpx bd rt gd w1 off fl1 x1
    have e1 : w1 = ws := by rw [← hws, ← hgood]; cases mode <;> rfl
    have e2 : fl1 = fl := by rw [← hfl, ← hgood]; cases mode <;> rfl
    have e3 : off = bad := by rw [← hbad]; cases mode <;> rfl
    have ex1 : x1 = (x.write ws).modTeam fun tm => { tm with fps := tm.fps ||| fl } := by
      simp only [x1, e1, e2]
    rw [e1, e3, hroom, if_pos rfl, ex1]
    cases mode <;> rfl
  have hbsub : ∀ t ∈ bad, t ∈ act := by
    intro t ht
    rw [← hbad] at ht
    unfold badOf at ht
    split at ht
    · exact (List.mem_filter.mp ht).1
    · split at ht
      · exact ht
      · simp at ht
    · simp at ht
  have hbn : bad.Nodup := by
    rw [← hbad]
    unfold badOf
    split
    · exact hn.filter _
    · split
      · exact hn
      · exact List.nodup_nil
    · exact List.nodup_nil
  obtain ⟨w1, w2, w3, w4, w5, w6⟩ := Wave.write_spec x.team.prog x.wave ws hlive
  rw [key]
  have rest1 : ((x.write ws).modTeam fun tm => { tm with fps := tm.fps ||| fl }).rest = x.rest := by
    rw [← Ctx.rest_write x ws]; rfl
  exact Ctx.finish_spec h ws fl bad _ _ _ (fun t ht => hsub t (hbsub t ht)) hbn rest1 rfl rfl w1 w2 w3 w4 w5 w6

/-- The active threads are threads of the run, each once. -/
theorem Ctx.active_sub (x : Ctx) (g : Guard) : ∀ t ∈ x.active g, t ∈ x.run := fun _ h => (List.mem_filter.mp h).1

theorem State.Holds.active_nodup {s : State} {x : Ctx} (h : s.Holds x) (g : Guard) : (x.active g).Nodup := by
  unfold Ctx.active
  rw [h.run]
  exact (Wave.members_nodup _).filter _

/-- An instruction whose checks at issue pass goes on with its active threads. -/
theorem State.Issues.begin_eq {s : State} {i : Issue} {x : Ctx} {act : List Nat} (h : s.Issues i x act)
    (go : Ctx → List Nat → State) : begin_ s i go = .next (go x act) := by
  unfold begin_
  rw [h.ctx]
  simp only
  unfold Ctx.issue
  have hb := h.budget
  have hr := h.ready
  rw [h.guard, h.active]
  simp only [Bool.false_eq_true, if_false]
  cases act with
  | nil => exact absurd rfl h.some_
  | cons t ts =>
    simp only [hb, hr, Bool.false_eq_true, if_false]

/-- A write to a thread of the run lands; so does one to a uniform register of a wave that has not ended. -/
theorem State.Issues.run_live {s : State} {i : Issue} {x : Ctx} {act : List Nat} (h : s.Issues i x act) {t : Nat}
    (ht : t ∈ x.run) : (x.wave.thread t).life != .exited := by
  rw [(State.ctx_holds h.ctx).2.run, Wave.mem_members] at ht
  have := ht.2.2
  unfold Thread.eligible at this
  rw [eq_of_beq this]
  rfl

/-- The writes of an operation's result are to the threads it is for, or to uniform registers. -/
def RegWrite.isFor (ts : List Nat) : RegWrite → Prop
  | .v u _ _ | .p u _ _ => u ∈ ts
  | .s _ _ | .b _ _ => True

theorem isFor_regWrites {t : Nat} {ts : List Nat} (ht : t ∈ ts) (n : BitVec 6) (k pair : Bool) (x : DWord) :
    ∀ q ∈ regWrites t n k pair x, q.isFor ts := by
  intro q hq
  unfold regWrites at hq
  cases k <;> cases pair <;> simp at hq
  · subst hq; exact ht
  · rcases hq with rfl | rfl <;> exact ht
  · subst hq; trivial
  · rcases hq with rfl | rfl <;> trivial

theorem isFor_destWrites (sl : Slot) (n : BitVec 6) (k : Bool) (ty sty : BitVec 4) {t : Nat} {who ts : List Nat} (ht : t ∈ ts)
    (hw : ∀ u ∈ who, u ∈ ts) (r : Res) : ∀ q ∈ destWrites sl n k ty sty t who r, q.isFor ts := by
  intro q hq
  unfold destWrites at hq
  rcases List.mem_append.mp hq with h | h
  · split at h
    · rw [List.mem_singleton] at h; subst h; exact ht
    · exact isFor_regWrites ht _ _ _ _ q h
  · obtain ⟨u, hu, h⟩ := List.mem_flatMap.mp h
    obtain ⟨e, -, rfl⟩ := List.mem_map.mp h
    exact hw u hu

theorem State.Issues.live_of_isFor {s : State} {i : Issue} {x : Ctx} {act ts : List Nat} (h : s.Issues i x act)
    (ht : ∀ t ∈ ts, t ∈ x.run) {q : RegWrite} (hq : q.isFor ts) : q.live x.wave = true := by
  cases q with
  | v u n y => exact h.run_live (ht u hq)
  | p u n y => exact h.run_live (ht u hq)
  | s n y => simp only [RegWrite.live, h.live, Bool.not_false]
  | b n y => simp only [RegWrite.live, h.live, Bool.not_false]

theorem mem_goodOf {x : Ctx} {mode : Mode} {act : List Nat} {fl : Nat → BitVec 5} {t : Nat} (hsub : ∀ t ∈ act, t ∈ x.run)
    (hne : act ≠ []) (h : t ∈ goodOf x mode act fl) : t ∈ x.run := by
  unfold goodOf at h
  split at h
  · exact hsub t (List.mem_filter.mp h).1
  · split at h
    · simp at h
    · rw [List.mem_singleton] at h
      subst h
      cases act with
      | nil => exact absurd rfl hne
      | cons a as => exact hsub a (by simp)
  · exact h

/-- An instruction that only delivers results, in one lemma: it completes, and leaves what `State.Delivered` says. -/
theorem State.Issues.delivers {s : State} {i : Issue} {x : Ctx} {act : List Nat} (h : s.Issues i x act) (mode : Mode)
    (res : Ctx → List Nat → Nat → List RegWrite × BitVec 5) (hfor : ∀ t, ∀ q ∈ (res x act t).1, q.isFor (t :: act))
    (hroom : x.room (((goodOf x mode act fun t => (res x act t).2).flatMap fun t => (res x act t).1).map
      (·.logKey x.w.team x.w.wid) ++ x.rcdKeys (badOf x mode act fun t => (res x act t).2)) = true) :
    ∃ t, begin_ s i (fun x act => x.deliverAll i mode act (res x act)) = .next t ∧
      s.Delivered t x ((goodOf x mode act fun t => (res x act t).2).flatMap fun t => (res x act t).1)
        ((goodOf x mode act fun t => (res x act t).2).foldl (fun f t => f ||| (res x act t).2) 0)
        (badOf x mode act fun t => (res x act t).2) (fpxOf x mode act fun t => (res x act t).2) (i.cost act) := by
  have g := (State.ctx_holds h.ctx).2
  have hsub : ∀ t ∈ act, t ∈ x.run := by
    rw [← h.active]; exact x.active_sub i.g
  have hn : act.Nodup := by
    rw [← h.active]; exact g.active_nodup i.g
  refine ⟨_, h.begin_eq _, Ctx.deliver_spec g i mode act (res x act) hsub hn hroom ?_⟩
  intro q hq
  obtain ⟨t, ht, hqt⟩ := List.mem_flatMap.mp hq
  refine h.live_of_isFor (fun u hu => ?_) (hfor t q hqt)
  rcases List.mem_cons.mp hu with rfl | hu
  · exact mem_goodOf hsub h.some_ ht
  · exact hsub u hu

/-- Format R (R81, R97). -/
theorem aluR_delivers (sp : RSpec) (f : RForm) (per : Nat) (op : Src → Res) {s : State} {x : Ctx} {act : List Nat}
    (h : s.Issues (issueOfR sp f per) x act)
    (hroom : x.room (((goodOf x (modeOfR sp f per) act fun t => (resOfR sp f per op x act t).2).flatMap
      fun t => (resOfR sp f per op x act t).1).map (·.logKey x.w.team x.w.wid)
      ++ x.rcdKeys (badOf x (modeOfR sp f per) act fun t => (resOfR sp f per op x act t).2)) = true) :
    ∃ t, aluR sp f per op s = .next t ∧
      s.Delivered t x ((goodOf x (modeOfR sp f per) act fun t => (resOfR sp f per op x act t).2).flatMap
          fun t => (resOfR sp f per op x act t).1)
        ((goodOf x (modeOfR sp f per) act fun t => (resOfR sp f per op x act t).2).foldl
          (fun g t => g ||| (resOfR sp f per op x act t).2) 0)
        (badOf x (modeOfR sp f per) act fun t => (resOfR sp f per op x act t).2)
        (fpxOf x (modeOfR sp f per) act fun t => (resOfR sp f per op x act t).2) ((issueOfR sp f per).cost act) :=
  h.delivers (modeOfR sp f per) (resOfR sp f per op) (fun t => isFor_destWrites _ _ _ _ _ (List.mem_cons_self ..)
    (fun u hu => by
      split at hu
      · exact List.mem_cons_of_mem _ hu
      · rw [List.mem_singleton.mp hu]; exact List.mem_cons_self ..) _) hroom

/-- Format I (R43). -/
theorem aluI_delivers (sp : ISpec) (f : IForm) (op : Src → Res) {s : State} {x : Ctx} {act : List Nat}
    (h : s.Issues (issueOfI sp f) x act)
    (hroom : x.room (((goodOf x (modeOfI sp f) act fun t => (resOfI sp f op x act t).2).flatMap
      fun t => (resOfI sp f op x act t).1).map (·.logKey x.w.team x.w.wid)
      ++ x.rcdKeys (badOf x (modeOfI sp f) act fun t => (resOfI sp f op x act t).2)) = true) :
    ∃ t, aluI sp f op s = .next t ∧
      s.Delivered t x ((goodOf x (modeOfI sp f) act fun t => (resOfI sp f op x act t).2).flatMap
          fun t => (resOfI sp f op x act t).1)
        ((goodOf x (modeOfI sp f) act fun t => (resOfI sp f op x act t).2).foldl
          (fun g t => g ||| (resOfI sp f op x act t).2) 0)
        (badOf x (modeOfI sp f) act fun t => (resOfI sp f op x act t).2)
        (fpxOf x (modeOfI sp f) act fun t => (resOfI sp f op x act t).2) ((issueOfI sp f).cost act) :=
  h.delivers (modeOfI sp f) (resOfI sp f op) (fun t => isFor_destWrites _ _ _ _ _ (List.mem_cons_self ..)
    (fun u hu => by rw [List.mem_singleton.mp hu]; exact List.mem_cons_self ..) _) hroom

end Sys2Proof.Machine
end

