-- ==== Sys2Proof/Laws/Control.lean ====
section
/-! SUPPORT. Control transfers and traps: one lemma for each shared operation. -/

namespace Sys2Proof.Machine

/-- Threads change, each once and each in its own way. -/
theorem Ctx.modThreads_spec (f : Nat → Thread → Thread) (x : Ctx) (ts : List Nat) (hn : ts.Nodup) (hb : ∀ t ∈ ts, t < 32) :
    (∀ u, (ts.foldl (fun y t => y.modThread t (f t)) x).wave.thread u
      = if u ∈ ts then f u (x.wave.thread u) else x.wave.thread u)
    ∧ (ts.foldl (fun y t => y.modThread t (f t)) x).rest = x.rest
    ∧ (ts.foldl (fun y t => y.modThread t (f t)) x).wave.s = x.wave.s
    ∧ (ts.foldl (fun y t => y.modThread t (f t)) x).wave.b = x.wave.b
    ∧ (ts.foldl (fun y t => y.modThread t (f t)) x).wave.run = x.wave.run
    ∧ (ts.foldl (fun y t => y.modThread t (f t)) x).team = x.team
    ∧ (ts.foldl (fun y t => y.modThread t (f t)) x).s = x.s := by
  induction ts generalizing x with
  | nil => exact ⟨fun u => by simp, rfl, rfl, rfl, rfl, rfl, rfl⟩
  | cons t r ih =>
    obtain ⟨h1, h2⟩ := List.nodup_cons.mp hn
    have ht : t < 32 := hb t (by simp)
    obtain ⟨i1, i2, i3, i4, i5, i6, i7⟩ := ih (x.modThread t (f t)) h2 (fun u hu => hb u (by simp [hu]))
    rw [List.foldl_cons]
    refine ⟨fun u => ?_, i2.trans (Ctx.rest_modThread x t (f t)), i3, i4, i5, i6, i7⟩
    rw [i1]
    have e : (x.modThread t (f t)).wave.thread u = if u = t ∧ t < 32 then f t (x.wave.thread t) else x.wave.thread u :=
      Wave.thread_modThread x.wave t u (f t)
    rw [e]
    by_cases hu : u = t
    · subst hu
      simp [h1, ht]
    · simp [hu]

/-- A taken backward branch changes the spin detector and the PC table's order alone (R199). -/
theorem Ctx.backward_spec (x : Ctx) (ts : List Nat) :
    (∀ u, ((x.backward ts).wave.thread u).strip = (x.wave.thread u).strip) ∧ (x.backward ts).rest = x.rest
    ∧ (x.backward ts).wave.s = x.wave.s ∧ (x.backward ts).wave.b = x.wave.b ∧ (x.backward ts).team = x.team
    ∧ x.s.agenda <+: (x.backward ts).s.agenda := by
  unfold Ctx.backward
  split
  · extract_lets d hit cnt d1 d2 x1
    have base : (∀ u, (x1.wave.thread u).strip = (x.wave.thread u).strip) ∧ x1.rest = x.rest ∧ x1.wave.s = x.wave.s
        ∧ x1.wave.b = x.wave.b ∧ x1.team = x.team ∧ x.s.agenda <+: x1.s.agenda :=
      ⟨fun _ => rfl, rfl, rfl, rfl, rfl, List.prefix_refl _⟩
    clear_value x1
    split
    · have key : ∀ (l : List Nat) (y : Ctx),
          (∀ u, (y.wave.thread u).strip = (x.wave.thread u).strip) ∧ y.rest = x.rest ∧ y.wave.s = x.wave.s
            ∧ y.wave.b = x.wave.b ∧ y.team = x.team ∧ x.s.agenda <+: y.s.agenda →
          (∀ u, ((l.foldl (fun y t => (y.modThread t fun h => { h with tier := 1, demoted := y.s.cycle }).modState
              fun s => s.post 256 (.spinDemotionExpiry y.w t)) y).wave.thread u).strip = (x.wave.thread u).strip)
            ∧ (l.foldl (fun y t => (y.modThread t fun h => { h with tier := 1, demoted := y.s.cycle }).modState
              fun s => s.post 256 (.spinDemotionExpiry y.w t)) y).rest = x.rest
            ∧ (l.foldl (fun y t => (y.modThread t fun h => { h with tier := 1, demoted := y.s.cycle }).modState
              fun s => s.post 256 (.spinDemotionExpiry y.w t)) y).wave.s = x.wave.s
            ∧ (l.foldl (fun y t => (y.modThread t fun h => { h with tier := 1, demoted := y.s.cycle }).modState
              fun s => s.post 256 (.spinDemotionExpiry y.w t)) y).wave.b = x.wave.b
            ∧ (l.foldl (fun y t => (y.modThread t fun h => { h with tier := 1, demoted := y.s.cycle }).modState
              fun s => s.post 256 (.spinDemotionExpiry y.w t)) y).team = x.team
            ∧ x.s.agenda <+: (l.foldl (fun y t => (y.modThread t fun h => { h with tier := 1, demoted := y.s.cycle }).modState
              fun s => s.post 256 (.spinDemotionExpiry y.w t)) y).s.agenda := by
        intro l
        induction l with
        | nil => exact fun y hy => hy
        | cons t r ih =>
          intro y hy
          obtain ⟨h1, h2, h3, h4, h5, h6⟩ := hy
          rw [List.foldl_cons]
          refine ih _ ⟨fun u => ?_, ?_, h3, h4, h5, h6.trans (List.prefix_append _ _)⟩
          · have e : ((y.modThread t fun h => { h with tier := 1, demoted := y.s.cycle }).modState
                fun s => s.post 256 (.spinDemotionExpiry y.w t)).wave.thread u = _ :=
              Wave.thread_modThread y.wave t u fun h => { h with tier := 1, demoted := y.s.cycle }
            rw [e, ← h1 u]
            split
            · rename_i hh; rw [hh.1]; rfl
            · rfl
          · rw [← h2]; rfl
      exact key ts x1 base
    · exact base
  · exact ⟨fun _ => rfl, rfl, rfl, rfl, rfl, List.prefix_refl _⟩

/-- BRA, BRX, CALL and RET: the active threads stand past the headers at their targets, the others of the run fall through,
and CALL's link pairs are written (R122). -/
theorem transfer_spec {s : State} {i : Issue} {x : Ctx} {act : List Nat} (h : s.Issues i x act) (link : Option (BitVec 6))
    (tgt : Ctx → Nat → WAddr) (hroom : x.room ((linkWrites link x act).map (·.logKey x.w.team x.w.wid)) = true) :
    ∃ t, transfer i link tgt s = .next t ∧ s.WaveOnly t x.w ∧ s.Wrote t x.w (linkWrites link x act)
      ∧ (∀ a ∈ act, t.pcAt x.w a = tgt x a + 1 ∧ (t.threadAt x.w a).cb = tgt x a ∧ (t.threadAt x.w a).mark = true)
      ∧ (∀ a ∈ x.run, a ∉ act → t.pcAt x.w a = x.nextPc a)
      ∧ (∀ a, a < 32 → a ∉ x.run → t.pcAt x.w a = s.pcAt x.w a)
      ∧ t.cycle = s.cycle + 1 := by
  have g := (State.ctx_holds h.ctx).2
  have hsub : ∀ t ∈ act, t ∈ x.run := by rw [← h.active]; exact x.active_sub i.g
  have hn : act.Nodup := by rw [← h.active]; exact g.active_nodup i.g
  have hrun : ∀ t ∈ x.run, t < 32 := fun t ht => by
    rw [g.run] at ht; exact (Wave.mem_members.mp ht).1
  have hrn : x.run.Nodup := by rw [g.run]; exact Wave.members_nodup _
  have hlive : ∀ q ∈ linkWrites link x act, q.live x.wave = true := by
    intro q hq
    obtain ⟨t, ht, hqt⟩ := List.mem_flatMap.mp hq
    refine h.live_of_isFor (ts := [t]) (fun u hu => (List.mem_singleton.mp hu) ▸ hsub t ht) ?_
    cases link with
    | none => simp at hqt
    | some d => exact isFor_regWrites (List.mem_singleton.mpr rfl) _ _ _ _ q hqt
  refine ⟨_, h.begin_eq _, ?_⟩
  extract_lets ws x1 x2 x3 x4
  have ew : ws = linkWrites link x act := rfl
  rw [ew, hroom]
  simp only [if_true]
  obtain ⟨w1, w2, w3, w4, w5, w6⟩ := Wave.write_spec x.team.prog x.wave (linkWrites link x act) hlive
  have x1wave : x1.wave = x.wave.write x.team.prog (linkWrites link x act) := rfl
  have x1rest : x1.rest = x.rest := Ctx.rest_write x _
  have x1s : x1.s = x.s := rfl
  have x1team : x1.team = x.team := rfl
  clear_value x1
  have hfn : (x.run.filter fun t => !act.contains t).Nodup := hrn.filter _
  obtain ⟨f1, f2, f3, f4, f5, f6⟩ := Ctx.fall_spec x1 (x.run.filter fun t => !act.contains t) hfn
    (fun t ht => hrun t (List.mem_filter.mp ht).1)
  have x2rest : x2.rest = x.rest := (Ctx.rest_foldl Ctx.fallThrough (fun _ _ => rfl) _ x1).trans x1rest
  have ex2 : x2 = (x.run.filter fun t => !act.contains t).foldl Ctx.fallThrough x1 := rfl
  rw [← ex2] at f1 f2 f3 f4 f5 f6
  clear_value x2
  obtain ⟨m1, m2, m3, m4, m5, m6, m7⟩ := Ctx.modThreads_spec
    (fun t h => { h with cb := tgt x t, pc := tgt x t + 1, mark := true }) x2 act hn (fun t ht => hrun t (hsub t ht))
  have ex3 : x3 = act.foldl (fun y t => y.modThread t fun h => { h with cb := tgt x t, pc := tgt x t + 1, mark := true }) x2 :=
    rfl
  rw [← ex3] at m1 m2 m3 m4 m5 m6 m7
  clear_value x3
  have x4all : (∀ u, (x4.wave.thread u).strip = (x3.wave.thread u).strip) ∧ x4.rest = x3.rest ∧ x4.wave.s = x3.wave.s
      ∧ x4.wave.b = x3.wave.b ∧ x4.team = x3.team ∧ x3.s.agenda <+: x4.s.agenda := by
    simp only [x4]
    split
    · exact Ctx.backward_spec x3 act
    · exact ⟨fun _ => rfl, rfl, rfl, rfl, rfl, List.prefix_refl _⟩
  clear_value x4
  obtain ⟨b1, b2, b3, b4, b5, b6⟩ := x4all
  have x4rest : x4.rest = x.rest := b2.trans (m2.trans x2rest)
  have ag : x.s.agenda <+: x4.s.agenda := by
    have e : x3.s = x.s := by rw [m7, f6, x1s]
    rw [← e]; exact b6
  obtain ⟨c1, c2, c3, c4, -, c6⟩ := Ctx.close_obs g x4rest ag 1 0
  have hact : ∀ a, a ∈ (x.run.filter fun t => !act.contains t) ↔ a ∈ x.run ∧ a ∉ act := by
    intro a
    rw [List.mem_filter]
    simp
  have regs : ∀ a, (x3.wave.thread a).v = ((x.wave.write x.team.prog (linkWrites link x act)).thread a).v
      ∧ (x3.wave.thread a).p = ((x.wave.write x.team.prog (linkWrites link x act)).thread a).p := by
    intro a
    have k : (x2.wave.thread a).v = ((x.wave.write x.team.prog (linkWrites link x act)).thread a).v
        ∧ (x2.wave.thread a).p = ((x.wave.write x.team.prog (linkWrites link x act)).thread a).p := by
      rw [f1, x1wave]
      split
      · rw [Ctx.passed_v, Ctx.passed_p]; exact ⟨rfl, rfl⟩
      · exact ⟨rfl, rfl⟩
    rw [m1]
    split
    · exact k
    · exact k
  have s0 := g.threadAt
  refine ⟨c1, ⟨?_, ?_, ?_, ?_⟩, ?_, ?_, ?_, c6⟩
  · intro a n ha hn'
    unfold State.vreg Thread.reg
    rw [Thread.strip_v (c2 a), Thread.strip_v (b1 a), (regs a).1, Thread.strip_v (s0 a)]
    exact w1 a n ha hn'
  · intro a n ha hn'
    unfold State.preg Thread.pred
    rw [Thread.strip_p (c2 a), Thread.strip_p (b1 a), (regs a).2, Thread.strip_p (s0 a)]
    exact w2 a n ha hn'
  · intro n hn'
    rw [c3, g.sreg, ← w3 n hn']
    unfold Wave.sreg
    rw [b3, m3, f2, x1wave]
  · intro n hn'
    rw [c4, g.breg, ← w4 n hn']
    unfold Wave.breg
    rw [b4, m4, f3, x1wave]
  · intro a ha
    unfold State.pcAt
    rw [Thread.strip_pc (c2 a), Thread.strip_cb (c2 a), Thread.strip_mark (c2 a), Thread.strip_pc (b1 a),
      Thread.strip_cb (b1 a), Thread.strip_mark (b1 a), m1, if_pos ha]
    exact ⟨rfl, rfl, rfl⟩
  · intro a ha hna
    unfold State.pcAt
    rw [Thread.strip_pc (c2 a), Thread.strip_pc (b1 a), m1, if_neg hna, f1, if_pos ((hact a).mpr ⟨ha, hna⟩), Ctx.passed_pc]
    exact Ctx.nextPc_congr (Ctx.rest_pc x1rest) (by rw [x1wave, Thread.bare_cb (w5 a)])
      (by rw [x1wave, Thread.bare_hdr (w5 a)])
  · intro a ha hna
    unfold State.pcAt
    have h1 : a ∉ act := fun q => hna (hsub a q)
    rw [Thread.strip_pc (c2 a), Thread.strip_pc (b1 a), m1, if_neg h1, f1, if_neg (fun q => hna ((hact a).mp q).1), x1wave,
      Thread.bare_pc (w5 a), Thread.strip_pc (s0 a)]

end Sys2Proof.Machine
end

