-- ==== Sys2Proof/Laws/Decode.lean ====
section
/-! SUPPORT. A format written into a word and read back is itself, with its opcode in OP (R39 to R48). -/

namespace Sys2Proof

/-- Reading a field that lies wholly in the high part, or wholly in the low part, of an append. -/
theorem extract_hi {n m : Nat} (x : BitVec n) (y : BitVec m) (s len : Nat) (h : m ≤ s) :
    (x ++ y).extractLsb' s len = x.extractLsb' (s - m) len := by
  apply BitVec.eq_of_getLsbD_eq
  intro i hi
  have e : s + i - m = s - m + i := by omega
  simp [BitVec.getLsbD_append, hi, show ¬ s + i < m by omega, e]

theorem extract_lo {n m : Nat} (x : BitVec n) (y : BitVec m) (s len : Nat) (h : s + len ≤ m) :
    (x ++ y).extractLsb' s len = y.extractLsb' s len := by
  apply BitVec.eq_of_getLsbD_eq
  intro i hi
  simp [BitVec.getLsbD_append, hi, show s + i < m by omega]

theorem extract_all {n : Nat} (x : BitVec n) : x.extractLsb' 0 n = x := by
  apply BitVec.eq_of_getLsbD_eq
  intro i hi
  simp [hi]

theorem extract_setWidth {n m : Nat} (x : BitVec n) (s len : Nat) (h : s + len ≤ m) :
    (x.setWidth m).extractLsb' s len = x.extractLsb' s len := by
  apply BitVec.eq_of_getLsbD_eq
  intro i hi
  simp [hi, show s + i < m by omega]

theorem bit_hi {n m : Nat} (x : BitVec n) (y : BitVec m) (s : Nat) (h : m ≤ s) :
    (x ++ y).getLsbD s = x.getLsbD (s - m) := by
  simp [BitVec.getLsbD_append, show ¬ s < m by omega]

theorem bit_lo {n m : Nat} (x : BitVec n) (y : BitVec m) (s : Nat) (h : s < m) :
    (x ++ y).getLsbD s = y.getLsbD s := by
  simp [BitVec.getLsbD_append, h]

theorem bit_setWidth {n m : Nat} (x : BitVec n) (s : Nat) (h : s < m) : (x.setWidth m).getLsbD s = x.getLsbD s := by
  simp [h]

theorem ofBool_bit (b : Bool) : (BitVec.ofBool b).getLsbD 0 = b := by cases b <;> rfl

theorem RForm.ofWord_toWord (op : BitVec 8) (f : RForm) : RForm.ofWord (f.toWord op) = f := by
  simp (disch := decide) only [RForm.ofWord, RForm.toWord, guardOf, bitsAt, extract_setWidth, extract_hi, extract_lo,
    Nat.sub_self, extract_all, bit_setWidth, bit_hi, bit_lo, ofBool_bit]

theorem RForm.op_toWord (op : BitVec 8) (f : RForm) : opOf (f.toWord op) = op := by
  simp (disch := decide) only [RForm.toWord, opOf, bitsAt, extract_setWidth, extract_hi, Nat.sub_self, extract_all]

theorem IForm.ofWord_toWord (op : BitVec 8) (f : IForm) : IForm.ofWord (f.toWord op) = f := by
  simp (disch := decide) only [IForm.ofWord, IForm.toWord, guardOf, bitsAt, extract_setWidth, extract_hi, extract_lo,
    Nat.sub_self, extract_all, bit_setWidth, bit_hi, bit_lo, ofBool_bit]

theorem IForm.op_toWord (op : BitVec 8) (f : IForm) : opOf (f.toWord op) = op := by
  simp (disch := decide) only [IForm.toWord, opOf, bitsAt, extract_setWidth, extract_hi, Nat.sub_self, extract_all]

theorem MForm.ofWord_toWord (op : BitVec 8) (f : MForm) : MForm.ofWord (f.toWord op) = f := by
  simp (disch := decide) only [MForm.ofWord, MForm.toWord, guardOf, bitsAt, extract_setWidth, extract_hi, extract_lo,
    Nat.sub_self, extract_all, bit_setWidth, bit_hi, bit_lo, ofBool_bit]

theorem MForm.op_toWord (op : BitVec 8) (f : MForm) : opOf (f.toWord op) = op := by
  simp (disch := decide) only [MForm.toWord, opOf, bitsAt, extract_setWidth, extract_hi, Nat.sub_self, extract_all]

theorem XForm.ofWord_toWord (op : BitVec 8) (f : XForm) : XForm.ofWord (f.toWord op) = f := by
  simp (disch := decide) only [XForm.ofWord, XForm.toWord, guardOf, bitsAt, extract_setWidth, extract_hi, extract_lo,
    Nat.sub_self, extract_all, bit_setWidth, bit_hi, bit_lo, ofBool_bit]

theorem XForm.op_toWord (op : BitVec 8) (f : XForm) : opOf (f.toWord op) = op := by
  simp (disch := decide) only [XForm.toWord, opOf, bitsAt, extract_setWidth, extract_hi, Nat.sub_self, extract_all]

theorem BForm.ofWord_toWord (op : BitVec 8) (f : BForm) : BForm.ofWord (f.toWord op) = f := by
  simp (disch := decide) only [BForm.ofWord, BForm.toWord, guardOf, bitsAt, extract_setWidth, extract_hi, extract_lo,
    Nat.sub_self, extract_all, bit_setWidth, bit_hi, bit_lo, ofBool_bit]

theorem BForm.op_toWord (op : BitVec 8) (f : BForm) : opOf (f.toWord op) = op := by
  simp (disch := decide) only [BForm.toWord, opOf, bitsAt, extract_setWidth, extract_hi, Nat.sub_self, extract_all]

theorem KForm.ofWord_toWord (op : BitVec 8) (f : KForm) : KForm.ofWord (f.toWord op) = f := by
  simp (disch := decide) only [KForm.ofWord, KForm.toWord, guardOf, bitsAt, extract_setWidth, extract_hi, extract_lo,
    Nat.sub_self, extract_all, bit_setWidth, bit_hi, bit_lo, ofBool_bit]

theorem KForm.op_toWord (op : BitVec 8) (f : KForm) : opOf (f.toWord op) = op := by
  simp (disch := decide) only [KForm.toWord, opOf, bitsAt, extract_setWidth, extract_hi, Nat.sub_self, extract_all]

theorem MSForm.ofWord_toWord (op : BitVec 8) (f : MSForm) : MSForm.ofWord (f.toWord op) = f := by
  simp (disch := decide) only [MSForm.ofWord, MSForm.toWord, bitsAt, extract_setWidth, extract_hi, extract_lo,
    Nat.sub_self, extract_all, bit_setWidth, bit_hi, bit_lo, ofBool_bit]

theorem MSForm.op_toWord (op : BitVec 8) (f : MSForm) : opOf (f.toWord op) = op := by
  simp (disch := decide) only [MSForm.toWord, opOf, bitsAt, extract_setWidth, extract_hi, Nat.sub_self, extract_all]

theorem Header.ofWord_toWord (h : Header) : Header.ofWord h.toWord = h := by
  simp (disch := decide) only [Header.ofWord, Header.toWord, bitsAt, extract_setWidth, extract_hi, extract_lo,
    Nat.sub_self, extract_all, bit_setWidth, bit_hi, bit_lo, ofBool_bit]

end Sys2Proof
end

