-- ==== Sys2Proof/Laws/Far.lean ====
section
/-! SUPPORT. What the state holds after an instruction that also changes its team or its core. -/

namespace Sys2Proof.Machine

/-- The state after `close`, as each of its parts shows it. -/
structure Ctx.Closed (y : Ctx) (t : State) (cost : Nat) : Prop where
  thread : ∀ b, (t.threadAt y.w b).strip = (y.wave.thread b).strip
  sr : ∀ n, t.sreg y.w n = y.wave.sreg n
  br : ∀ n, t.breg y.w n = y.wave.breg n
  wave : ∃ v, (t.waveAt y.w).map (·.2) = some v ∧ v.Like y.wave
  team : (t.teamOf y.w).map (fun q => { q with waves := [], leave := none })
    = some { y.team with waves := [], leave := none }
  waves : ∀ n, n ≠ y.w.wid → (t.teamOf y.w).map (·.wave n) = some (y.team.wave n)
  core : ({ t.core y.w.core with teams := [], perf := [] } : Core) = { y.core with teams := [], perf := [] }
  teams : ∀ o, o ≠ y.w.team → (t.core y.w.core).team o = y.core.team o
  cores : ∀ c, c ≠ y.w.core → t.core c = y.s.core c
  rest : { t with cycle := 0, agenda := [], cores := [] } = { y.s with cycle := 0, agenda := [], cores := [] }
  agenda : y.s.agenda <+: t.agenda
  time : t.cycle = y.s.cycle + cost

theorem Ctx.Ok.state_core {x : Ctx} (h : x.Ok) (c : CoreId) :
    x.state.core c = if c = x.w.core then x.core.setTeam (x.team.setWave x.wave) else x.s.core c := by
  unfold Ctx.state
  rw [State.core_setCore, Core.setTeam_id, h.id]

theorem Ctx.closed_of {y z : Ctx} (hz : z.Ok) {l : List (Nat × Due)} {cost : Nat} (zw : z.w = y.w)
    (lz : z.wave.Like y.wave) (sz : z.s = y.s) (cz : ({ z.core with perf := [] } : Core) = { y.core with perf := [] })
    (tz : ({ z.team with leave := none } : Team) = { y.team with leave := none }) :
    y.Closed { z.state with cycle := y.s.cycle + cost, agenda := y.s.agenda ++ l } cost := by
  have cteams : z.core.teams = y.core.teams := by
    have := congrArg (·.teams) cz; exact this
  have twaves : z.team.waves = y.team.waves := by
    have := congrArg (·.waves) tz; exact this
  have here : State.core { z.state with cycle := y.s.cycle + cost, agenda := y.s.agenda ++ l } y.w.core
      = z.core.setTeam (z.team.setWave z.wave) := by
    have := hz.state_core y.w.core
    rw [zw] at this
    rw [if_pos rfl] at this
    exact this
  have tm : State.teamOf { z.state with cycle := y.s.cycle + cost, agenda := y.s.agenda ++ l } y.w
      = some (z.team.setWave z.wave) := by rw [← zw]; exact hz.state_teamOf
  have wv : State.waveAt { z.state with cycle := y.s.cycle + cost, agenda := y.s.agenda ++ l } y.w
      = some (z.team.setWave z.wave, z.wave) := by rw [← zw]; exact hz.state_waveAt
  refine ⟨?_, ?_, ?_, ⟨z.wave, ?_, lz⟩, ?_, ?_, ?_, ?_, ?_, ?_, List.prefix_append _ _, rfl⟩
  · intro b
    unfold State.threadAt
    rw [wv]
    exact lz.1 b
  · intro n
    unfold State.sreg Wave.sreg
    rw [wv]
    simp only [lz.s]
  · intro n
    unfold State.breg Wave.breg
    rw [wv]
    simp only [lz.b]
  · rw [wv]; rfl
  · rw [tm]
    have := congrArg (fun q : Team => some ({ q with waves := [] } : Team)) tz
    exact this
  · intro n hn
    rw [tm, Option.map_some, Team.wave_setWave, hz.wid, zw, if_neg hn]
    unfold Team.wave
    rw [twaves]
  · rw [here]
    have := congrArg (fun q : Core => ({ q with teams := [] } : Core)) cz
    exact this
  · intro o ho
    rw [here, Core.team_setTeam, Team.setWave_oid, hz.oid, zw, if_neg ho]
    unfold Core.team
    rw [cteams]
  · intro c hc
    have := hz.state_core c
    rw [zw, if_neg hc, sz] at this
    exact this
  · show ({ z.s with cycle := 0, agenda := [], cores := [] } : State) = _
    rw [sz]

theorem Ctx.Ok.close_closed {y : Ctx} (h : y.Ok) (cost ops : Nat) : y.Closed (y.close cost ops) cost := by
  obtain ⟨z, l, z1, z2, z3, -, z5, z6, z7, z8⟩ := Ctx.close_eq y cost ops
  rw [z5]
  exact Ctx.closed_of (h.of_rest z1) z6 z2 z3 z7 z8

/-- A held instruction leaves everything but scheduling state, and a cycle passes. -/
theorem Ctx.Ok.hold_closed {y : Ctx} (h : y.Ok) : y.Closed y.hold 1 := by
  obtain ⟨z, z1, z2, z3, z4, z6, z5⟩ := Ctx.hold_eq y
  have e : y.hold = { z.state with cycle := y.s.cycle + 1, agenda := y.s.agenda ++ [] } := by
    rw [z5, List.append_nil, ← z3]
    rfl
  rw [e]
  refine Ctx.closed_of (h.of_rest z1) (Ctx.rest_w z1) z2 z3 ?_ ?_
  · rw [z6]
  · rw [z4]

/-! Contexts that differ in what an instruction may change of its team, its core and the scheduling state of its wave. -/

/-- The package but for what an instruction may change of it at issue. -/
def State.far (s : State) : State := { s with cycle := 0, agenda := [], cores := [], ctr := 0, nextId := 0, l2 := [], l2c := [], cupola := [] }

/-- `y` is about the wave of `x`, with nothing changed outside its own team, core and wave. -/
structure Ctx.Beside (x y : Ctx) : Prop where
  w : y.w = x.w
  id : y.core.id = x.core.id
  teams : y.core.teams = x.core.teams
  oid : y.team.oid = x.team.oid
  waves : y.team.waves = x.team.waves
  wid : y.wave.wid = x.wave.wid
  far : y.s.far = x.s.far
  scores : y.s.cores = x.s.cores
  cycle : y.s.cycle = x.s.cycle
  agenda : x.s.agenda <+: y.s.agenda

/-- And no thread, register or run has changed either, but for scheduling state. -/
structure Ctx.Near (x y : Ctx) : Prop where
  beside : x.Beside y
  run : y.run = x.run
  pc : y.pc = x.pc
  cb : y.cb = x.cb
  wrun : y.wave.run = x.wave.run
  thread : ∀ t, (y.wave.thread t).strip = (x.wave.thread t).strip
  sr : y.wave.s = x.wave.s
  br : y.wave.b = x.wave.b

theorem Ctx.Beside.refl (x : Ctx) : x.Beside x :=
  ⟨rfl, rfl, rfl, rfl, rfl, rfl, rfl, rfl, rfl, List.prefix_refl _⟩

theorem Ctx.Beside.trans {x y z : Ctx} (h : x.Beside y) (g : y.Beside z) : x.Beside z where
  w := g.w.trans h.w
  id := g.id.trans h.id
  teams := g.teams.trans h.teams
  oid := g.oid.trans h.oid
  waves := g.waves.trans h.waves
  wid := g.wid.trans h.wid
  far := g.far.trans h.far
  scores := g.scores.trans h.scores
  cycle := g.cycle.trans h.cycle
  agenda := h.agenda.trans g.agenda

theorem Ctx.Near.refl (x : Ctx) : x.Near x := ⟨.refl x, rfl, rfl, rfl, rfl, fun _ => rfl, rfl, rfl⟩

theorem Ctx.Near.trans {x y z : Ctx} (h : x.Near y) (g : y.Near z) : x.Near z where
  beside := h.beside.trans g.beside
  run := g.run.trans h.run
  pc := g.pc.trans h.pc
  cb := g.cb.trans h.cb
  wrun := g.wrun.trans h.wrun
  thread t := (g.thread t).trans (h.thread t)
  sr := g.sr.trans h.sr
  br := g.br.trans h.br

theorem Ctx.Beside.ok {x y : Ctx} (n : x.Beside y) (h : x.Ok) : y.Ok where
  id := by rw [n.id, n.w, h.id]
  oid := by rw [n.oid, n.w, h.oid]
  wid := by rw [n.wid, n.w, h.wid]
  team := by unfold Core.team; rw [n.teams, n.w]; exact h.team
  wave := by unfold Team.wave; rw [n.waves, n.w]; exact h.wave

theorem Ctx.beside_of_rest {x y : Ctx} (e : y.rest = x.rest) (a : x.s.agenda <+: y.s.agenda) : x.Beside y where
  w := Ctx.rest_w e
  id := Ctx.rest_id e
  teams := Ctx.rest_teams e
  oid := Ctx.rest_oid e
  waves := Ctx.rest_waves e
  wid := Ctx.rest_wid e
  far := by
    have := congrArg (fun q : Ctx => q.s.far) e
    exact this
  scores := by
    have := congrArg (fun q : Ctx => q.s.cores) e
    exact this
  cycle := by
    have := congrArg (fun q : Ctx => q.s.cycle) e
    exact this
  agenda := a

theorem Ctx.near_modTeam (x : Ctx) (f : Team → Team) (ho : (f x.team).oid = x.team.oid) (hw : (f x.team).waves = x.team.waves) :
    x.Near (x.modTeam f) :=
  ⟨⟨rfl, rfl, rfl, ho, hw, rfl, rfl, rfl, rfl, List.prefix_refl _⟩, rfl, rfl, rfl, rfl, fun _ => rfl, rfl, rfl⟩

theorem Ctx.near_modCore (x : Ctx) (f : Core → Core) (hi : (f x.core).id = x.core.id) (ht : (f x.core).teams = x.core.teams) :
    x.Near (x.modCore f) :=
  ⟨⟨rfl, hi, ht, rfl, rfl, rfl, rfl, rfl, rfl, List.prefix_refl _⟩, rfl, rfl, rfl, rfl, fun _ => rfl, rfl, rfl⟩

theorem Ctx.near_modState (x : Ctx) (f : State → State) (hf : (f x.s).far = x.s.far) (hk : (f x.s).cores = x.s.cores)
    (hc : (f x.s).cycle = x.s.cycle) (ha : x.s.agenda <+: (f x.s).agenda) : x.Near (x.modState f) :=
  ⟨⟨rfl, rfl, rfl, rfl, rfl, rfl, hf, hk, hc, ha⟩, rfl, rfl, rfl, rfl, fun _ => rfl, rfl, rfl⟩

theorem Ctx.near_modWave (x : Ctx) (f : Wave → Wave) (hw : (f x.wave).wid = x.wave.wid) (hr : (f x.wave).run = x.wave.run)
    (ht : ∀ t, ((f x.wave).thread t).strip = (x.wave.thread t).strip) (hs : (f x.wave).s = x.wave.s)
    (hb : (f x.wave).b = x.wave.b) : x.Near (x.modWave f) :=
  ⟨⟨rfl, rfl, rfl, rfl, rfl, hw, rfl, rfl, rfl, List.prefix_refl _⟩, rfl, rfl, rfl, hr, ht, hs, hb⟩

/-- What `Closed` gives of the state from which a context beside came. -/
theorem State.Holds.elsewhere {s t : State} {x y : Ctx} {cost : Nat} (h : s.Holds x) (n : x.Beside y) (c : y.Closed t cost) :
    s.Elsewhere t x.w where
  rest := by
    have e : t.far = y.s.far := by
      have := congrArg State.far c.rest
      exact this
    have e2 : t.far = s.far := by rw [e, n.far, h.st]
    have := congrArg (fun q : State =>
      ({ q with cycle := s.cycle, agenda := s.agenda, cores := s.cores, ctr := s.ctr, nextId := s.nextId, l2 := s.l2, l2c := s.l2c, cupola := s.cupola } : State)) e2
    exact this
  agenda := by rw [← h.st]; exact n.agenda.trans c.agenda
  cores k hk := by
    rw [c.cores k (by rw [n.w]; exact hk)]
    unfold State.core
    rw [n.scores, h.st]
  teams o ho := by
    have := c.teams o (by rw [n.w]; exact ho)
    rw [n.w] at this
    rw [this]
    unfold Core.team
    rw [n.teams, h.core]
  waves k hk := by
    have := c.waves k (by rw [n.w]; exact hk)
    rw [n.w] at this
    rw [this, show s.teamOf x.w = some x.team from h.team]
    unfold Team.wave
    rw [n.waves]
    rfl

/-- The registers that `Closed` shows are those of a near context. -/
theorem State.Holds.sameRegs {s t : State} {x y : Ctx} {cost : Nat} (h : s.Holds x) (c : y.Closed t cost) (hw : y.w = x.w)
    (hv : ∀ b, (y.wave.thread b).v = (x.wave.thread b).v) (hp : ∀ b, (y.wave.thread b).p = (x.wave.thread b).p)
    (hs : y.wave.s = x.wave.s) (hb : y.wave.b = x.wave.b) : s.Wrote t x.w [] where
  v b n _ _ := by
    show ((t.threadAt x.w b).reg n) = ((s.threadAt x.w b).reg n)
    unfold Thread.reg
    rw [← hw, Thread.strip_v (c.thread b), hv b, hw, Thread.strip_v (h.threadAt b)]
  p b n _ _ := by
    show ((t.threadAt x.w b).pred n) = ((s.threadAt x.w b).pred n)
    unfold Thread.pred
    rw [← hw, Thread.strip_p (c.thread b), hp b, hw, Thread.strip_p (h.threadAt b)]
  sr n _ := by
    show t.sreg x.w n = s.sreg x.w n
    rw [← hw, c.sr n, hw, h.sreg n]
    unfold Wave.sreg
    rw [hs]
  br n _ := by
    show t.breg x.w n = s.breg x.w n
    rw [← hw, c.br n, hw, h.breg n]
    unfold Wave.breg
    rw [hb]

/-- The run passes after changes of the team, the core or the wave's operations: everything the state shows of it. -/
theorem State.Holds.passed {s : State} {x y : Ctx} (h : s.Holds x) (n : x.Near y) (cost ops : Nat) :
    s.Passed (y.next.close cost ops) x cost ∧ y.next.Closed (y.next.close cost ops) cost := by
  have hy : y.Ok := n.beside.ok h.ok
  have e : y.next.rest = y.rest := Ctx.rest_next y
  have hny : y.next.Ok := hy.of_rest e
  have c := hny.close_closed cost ops
  have nw : y.next.w = x.w := (Ctx.rest_w e).trans n.beside.w
  obtain ⟨n1, n2, n3, n4, n5, n6⟩ := Ctx.fall_spec y y.wave.members (Wave.members_nodup _)
    (fun t ht => (Wave.mem_members.mp ht).1)
  have en : y.next = y.wave.members.foldl Ctx.fallThrough y := rfl
  rw [← en] at n1 n2 n3 n4 n5 n6
  have elig : ∀ t, (y.wave.thread t).eligible = (x.wave.thread t).eligible := fun t => by
    unfold Thread.eligible; rw [Thread.strip_life (n.thread t)]
  have mem : ∀ t, t ∈ y.wave.members ↔ t ∈ x.run := fun t => by
    rw [h.run, Wave.mem_members, Wave.mem_members, n.wrun, elig]
  have npc : ∀ a, y.nextPc a = x.nextPc a := fun a =>
    Ctx.nextPc_congr n.pc (Thread.strip_cb (n.thread a)) (Thread.strip_hdr (n.thread a))
  have s0 := h.threadAt
  have th : ∀ b, ((y.next.close cost ops).threadAt x.w b).strip = (y.next.wave.thread b).strip := fun b => by
    rw [← nw]; exact c.thread b
  have bes : x.Beside y.next := n.beside.trans (Ctx.beside_of_rest e ⟨[], by simp [n6]⟩)
  refine ⟨⟨h.elsewhere bes c, ?_, ?_, ?_, ?_⟩, c⟩
  · refine h.sameRegs c nw (fun b => ?_) (fun b => ?_) (n2.trans n.sr) (n3.trans n.br)
    · rw [n1, ← Thread.strip_v (n.thread b)]
      split
      · rw [Ctx.passed_v]
      · rfl
    · rw [n1, ← Thread.strip_p (n.thread b)]
      split
      · rw [Ctx.passed_p]
      · rfl
  · intro a ha
    unfold State.pcAt State.recAt
    rw [Thread.strip_pc (th a), Thread.strip_rcd (th a), Thread.strip_life (th a), n1, if_pos ((mem a).mpr ha), Ctx.passed_pc,
      Ctx.passed_rcd, Ctx.passed_life, Thread.strip_rcd (n.thread a), Thread.strip_rcd (s0 a), npc]
    refine ⟨rfl, rfl, ?_⟩
    have := (Wave.mem_members.mp ((mem a).mpr ha)).2.2
    unfold Thread.eligible at this
    exact eq_of_beq this
  · intro a _ ha
    unfold State.pcAt State.recAt
    rw [Thread.strip_pc (th a), Thread.strip_rcd (th a), Thread.strip_life (th a), n1, if_neg (fun q => ha ((mem a).mp q)),
      Thread.strip_pc (n.thread a), Thread.strip_rcd (n.thread a), Thread.strip_life (n.thread a), Thread.strip_pc (s0 a),
      Thread.strip_rcd (s0 a), Thread.strip_life (s0 a)]
    exact ⟨rfl, rfl, rfl⟩
  · rw [c.time, n6, n.beside.cycle, h.st]

/-- The run is held after changes that leave threads and registers alone. -/
theorem State.Holds.held {s : State} {x y : Ctx} (h : s.Holds x) (n : x.Near y) : s.Held y.hold x := by
  have c := (n.beside.ok h.ok).hold_closed
  have th : ∀ b, (y.hold.threadAt x.w b).strip = (y.wave.thread b).strip := fun b => by
    rw [← n.beside.w]; exact c.thread b
  refine ⟨h.elsewhere n.beside c, h.sameRegs c n.beside.w (fun b => Thread.strip_v (n.thread b))
    (fun b => Thread.strip_p (n.thread b)) n.sr n.br, fun a => ?_, by rw [c.time, n.beside.cycle, h.st]⟩
  unfold State.pcAt State.recAt
  rw [Thread.strip_pc (th a), Thread.strip_rcd (th a), Thread.strip_life (th a), Thread.strip_pc (n.thread a),
    Thread.strip_rcd (n.thread a), Thread.strip_life (n.thread a), Thread.strip_pc (h.threadAt a),
    Thread.strip_rcd (h.threadAt a), Thread.strip_life (h.threadAt a)]
  exact ⟨rfl, rfl, rfl⟩

end Sys2Proof.Machine
end

