-- ==== Sys2Proof/Laws/Invariant.lean ====
section
/-! SUPPORT. The operations that write a memory keep its canonical form, and everything that writes none keeps it. -/

namespace Sys2Proof.Machine.State

/-- The invariant is about three fields alone. -/
theorem Inv.of_eq {s t : State} (h : s.Inv) (hm : t.mem = s.mem) (hb : t.bar2 = s.bar2) (hs : t.staging = s.staging) : t.Inv := by
  unfold Inv at *
  rw [hm, hb, hs]
  exact h

theorem Inv.writes {s : State} (h : s.Inv) (cs : List Host.Cell) : ({ s with mem := memWrites s.mem cs } : State).Inv :=
  ⟨memWrites_wf h.1, h.2⟩

theorem Inv.write {s : State} (h : s.Inv) (a : Nat) (b : Byte) : ({ s with mem := memWrite s.mem a b } : State).Inv :=
  ⟨memWrite_wf h.1, h.2⟩

theorem Inv.keep {s : State} (h : s.Inv) (p : Host.Cell → Bool) : ({ s with mem := s.mem.filter p } : State).Inv :=
  ⟨filter_wf h.1, h.2⟩

theorem reset_inv : State.reset.Inv := ⟨rfl, rfl, rfl⟩

/-! What writes no memory. -/

@[simp] theorem inv_post {s : State} {d : Nat} {i : Due} : (s.post d i).Inv ↔ s.Inv := Iff.rfl
@[simp] theorem inv_later {s : State} {i : Due} : (s.later i).Inv ↔ s.Inv := Iff.rfl
@[simp] theorem inv_tick {s : State} {n : Nat} : (s.tick n).Inv ↔ s.Inv := Iff.rfl
@[simp] theorem inv_setCore {s : State} {k : Core} : (s.setCore k).Inv ↔ s.Inv := Iff.rfl
@[simp] theorem inv_modCore {s : State} {c : CoreId} {f : Core → Core} : (s.modCore c f).Inv ↔ s.Inv := Iff.rfl
@[simp] theorem inv_setMreg {s : State} {o : Nat} {v : DWord} : (s.setMreg o v).Inv ↔ s.Inv := Iff.rfl
@[simp] theorem inv_logErr {s : State} {a b c d e : Nat} : (s.logErr a b c d e).Inv ↔ s.Inv := Iff.rfl
@[simp] theorem inv_record {s : State} {r : RingId} {b : BitVec 128} : (s.record r b).Inv ↔ s.Inv := Iff.rfl
@[simp] theorem inv_modSlot {s : State} {p k : Nat} {f : PortSlot → PortSlot} : (s.modSlot p k f).Inv ↔ s.Inv := Iff.rfl

/-- What an instruction of a wave leaves has the memories of the state in its context. -/
@[simp] theorem inv_state {x : Ctx} : x.state.Inv ↔ x.s.Inv := Iff.rfl
@[simp] theorem inv_hold {x : Ctx} : x.hold.Inv ↔ x.s.Inv := Iff.rfl

theorem inv_close {x : Ctx} {c n m : Nat} {e : Bool} : (x.close c n e m).Inv ↔ x.s.Inv := by
  unfold Ctx.close
  extract_lets y team
  split <;> exact Iff.rfl

/-! What does. -/

theorem memWith_wf {s : State} {a : Nat} {b : Byte} (h : s.Inv) : Memory.wf (s.memWith a b) = true := by
  unfold memWith
  split
  · exact memWrites_wf h.1
  · exact memWrite_wf h.1

theorem inv_physByte {s : State} {p : Option Nat} {a : Nat} {b : Byte} (h : s.Inv) : (s.physByte p a b).Inv := by
  unfold physByte
  have hw := memWith_wf (a := a) (b := b) h
  generalize s.memWith a b = m at hw
  split
  · exact ⟨hw, h.2⟩
  · exact h

theorem inv_physWrite {s : State} {p : Option Nat} {cs : List Host.Cell} (h : s.Inv) : (s.physWrite p cs).Inv := by
  unfold physWrite
  extract_lets s1
  have h1 : s1.Inv := by
    show (cs.foldl _ s).Inv
    clear s1
    induction cs generalizing s with
    | nil => exact h
    | cons c cs ih => exact ih (inv_physByte h)
  split
  · exact h1
  · exact h1

theorem inv_postOnce {s : State} {i : Due} (h : s.Inv) : (s.postOnce i).Inv := by
  unfold postOnce
  split <;> exact h

theorem inv_writeBack {s : State} {i : Nat} {r : BitVec 512} (h : s.Inv) : (s.writeBack i r).Inv := inv_physWrite h

theorem inv_putObj {s : State} {i : Nat} {r : BitVec 512} (h : s.Inv) : (s.putObj i r).Inv := by
  unfold putObj
  extract_lets s1
  have h1 : s1.Inv := h
  clear_value s1
  split
  · exact inv_postOnce (s := { s1 with dirty := _ }) h1
  · exact inv_writeBack h1

theorem inv_putHandle {s : State} {p x : Nat} {e : DWord} (h : s.Inv) : (s.putHandle p x e).Inv := inv_physWrite h

theorem inv_setEntryBit {s : State} {p : Nat} {e : Nat × Bool} {a b : Nat} {v : Bool} (h : s.Inv) : (s.setEntryBit p e a b v).Inv :=
  inv_physWrite h

theorem inv_setEntryBits {s : State} {p a b : Nat} {v : Bool} {es : List (Nat × Bool)} (h : s.Inv) :
    (es.foldl (fun s e => s.setEntryBit p e a b v) s).Inv := by
  induction es generalizing s with
  | nil => exact h
  | cons e es ih => exact ih (inv_setEntryBit h)

theorem inv_markGranted {s : State} {p q z : Nat} {va : BitVec 57} (h : s.Inv) : (s.markGranted p q z va).Inv := inv_setEntryBits h

theorem inv_unmapPage {s : State} {p q z : Nat} {va : BitVec 57} (h : s.Inv) : (s.unmapPage p q z va).Inv := inv_setEntryBits h

theorem inv_mapPage {s : State} {p q z a : Nat} {va : BitVec 57} {r : BitVec 3} (h : s.Inv) : (s.mapPage p q z va a r).Inv := by
  unfold mapPage
  extract_lets d pfn
  split
  · exact h
  · split
    · split
      · exact inv_physWrite h
      · exact h
    · split
      · exact inv_physWrite h
      · exact h

theorem inv_putPcb {s : State} {x : PortSlot} {i : Nat} {v : Word} (h : s.Inv) : (s.putPcb x i v).Inv := inv_physWrite h

theorem inv_setNext {s : State} {x : PortSlot} {v : Word} (h : s.Inv) : (s.setNext x v).Inv := by
  unfold setNext
  split
  · exact inv_postOnce h
  · exact h

theorem inv_journalDone {s : State} {x : PortSlot} (h : s.Inv) : (s.journalDone x).Inv := by
  unfold journalDone
  extract_lets again s1
  split
  · exact inv_postOnce (s := s1) h
  · exact h

theorem inv_rollForward {s : State} {p k : Nat} (h : s.Inv) : (s.rollForward p k).Inv := by
  unfold rollForward
  split
  · split
    · exact inv_journalDone (inv_putPcb (inv_putPcb (inv_putPcb h)))
    · exact h
  · exact h

theorem inv_writeFence {s : State} {x : PortSlot} {v : Word} (h : s.Inv) : (s.writeFence x v).Inv := h.writes _

theorem inv_noteOwn {s : State} {r : Bool × Nat} (h : s.Inv) : (s.noteOwn r).Inv := by
  unfold noteOwn
  extract_lets b
  split
  · exact inv_logErr.2 h
  · exact h

theorem inv_putTable {s : State} {r : Bool × Nat} {b : Byte} (h : s.Inv) : (s.putTable r b).Inv := inv_physWrite h

theorem inv_beginXfer {s : State} {x : Xfer} (h : s.Inv) : (s.beginXfer x).Inv := by
  unfold beginXfer
  extract_lets r s1
  have h1 : s1.Inv := inv_putTable (inv_noteOwn h)
  clear_value s1
  split
  · exact inv_later.2 h1
  · exact h1

theorem inv_loadWord {s : State} {c : Nat} {a b : DWord} (h : s.Inv) : (s.loadWord c a b).Inv := by
  have h1 := h.writes (cellsAt 0 (bytesLE 8 a.toNat ++ bytesLE 8 b.toNat))
  unfold loadWord
  generalize cellsAt 0 (bytesLE 8 a.toNat ++ bytesLE 8 b.toNat) = cs at h1 ⊢
  extract_lets q k s1
  have h2 : s1.Inv := ⟨h1.1, h.2⟩
  clear_value s1
  exact inv_setCore.2 h2

theorem inv_withFetchWord {s : State} {n w : Nat} (h : s.Inv) : (s.withFetchWord n w).Inv := by
  unfold withFetchWord
  split <;> exact inv_loadWord h

theorem inv_regWrite {s go : State} {p d o : Nat} {v r : DWord} {ok : Bool} (h : s.Inv) (hg : go.Inv) :
    (s.regWrite p d o v r ok go).Inv := by
  unfold regWrite notPerformed
  split
  · exact inv_logErr.2 h
  · split
    · exact hg
    · exact inv_logErr.2 h

theorem inv_writeBar2 {s : State} {o n : Nat} {v : DWord} (h : s.Inv)
    (hp : ∀ (p k : Nat) (q : State), q.Inv → (q.poke p k).Inv) : (s.writeBar2 o n v).Inv := by
  unfold writeBar2
  extract_lets p k w
  split
  · exact inv_regWrite h h
  · split
    · exact h
    · split
      · exact ⟨h.1, memWrites_wf h.2.1, h.2.2⟩
      · split
        · split
          · exact inv_logErr.2 h
          · exact hp _ _ _ (inv_modSlot.2 h)
        · exact h

theorem inv_retirePort {s : State} {r : RingId} : (s.retirePort r).Inv ↔ s.Inv := by
  unfold retirePort
  split
  · split <;> split <;> exact Iff.rfl
  · exact Iff.rfl

theorem inv_pcbNow {s : State} {p k : Nat} (h : s.Inv) : (s.pcbNow p k).Inv := by
  unfold pcbNow
  extract_lets s1
  have h1 : s1.Inv := inv_rollForward h
  clear_value s1
  split
  · extract_lets b
    split
    · exact inv_rollForward (inv_modSlot.2 h1)
    · exact h1
  · exact h1

theorem inv_pcbLast {s : State} {p k : Nat} (h : s.Inv) : (s.pcbLast p k).Inv := by
  unfold pcbLast
  split
  · split
    · exact h
    · exact inv_modSlot.2 (inv_pcbNow h)
  · exact h

theorem inv_unmapSlot {s : State} {p k : Nat} (h : s.Inv) : (s.unmapSlot p k).Inv := by
  unfold unmapSlot
  extract_lets s0 n ring s1
  have h0 : s0.Inv := inv_pcbLast h
  have h1 : s1.Inv := ⟨h0.1, filter_wf h0.2.1, h0.2.2⟩
  clear_value s1
  split
  · exact h0
  · extract_lets s2 s3
    refine inv_retirePort.2 (inv_post.2 ?_)
    have h2 : s2.Inv := by unfold s2; split <;> exact h1
    clear_value s2
    unfold s3
    split <;> exact h2

theorem inv_packageReset {s : State} (h : s.Inv) : s.packageReset.Inv :=
  (h.keep fun c => decide (2 ^ 41 ≤ c.1)).1 |> fun hm => ⟨hm, rfl, rfl⟩

end Sys2Proof.Machine.State
end

