-- ==== Sys2Proof/Laws/PerInstr.lean ====
section
/-! SUPPORT. The families of laws that are stated per instruction (LAWS.json): an instruction that its word encodes is read back from it. -/

namespace Sys2Proof.Laws.RoundTrip

/-- The word of a well-formed instruction decodes, in its class, to the instruction (R39 to R53). -/
def Statement (i : Instr) : Prop := ∀ e, encode i = some e → i.ok = true → decodeWord e.cls e.word = .ok i

theorem of_maker {i : Instr} {cls : Nat} {w : DWord} {mk : Maker} (h8 : cls < 8) (hm : maker cls (opOf w) = some mk)
    (hi : mk.make w = i) (he : encode i = some ⟨cls, w⟩) : Statement i := by
  intro e h hok
  rw [he] at h
  cases h
  simp only [decodeWord, if_pos h8, hm]
  rw [hi, if_pos hok]

theorem of_event {i : Instr} (h : encode i = none) : Statement i := by
  intro e he
  rw [h] at he
  cases he

theorem of_r (mk : RForm → Instr) (cls : Nat) (op : BitVec 8) (h8 : cls < 8) (hm : maker cls op = some (.r mk)) (f : RForm)
    (he : encode (mk f) = some ⟨cls, f.toWord op⟩) : Statement (mk f) :=
  of_maker (mk := .r mk) h8 (by rw [RForm.op_toWord]; exact hm) (congrArg mk (RForm.ofWord_toWord op f)) he

theorem of_i (mk : IForm → Instr) (cls : Nat) (op : BitVec 8) (h8 : cls < 8) (hm : maker cls op = some (.i mk)) (f : IForm)
    (he : encode (mk f) = some ⟨cls, f.toWord op⟩) : Statement (mk f) :=
  of_maker (mk := .i mk) h8 (by rw [IForm.op_toWord]; exact hm) (congrArg mk (IForm.ofWord_toWord op f)) he

theorem of_m (mk : MForm → Instr) (cls : Nat) (op : BitVec 8) (h8 : cls < 8) (hm : maker cls op = some (.m mk)) (f : MForm)
    (he : encode (mk f) = some ⟨cls, f.toWord op⟩) : Statement (mk f) :=
  of_maker (mk := .m mk) h8 (by rw [MForm.op_toWord]; exact hm) (congrArg mk (MForm.ofWord_toWord op f)) he

theorem of_x (mk : XForm → Instr) (cls : Nat) (op : BitVec 8) (h8 : cls < 8) (hm : maker cls op = some (.x mk)) (f : XForm)
    (he : encode (mk f) = some ⟨cls, f.toWord op⟩) : Statement (mk f) :=
  of_maker (mk := .x mk) h8 (by rw [XForm.op_toWord]; exact hm) (congrArg mk (XForm.ofWord_toWord op f)) he

theorem of_b (mk : BForm → Instr) (cls : Nat) (op : BitVec 8) (h8 : cls < 8) (hm : maker cls op = some (.b mk)) (f : BForm)
    (he : encode (mk f) = some ⟨cls, f.toWord op⟩) : Statement (mk f) :=
  of_maker (mk := .b mk) h8 (by rw [BForm.op_toWord]; exact hm) (congrArg mk (BForm.ofWord_toWord op f)) he

theorem of_k (mk : KForm → Instr) (cls : Nat) (op : BitVec 8) (h8 : cls < 8) (hm : maker cls op = some (.k mk)) (f : KForm)
    (he : encode (mk f) = some ⟨cls, f.toWord op⟩) : Statement (mk f) :=
  of_maker (mk := .k mk) h8 (by rw [KForm.op_toWord]; exact hm) (congrArg mk (KForm.ofWord_toWord op f)) he

theorem of_s (mk : MSForm → Instr) (cls : Nat) (op : BitVec 8) (h8 : cls < 8) (hm : maker cls op = some (.s mk)) (f : MSForm)
    (he : encode (mk f) = some ⟨cls, f.toWord op⟩) : Statement (mk f) :=
  of_maker (mk := .s mk) h8 (by rw [MSForm.op_toWord]; exact hm) (congrArg mk (MSForm.ofWord_toWord op f)) he

theorem iadd (f : RForm) : Statement (.iadd f) := of_r .iadd 0 0x00 (by decide) rfl f rfl
theorem iaddImm (f : IForm) : Statement (.iaddImm f) := of_i .iaddImm 0 0x80 (by decide) rfl f rfl
theorem isub (f : RForm) : Statement (.isub f) := of_r .isub 0 0x01 (by decide) rfl f rfl
theorem isubImm (f : IForm) : Statement (.isubImm f) := of_i .isubImm 0 0x81 (by decide) rfl f rfl
theorem iadd3 (f : RForm) : Statement (.iadd3 f) := of_r .iadd3 0 0x02 (by decide) rfl f rfl
theorem iaddc (f : RForm) : Statement (.iaddc f) := of_r .iaddc 0 0x03 (by decide) rfl f rfl
theorem imul (f : RForm) : Statement (.imul f) := of_r .imul 0 0x04 (by decide) rfl f rfl
theorem imulImm (f : IForm) : Statement (.imulImm f) := of_i .imulImm 0 0x84 (by decide) rfl f rfl
theorem imulh (f : RForm) : Statement (.imulh f) := of_r .imulh 0 0x05 (by decide) rfl f rfl
theorem imulhImm (f : IForm) : Statement (.imulhImm f) := of_i .imulhImm 0 0x85 (by decide) rfl f rfl
theorem imad (f : RForm) : Statement (.imad f) := of_r .imad 0 0x06 (by decide) rfl f rfl
theorem imadw (f : RForm) : Statement (.imadw f) := of_r .imadw 0 0x07 (by decide) rfl f rfl
theorem imin (f : RForm) : Statement (.imin f) := of_r .imin 0 0x08 (by decide) rfl f rfl
theorem iminImm (f : IForm) : Statement (.iminImm f) := of_i .iminImm 0 0x88 (by decide) rfl f rfl
theorem imax (f : RForm) : Statement (.imax f) := of_r .imax 0 0x09 (by decide) rfl f rfl
theorem imaxImm (f : IForm) : Statement (.imaxImm f) := of_i .imaxImm 0 0x89 (by decide) rfl f rfl
theorem iabs (f : RForm) : Statement (.iabs f) := of_r .iabs 0 0x0A (by decide) rfl f rfl
theorem ineg (f : RForm) : Statement (.ineg f) := of_r .ineg 0 0x0B (by decide) rfl f rfl
theorem icmp (f : RForm) : Statement (.icmp f) := of_r .icmp 0 0x0C (by decide) rfl f rfl
theorem icmpImm (cc : Fin 6) (f : IForm) : Statement (.icmpImm cc f) := by
  match cc with
  | 0 => exact of_i (.icmpImm 0) 0 0xE0 (by decide) rfl f rfl
  | 1 => exact of_i (.icmpImm 1) 0 0xE1 (by decide) rfl f rfl
  | 2 => exact of_i (.icmpImm 2) 0 0xE2 (by decide) rfl f rfl
  | 3 => exact of_i (.icmpImm 3) 0 0xE3 (by decide) rfl f rfl
  | 4 => exact of_i (.icmpImm 4) 0 0xE4 (by decide) rfl f rfl
  | 5 => exact of_i (.icmpImm 5) 0 0xE5 (by decide) rfl f rfl
theorem isel (f : RForm) : Statement (.isel f) := of_r .isel 0 0x0D (by decide) rfl f rfl
theorem lea (f : RForm) : Statement (.lea f) := of_r .lea 0 0x0E (by decide) rfl f rfl
theorem leaImm (f : IForm) : Statement (.leaImm f) := of_i .leaImm 0 0x8E (by decide) rfl f rfl
theorem clamp (f : RForm) : Statement (.clamp f) := of_r .clamp 0 0x0F (by decide) rfl f rfl
theorem and (f : RForm) : Statement (.and f) := of_r .and 0 0x10 (by decide) rfl f rfl
theorem andImm (f : IForm) : Statement (.andImm f) := of_i .andImm 0 0x90 (by decide) rfl f rfl
theorem or (f : RForm) : Statement (.or f) := of_r .or 0 0x11 (by decide) rfl f rfl
theorem orImm (f : IForm) : Statement (.orImm f) := of_i .orImm 0 0x91 (by decide) rfl f rfl
theorem xor (f : RForm) : Statement (.xor f) := of_r .xor 0 0x12 (by decide) rfl f rfl
theorem xorImm (f : IForm) : Statement (.xorImm f) := of_i .xorImm 0 0x92 (by decide) rfl f rfl
theorem andn (f : RForm) : Statement (.andn f) := of_r .andn 0 0x13 (by decide) rfl f rfl
theorem andnImm (f : IForm) : Statement (.andnImm f) := of_i .andnImm 0 0x93 (by decide) rfl f rfl
theorem orn (f : RForm) : Statement (.orn f) := of_r .orn 0 0x14 (by decide) rfl f rfl
theorem ornImm (f : IForm) : Statement (.ornImm f) := of_i .ornImm 0 0x94 (by decide) rfl f rfl
theorem shl (f : RForm) : Statement (.shl f) := of_r .shl 0 0x15 (by decide) rfl f rfl
theorem shlImm (f : IForm) : Statement (.shlImm f) := of_i .shlImm 0 0x95 (by decide) rfl f rfl
theorem shr (f : RForm) : Statement (.shr f) := of_r .shr 0 0x16 (by decide) rfl f rfl
theorem shrImm (f : IForm) : Statement (.shrImm f) := of_i .shrImm 0 0x96 (by decide) rfl f rfl
theorem sar (f : RForm) : Statement (.sar f) := of_r .sar 0 0x17 (by decide) rfl f rfl
theorem sarImm (f : IForm) : Statement (.sarImm f) := of_i .sarImm 0 0x97 (by decide) rfl f rfl
theorem rol (f : RForm) : Statement (.rol f) := of_r .rol 0 0x18 (by decide) rfl f rfl
theorem rolImm (f : IForm) : Statement (.rolImm f) := of_i .rolImm 0 0x98 (by decide) rfl f rfl
theorem fsh (f : RForm) : Statement (.fsh f) := of_r .fsh 0 0x19 (by decide) rfl f rfl
theorem bfx (f : RForm) : Statement (.bfx f) := of_r .bfx 0 0x1A (by decide) rfl f rfl
theorem bfxImm (f : IForm) : Statement (.bfxImm f) := of_i .bfxImm 0 0x9A (by decide) rfl f rfl
theorem bfi (f : RForm) : Statement (.bfi f) := of_r .bfi 0 0x1B (by decide) rfl f rfl
theorem popc (f : RForm) : Statement (.popc f) := of_r .popc 0 0x1C (by decide) rfl f rfl
theorem clz (f : RForm) : Statement (.clz f) := of_r .clz 0 0x1D (by decide) rfl f rfl
theorem ctz (f : RForm) : Statement (.ctz f) := of_r .ctz 0 0x1E (by decide) rfl f rfl
theorem brev (f : RForm) : Statement (.brev f) := of_r .brev 0 0x1F (by decide) rfl f rfl
theorem perm (f : RForm) : Statement (.perm f) := of_r .perm 0 0x54 (by decide) rfl f rfl
theorem mov (f : RForm) : Statement (.mov f) := of_r .mov 0 0x55 (by decide) rfl f rfl
theorem movi (f : IForm) : Statement (.movi f) := of_i .movi 0 0xD5 (by decide) rfl f rfl
theorem pand (f : RForm) : Statement (.pand f) := of_r .pand 0 0x58 (by decide) rfl f rfl
theorem por (f : RForm) : Statement (.por f) := of_r .por 0 0x59 (by decide) rfl f rfl
theorem pxor (f : RForm) : Statement (.pxor f) := of_r .pxor 0 0x5A (by decide) rfl f rfl
theorem pnot (f : RForm) : Statement (.pnot f) := of_r .pnot 0 0x5B (by decide) rfl f rfl
theorem pset (f : RForm) : Statement (.pset f) := of_r .pset 0 0x5C (by decide) rfl f rfl
theorem fadd (f : RForm) : Statement (.fadd f) := of_r .fadd 0 0x30 (by decide) rfl f rfl
theorem faddImm (f : IForm) : Statement (.faddImm f) := of_i .faddImm 0 0xB0 (by decide) rfl f rfl
theorem fsub (f : RForm) : Statement (.fsub f) := of_r .fsub 0 0x31 (by decide) rfl f rfl
theorem fsubImm (f : IForm) : Statement (.fsubImm f) := of_i .fsubImm 0 0xB1 (by decide) rfl f rfl
theorem fmul (f : RForm) : Statement (.fmul f) := of_r .fmul 0 0x32 (by decide) rfl f rfl
theorem fmulImm (f : IForm) : Statement (.fmulImm f) := of_i .fmulImm 0 0xB2 (by decide) rfl f rfl
theorem ffma (f : RForm) : Statement (.ffma f) := of_r .ffma 0 0x33 (by decide) rfl f rfl
theorem fmin (f : RForm) : Statement (.fmin f) := of_r .fmin 0 0x34 (by decide) rfl f rfl
theorem fminImm (f : IForm) : Statement (.fminImm f) := of_i .fminImm 0 0xB4 (by decide) rfl f rfl
theorem fmax (f : RForm) : Statement (.fmax f) := of_r .fmax 0 0x35 (by decide) rfl f rfl
theorem fmaxImm (f : IForm) : Statement (.fmaxImm f) := of_i .fmaxImm 0 0xB5 (by decide) rfl f rfl
theorem fminn (f : RForm) : Statement (.fminn f) := of_r .fminn 0 0x36 (by decide) rfl f rfl
theorem fminnImm (f : IForm) : Statement (.fminnImm f) := of_i .fminnImm 0 0xB6 (by decide) rfl f rfl
theorem fmaxn (f : RForm) : Statement (.fmaxn f) := of_r .fmaxn 0 0x37 (by decide) rfl f rfl
theorem fmaxnImm (f : IForm) : Statement (.fmaxnImm f) := of_i .fmaxnImm 0 0xB7 (by decide) rfl f rfl
theorem fcmp (f : RForm) : Statement (.fcmp f) := of_r .fcmp 0 0x38 (by decide) rfl f rfl
theorem fcmpImm (cc : Fin 6) (f : IForm) : Statement (.fcmpImm cc f) := by
  match cc with
  | 0 => exact of_i (.fcmpImm 0) 0 0xE8 (by decide) rfl f rfl
  | 1 => exact of_i (.fcmpImm 1) 0 0xE9 (by decide) rfl f rfl
  | 2 => exact of_i (.fcmpImm 2) 0 0xEA (by decide) rfl f rfl
  | 3 => exact of_i (.fcmpImm 3) 0 0xEB (by decide) rfl f rfl
  | 4 => exact of_i (.fcmpImm 4) 0 0xEC (by decide) rfl f rfl
  | 5 => exact of_i (.fcmpImm 5) 0 0xED (by decide) rfl f rfl
theorem fclass (f : RForm) : Statement (.fclass f) := of_r .fclass 0 0x39 (by decide) rfl f rfl
theorem frcp (f : RForm) : Statement (.frcp f) := of_r .frcp 0 0x3A (by decide) rfl f rfl
theorem frsq (f : RForm) : Statement (.frsq f) := of_r .frsq 0 0x3B (by decide) rfl f rfl
theorem fsqrt (f : RForm) : Statement (.fsqrt f) := of_r .fsqrt 0 0x3C (by decide) rfl f rfl
theorem fexp2 (f : RForm) : Statement (.fexp2 f) := of_r .fexp2 0 0x3D (by decide) rfl f rfl
theorem flog2 (f : RForm) : Statement (.flog2 f) := of_r .flog2 0 0x3E (by decide) rfl f rfl
theorem fsin (f : RForm) : Statement (.fsin f) := of_r .fsin 0 0x3F (by decide) rfl f rfl
theorem fcos (f : RForm) : Statement (.fcos f) := of_r .fcos 0 0x40 (by decide) rfl f rfl
theorem ftanh (f : RForm) : Statement (.ftanh f) := of_r .ftanh 0 0x41 (by decide) rfl f rfl
theorem frnd (f : RForm) : Statement (.frnd f) := of_r .frnd 0 0x42 (by decide) rfl f rfl
theorem ffrc (f : RForm) : Statement (.ffrc f) := of_r .ffrc 0 0x43 (by decide) rfl f rfl
theorem fldexp (f : RForm) : Statement (.fldexp f) := of_r .fldexp 0 0x44 (by decide) rfl f rfl
theorem fldexpImm (f : IForm) : Statement (.fldexpImm f) := of_i .fldexpImm 0 0xC4 (by decide) rfl f rfl
theorem fgetexp (f : RForm) : Statement (.fgetexp f) := of_r .fgetexp 0 0x45 (by decide) rfl f rfl
theorem hadd2 (f : RForm) : Statement (.hadd2 f) := of_r .hadd2 0 0x46 (by decide) rfl f rfl
theorem hmul2 (f : RForm) : Statement (.hmul2 f) := of_r .hmul2 0 0x47 (by decide) rfl f rfl
theorem hfma2 (f : RForm) : Statement (.hfma2 f) := of_r .hfma2 0 0x48 (by decide) rfl f rfl
theorem hmin2 (f : RForm) : Statement (.hmin2 f) := of_r .hmin2 0 0x49 (by decide) rfl f rfl
theorem hmax2 (f : RForm) : Statement (.hmax2 f) := of_r .hmax2 0 0x4A (by decide) rfl f rfl
theorem fdot2 (f : RForm) : Statement (.fdot2 f) := of_r .fdot2 0 0x4B (by decide) rfl f rfl
theorem fdot4 (f : RForm) : Statement (.fdot4 f) := of_r .fdot4 0 0x4C (by decide) rfl f rfl
theorem idot4 (f : RForm) : Statement (.idot4 f) := of_r .idot4 0 0x4D (by decide) rfl f rfl
theorem cvt (f : RForm) : Statement (.cvt f) := of_r .cvt 0 0x50 (by decide) rfl f rfl
theorem cvtpk (f : RForm) : Statement (.cvtpk f) := of_r .cvtpk 0 0x51 (by decide) rfl f rfl
theorem bxpack (f : RForm) : Statement (.bxpack f) := of_r .bxpack 0 0x52 (by decide) rfl f rfl
theorem bxunpk (f : RForm) : Statement (.bxunpk f) := of_r .bxunpk 0 0x53 (by decide) rfl f rfl
theorem shfl (f : RForm) : Statement (.shfl f) := of_r .shfl 0 0x60 (by decide) rfl f rfl
theorem vote (f : RForm) : Statement (.vote f) := of_r .vote 0 0x61 (by decide) rfl f rfl
theorem redw (f : RForm) : Statement (.redw f) := of_r .redw 0 0x62 (by decide) rfl f rfl
theorem scanw (f : RForm) : Statement (.scanw f) := of_r .scanw 0 0x63 (by decide) rfl f rfl
theorem matchw (f : RForm) : Statement (.matchw f) := of_r .matchw 0 0x64 (by decide) rfl f rfl
theorem sadd (f : RForm) : Statement (.sadd f) := of_r .sadd 1 0x00 (by decide) rfl f rfl
theorem saddImm (f : IForm) : Statement (.saddImm f) := of_i .saddImm 1 0x80 (by decide) rfl f rfl
theorem ssub (f : RForm) : Statement (.ssub f) := of_r .ssub 1 0x01 (by decide) rfl f rfl
theorem ssubImm (f : IForm) : Statement (.ssubImm f) := of_i .ssubImm 1 0x81 (by decide) rfl f rfl
theorem smul (f : RForm) : Statement (.smul f) := of_r .smul 1 0x02 (by decide) rfl f rfl
theorem smulImm (f : IForm) : Statement (.smulImm f) := of_i .smulImm 1 0x82 (by decide) rfl f rfl
theorem smad (f : RForm) : Statement (.smad f) := of_r .smad 1 0x03 (by decide) rfl f rfl
theorem sand (f : RForm) : Statement (.sand f) := of_r .sand 1 0x04 (by decide) rfl f rfl
theorem sandImm (f : IForm) : Statement (.sandImm f) := of_i .sandImm 1 0x84 (by decide) rfl f rfl
theorem sor (f : RForm) : Statement (.sor f) := of_r .sor 1 0x05 (by decide) rfl f rfl
theorem sorImm (f : IForm) : Statement (.sorImm f) := of_i .sorImm 1 0x85 (by decide) rfl f rfl
theorem sxor (f : RForm) : Statement (.sxor f) := of_r .sxor 1 0x06 (by decide) rfl f rfl
theorem sxorImm (f : IForm) : Statement (.sxorImm f) := of_i .sxorImm 1 0x86 (by decide) rfl f rfl
theorem sshl (f : RForm) : Statement (.sshl f) := of_r .sshl 1 0x07 (by decide) rfl f rfl
theorem sshlImm (f : IForm) : Statement (.sshlImm f) := of_i .sshlImm 1 0x87 (by decide) rfl f rfl
theorem sshr (f : RForm) : Statement (.sshr f) := of_r .sshr 1 0x08 (by decide) rfl f rfl
theorem sshrImm (f : IForm) : Statement (.sshrImm f) := of_i .sshrImm 1 0x88 (by decide) rfl f rfl
theorem ssar (f : RForm) : Statement (.ssar f) := of_r .ssar 1 0x09 (by decide) rfl f rfl
theorem ssarImm (f : IForm) : Statement (.ssarImm f) := of_i .ssarImm 1 0x89 (by decide) rfl f rfl
theorem smin (f : RForm) : Statement (.smin f) := of_r .smin 1 0x0A (by decide) rfl f rfl
theorem sminImm (f : IForm) : Statement (.sminImm f) := of_i .sminImm 1 0x8A (by decide) rfl f rfl
theorem smax (f : RForm) : Statement (.smax f) := of_r .smax 1 0x0B (by decide) rfl f rfl
theorem smaxImm (f : IForm) : Statement (.smaxImm f) := of_i .smaxImm 1 0x8B (by decide) rfl f rfl
theorem scmp (f : RForm) : Statement (.scmp f) := of_r .scmp 1 0x0C (by decide) rfl f rfl
theorem scmpImm (cc : Fin 6) (f : IForm) : Statement (.scmpImm cc f) := by
  match cc with
  | 0 => exact of_i (.scmpImm 0) 1 0xE0 (by decide) rfl f rfl
  | 1 => exact of_i (.scmpImm 1) 1 0xE1 (by decide) rfl f rfl
  | 2 => exact of_i (.scmpImm 2) 1 0xE2 (by decide) rfl f rfl
  | 3 => exact of_i (.scmpImm 3) 1 0xE3 (by decide) rfl f rfl
  | 4 => exact of_i (.scmpImm 4) 1 0xE4 (by decide) rfl f rfl
  | 5 => exact of_i (.scmpImm 5) 1 0xE5 (by decide) rfl f rfl
theorem ssel (f : RForm) : Statement (.ssel f) := of_r .ssel 1 0x0D (by decide) rfl f rfl
theorem smov (f : RForm) : Statement (.smov f) := of_r .smov 1 0x0E (by decide) rfl f rfl
theorem smovi (f : IForm) : Statement (.smovi f) := of_i .smovi 1 0x8E (by decide) rfl f rfl
theorem sbfx (f : RForm) : Statement (.sbfx f) := of_r .sbfx 1 0x0F (by decide) rfl f rfl
theorem sbfxImm (f : IForm) : Statement (.sbfxImm f) := of_i .sbfxImm 1 0x8F (by decide) rfl f rfl
theorem spopc (f : RForm) : Statement (.spopc f) := of_r .spopc 1 0x10 (by decide) rfl f rfl
theorem sfirst (f : RForm) : Statement (.sfirst f) := of_r .sfirst 1 0x11 (by decide) rfl f rfl
theorem srd (f : RForm) : Statement (.srd f) := of_r .srd 1 0x12 (by decide) rfl f rfl
theorem swr (f : RForm) : Statement (.swr f) := of_r .swr 1 0x13 (by decide) rfl f rfl
theorem ldb (f : MForm) : Statement (.ldb f) := of_m .ldb 2 0x00 (by decide) rfl f rfl
theorem stb (f : MForm) : Statement (.stb f) := of_m .stb 2 0x01 (by decide) rfl f rfl
theorem atb (f : MForm) : Statement (.atb f) := of_m .atb 2 0x02 (by decide) rfl f rfl
theorem redb (f : MForm) : Statement (.redb f) := of_m .redb 2 0x03 (by decide) rfl f rfl
theorem lds (f : MForm) : Statement (.lds f) := of_m .lds 2 0x04 (by decide) rfl f rfl
theorem sts (f : MForm) : Statement (.sts f) := of_m .sts 2 0x05 (by decide) rfl f rfl
theorem ats (f : MForm) : Statement (.ats f) := of_m .ats 2 0x06 (by decide) rfl f rfl
theorem ldc (f : MForm) : Statement (.ldc f) := of_m .ldc 2 0x07 (by decide) rfl f rfl
theorem pref (f : MForm) : Statement (.pref f) := of_m .pref 2 0x08 (by decide) rfl f rfl
theorem cinv (f : MForm) : Statement (.cinv f) := of_m .cinv 2 0x09 (by decide) rfl f rfl
theorem cwb (f : MForm) : Statement (.cwb f) := of_m .cwb 2 0x0A (by decide) rfl f rfl
theorem tcopy (f : XForm) : Statement (.tcopy f) := of_x .tcopy 3 0x00 (by decide) rfl f rfl
theorem tstore (f : XForm) : Statement (.tstore f) := of_x .tstore 3 0x01 (by decide) rfl f rfl
theorem tred (f : XForm) : Statement (.tred f) := of_x .tred 3 0x02 (by decide) rfl f rfl
theorem bcopy (f : XForm) : Statement (.bcopy f) := of_x .bcopy 3 0x03 (by decide) rfl f rfl
theorem gathr (f : XForm) : Statement (.gathr f) := of_x .gathr 3 0x04 (by decide) rfl f rfl
theorem dcopy (f : XForm) : Statement (.dcopy f) := of_x .dcopy 3 0x05 (by decide) rfl f rfl
theorem acopy (f : XForm) : Statement (.acopy f) := of_x .acopy 3 0x06 (by decide) rfl f rfl
theorem rfence (f : XForm) : Statement (.rfence f) := of_x .rfence 3 0x07 (by decide) rfl f rfl
theorem wait (f : IForm) : Statement (.wait f) := of_i .wait 3 0x08 (by decide) rfl f rfl
theorem twait (f : XForm) : Statement (.twait f) := of_x .twait 3 0x09 (by decide) rfl f rfl
theorem tfind (f : XForm) : Statement (.tfind f) := of_x .tfind 3 0x0A (by decide) rfl f rfl
theorem fence (f : XForm) : Statement (.fence f) := of_x .fence 3 0x0B (by decide) rfl f rfl
theorem barinit (f : XForm) : Statement (.barinit f) := of_x .barinit 3 0x0C (by decide) rfl f rfl
theorem bara (f : XForm) : Statement (.bara f) := of_x .bara 3 0x0D (by decide) rfl f rfl
theorem barx (f : XForm) : Statement (.barx f) := of_x .barx 3 0x0E (by decide) rfl f rfl
theorem barw (f : XForm) : Statement (.barw f) := of_x .barw 3 0x0F (by decide) rfl f rfl
theorem bart (f : XForm) : Statement (.bart f) := of_x .bart 3 0x10 (by decide) rfl f rfl
theorem mma (f : MSForm) : Statement (.mma f) := of_s .mma 4 0x01 (by decide) rfl f rfl
theorem mzero (f : MSForm) : Statement (.mzero f) := of_s .mzero 4 0x02 (by decide) rfl f rfl
theorem mload (f : MSForm) : Statement (.mload f) := of_s .mload 4 0x03 (by decide) rfl f rfl
theorem mdrain (f : MSForm) : Statement (.mdrain f) := of_s .mdrain 4 0x04 (by decide) rfl f rfl
theorem mbarw (f : MSForm) : Statement (.mbarw f) := of_s .mbarw 4 0x05 (by decide) rfl f rfl
theorem mbara (f : MSForm) : Statement (.mbara f) := of_s .mbara 4 0x06 (by decide) rfl f rfl
theorem mloop (f : MSForm) : Statement (.mloop f) := of_s .mloop 4 0x07 (by decide) rfl f rfl
theorem mjmp (f : MSForm) : Statement (.mjmp f) := of_s .mjmp 4 0x08 (by decide) rfl f rfl
theorem maddi (f : MSForm) : Statement (.maddi f) := of_s .maddi 4 0x09 (by decide) rfl f rfl
theorem mend (f : MSForm) : Statement (.mend f) := of_s .mend 4 0x0A (by decide) rfl f rfl
theorem mnop (f : MSForm) : Statement (.mnop f) := of_s .mnop 4 0x0B (by decide) rfl f rfl
theorem nop (f : RForm) : Statement (.nop f) := of_r .nop 5 0x00 (by decide) rfl f rfl
theorem bra (f : BForm) : Statement (.bra f) := of_b .bra 5 0x01 (by decide) rfl f rfl
theorem brx (f : RForm) : Statement (.brx f) := of_r .brx 5 0x02 (by decide) rfl f rfl
theorem call (f : BForm) : Statement (.call f) := of_b .call 5 0x03 (by decide) rfl f rfl
theorem ret (f : RForm) : Statement (.ret f) := of_r .ret 5 0x04 (by decide) rfl f rfl
theorem rcv (f : RForm) : Statement (.rcv f) := of_r .rcv 5 0x05 (by decide) rfl f rfl
theorem exit (f : RForm) : Statement (.exit f) := of_r .exit 5 0x06 (by decide) rfl f rfl
theorem yield (f : RForm) : Statement (.yield f) := of_r .yield 5 0x07 (by decide) rfl f rfl
theorem trap (f : IForm) : Statement (.trap f) := of_i .trap 5 0x08 (by decide) rfl f rfl
theorem bkpt (f : IForm) : Statement (.bkpt f) := of_i .bkpt 5 0x09 (by decide) rfl f rfl
theorem mstart (f : BForm) : Statement (.mstart f) := of_b .mstart 5 0x0A (by decide) rfl f rfl
theorem migr (f : RForm) : Statement (.migr f) := of_r .migr 5 0x0B (by decide) rfl f rfl
theorem tret (f : RForm) : Statement (.tret f) := of_r .tret 7 0x00 (by decide) rfl f rfl
theorem heatc (f : RForm) : Statement (.heatc f) := of_r .heatc 7 0x01 (by decide) rfl f rfl
theorem perfr (f : RForm) : Statement (.perfr f) := of_r .perfr 7 0x02 (by decide) rfl f rfl
theorem kwave (f : KForm) : Statement (.kwave f) := of_k .kwave 6 0x00 (by decide) rfl f rfl
theorem ksend (f : KForm) : Statement (.ksend f) := of_k .ksend 6 0x01 (by decide) rfl f rfl
theorem krecv (f : KForm) : Statement (.krecv f) := of_k .krecv 6 0x02 (by decide) rfl f rfl
theorem kwait (f : KForm) : Statement (.kwait f) := of_k .kwait 6 0x03 (by decide) rfl f rfl
theorem karm (f : KForm) : Statement (.karm f) := of_k .karm 6 0x04 (by decide) rfl f rfl
theorem kcancel (f : KForm) : Statement (.kcancel f) := of_k .kcancel 6 0x05 (by decide) rfl f rfl
theorem kbind (f : KForm) : Statement (.kbind f) := of_k .kbind 6 0x06 (by decide) rfl f rfl
theorem kunbind (f : KForm) : Statement (.kunbind f) := of_k .kunbind 6 0x07 (by decide) rfl f rfl
theorem klook (f : KForm) : Statement (.klook f) := of_k .klook 6 0x08 (by decide) rfl f rfl
theorem kname (f : KForm) : Statement (.kname f) := of_k .kname 6 0x09 (by decide) rfl f rfl
theorem kdup (f : KForm) : Statement (.kdup f) := of_k .kdup 6 0x0A (by decide) rfl f rfl
theorem kdrop (f : KForm) : Statement (.kdrop f) := of_k .kdrop 6 0x0B (by decide) rfl f rfl
theorem kinfo (f : KForm) : Statement (.kinfo f) := of_k .kinfo 6 0x0C (by decide) rfl f rfl
theorem knext (f : KForm) : Statement (.knext f) := of_k .knext 6 0x0D (by decide) rfl f rfl
theorem board (f : KForm) : Statement (.board f) := of_k .board 6 0x0E (by decide) rfl f rfl
theorem alight (f : KForm) : Statement (.alight f) := of_k .alight 6 0x0F (by decide) rfl f rfl
theorem catchTile (f : KForm) : Statement (.catchTile f) := of_k .catchTile 6 0x10 (by decide) rfl f rfl
theorem cwrite (f : KForm) : Statement (.cwrite f) := of_k .cwrite 6 0x11 (by decide) rfl f rfl
theorem clauseEntry (w : WaveId) : Statement (.clauseEntry w) := of_event rfl
theorem spinDemotionExpiry (w : WaveId) (tid : Nat) : Statement (.spinDemotionExpiry w tid) := of_event rfl
theorem fairnessTimeout (w : WaveId) : Statement (.fairnessTimeout w) := of_event rfl
theorem scratchpadBankServe (c : CoreId) (bank : Nat) : Statement (.scratchpadBankServe c bank) := of_event rfl
theorem loadResult (w : WaveId) (op : Nat) : Statement (.loadResult w op) := of_event rfl
theorem translationWalkDone (c : CoreId) (proc : Nat) (va : BitVec 57) : Statement (.translationWalkDone c proc va) := of_event rfl
theorem faultReply (team : Nat) (key : FaultKey) (deny : Bool) (mask : BitVec 3) : Statement (.faultReply team key deny mask) := of_event rfl
theorem copyLand (c : CoreId) (team copy : Nat) : Statement (.copyLand c team copy) := of_event rfl
theorem dcopyFlagAdd (c : CoreId) (team copy : Nat) : Statement (.dcopyFlagAdd c team copy) := of_event rfl
theorem engineWordComplete (c : CoreId) (team : Nat) : Statement (.engineWordComplete c team) := of_event rfl
theorem streamFetch (c : CoreId) (team : Nat) : Statement (.streamFetch c team) := of_event rfl
theorem mstreamTrapTake (c : CoreId) (team : Nat) : Statement (.mstreamTrapTake c team) := of_event rfl
theorem heatCloseTimeout (c : CoreId) : Statement (.heatCloseTimeout c) := of_event rfl
theorem heatCloseLog (c : CoreId) : Statement (.heatCloseLog c) := of_event rfl
theorem heatSet (c : CoreId) : Statement (.heatSet c) := of_event rfl
theorem holdbackDepart (c : CoreId) : Statement (.holdbackDepart c) := of_event rfl
theorem strikeReport (cores : List CoreId) : Statement (.strikeReport cores) := of_event rfl
theorem rollbackComplete (c : CoreId) : Statement (.rollbackComplete c) := of_event rfl
theorem strikeReportUnit (die : Nat) (u : DieUnit) (retries : Nat) (beyond : Bool) : Statement (.strikeReportUnit die u retries beyond) := of_event rfl
theorem teamAdmit (c : CoreId) (team : Nat) : Statement (.teamAdmit c team) := of_event rfl
theorem teamRetire (c : CoreId) (team : Nat) : Statement (.teamRetire c team) := of_event rfl
theorem swapOut (c : CoreId) (team : Nat) : Statement (.swapOut c team) := of_event rfl
theorem blockedSwap (c : CoreId) (team : Nat) : Statement (.blockedSwap c team) := of_event rfl
theorem migrShip (c : CoreId) (team : Nat) : Statement (.migrShip c team) := of_event rfl
theorem migrArrival (team : Nat) : Statement (.migrArrival team) := of_event rfl
theorem crucibleServe (die : Nat) : Statement (.crucibleServe die) := of_event rfl
theorem requestResend (c : CoreId) : Statement (.requestResend c) := of_event rfl
theorem crucibleFrame (die : Nat) : Statement (.crucibleFrame die) := of_event rfl
theorem kernelResultDelivery (id : Nat) : Statement (.kernelResultDelivery id) := of_event rfl
theorem knextServe (id : Nat) : Statement (.knextServe id) := of_event rfl
theorem kwaitDeadline (wset : Nat) : Statement (.kwaitDeadline wset) := of_event rfl
theorem timerFire (timer : Nat) : Statement (.timerFire timer) := of_event rfl
theorem directoryInsert (x : DirInput) : Statement (.directoryInsert x) := of_event rfl
theorem nameLookup (id : Nat) : Statement (.nameLookup id) := of_event rfl
theorem farPortSend (x : FarSend) : Statement (.farPortSend x) := of_event rfl
theorem grantPteUpdate (id : Nat) : Statement (.grantPteUpdate id) := of_event rfl
theorem shootdownAck (c : CoreId) (id : Nat) : Statement (.shootdownAck c id) := of_event rfl
theorem grantCommit (id : Nat) : Statement (.grantCommit id) := of_event rfl
theorem regionTransferDone (host : Bool) (region : Nat) : Statement (.regionTransferDone host region) := of_event rfl
theorem launch (part slot : Nat) : Statement (.launch part slot) := of_event rfl
theorem rungraph (part slot : Nat) : Statement (.rungraph part slot) := of_event rfl
theorem fenceMessage (part slot : Nat) : Statement (.fenceMessage part slot) := of_event rfl
theorem ordStart (part slot : Nat) : Statement (.ordStart part slot) := of_event rfl
theorem runnerRangeReport (launch die : Nat) : Statement (.runnerRangeReport launch die) := of_event rfl
theorem completionPost (ring : RingId) : Statement (.completionPost ring) := of_event rfl
theorem graphTimeNode (graph : Nat) : Statement (.graphTimeNode graph) := of_event rfl
theorem bucketTick (part bucket : Nat) : Statement (.bucketTick part bucket) := of_event rfl
theorem doorbell (part slot : Nat) (value : Word) : Statement (.doorbell part slot value) := of_event rfl
theorem preset (req : MgmtReq) : Statement (.preset req) := of_event rfl
theorem dcreset (req : MgmtReq) : Statement (.dcreset req) := of_event rfl
theorem drestart (req : MgmtReq) : Statement (.drestart req) := of_event rfl
theorem ddown (req : MgmtReq) : Statement (.ddown req) := of_event rfl
theorem ddownProceed (die : Nat) : Statement (.ddownProceed die) := of_event rfl
theorem pkreset (req : MgmtReq) : Statement (.pkreset req) := of_event rfl
theorem patch (req : MgmtReq) : Statement (.patch req) := of_event rfl
theorem preempt (req : MgmtReq) : Statement (.preempt req) := of_event rfl
theorem preemptDrainDeadline (part proc : Nat) : Statement (.preemptDrainDeadline part proc) := of_event rfl
theorem preemptResetDeadline (part proc : Nat) : Statement (.preemptResetDeadline part proc) := of_event rfl
theorem resume (req : MgmtReq) : Statement (.resume req) := of_event rfl
theorem create (req : MgmtReq) : Statement (.create req) := of_event rfl
theorem portmap (req : MgmtReq) : Statement (.portmap req) := of_event rfl
theorem portunmap (req : MgmtReq) : Statement (.portunmap req) := of_event rfl
theorem xferdone (req : MgmtReq) : Statement (.xferdone req) := of_event rfl
theorem xferhost (req : MgmtReq) : Statement (.xferhost req) := of_event rfl
theorem ctxreset (req : MgmtReq) : Statement (.ctxreset req) := of_event rfl
theorem shootdown (req : MgmtReq) : Statement (.shootdown req) := of_event rfl
theorem oidRangeWrite (part die : Nat) (hi : Bool) (v : DWord) : Statement (.oidRangeWrite part die hi v) := of_event rfl
theorem crshareWrite (part : Nat) (v : DWord) : Statement (.crshareWrite part v) := of_event rfl
theorem heatctlWrite (part : Nat) (v : DWord) : Statement (.heatctlWrite part v) := of_event rfl
theorem txctlWrite (part : Nat) (v : DWord) : Statement (.txctlWrite part v) := of_event rfl
theorem nsctlWrite (part : Nat) (v : DWord) : Statement (.nsctlWrite part v) := of_event rfl
theorem rgnctlWrite (v : DWord) : Statement (.rgnctlWrite v) := of_event rfl
theorem carctlWrite (v : DWord) : Statement (.carctlWrite v) := of_event rfl
theorem carsegWrite (part : Nat) (v : DWord) : Statement (.carsegWrite part v) := of_event rfl
theorem flctlCarq (v : DWord) : Statement (.flctlCarq v) := of_event rfl
theorem flctlDpup (v : DWord) : Statement (.flctlDpup v) := of_event rfl
theorem flaskChangeDone : Statement .flaskChangeDone := of_event rfl
theorem pcluWrite (part die : Nat) (v : DWord) : Statement (.pcluWrite part die v) := of_event rfl
theorem pgateWrite (die : Nat) (v : DWord) : Statement (.pgateWrite die v) := of_event rfl
theorem pwrctlStep (v : DWord) : Statement (.pwrctlStep v) := of_event rfl
theorem pwrctlCap (v : DWord) : Statement (.pwrctlCap v) := of_event rfl
theorem domctlWrite (v : DWord) : Statement (.domctlWrite v) := of_event rfl
theorem ringRegisterWrite (ring : RingId) (v : DWord) : Statement (.ringRegisterWrite ring v) := of_event rfl
theorem confRangeWrite (part range : Nat) (v : DWord) : Statement (.confRangeWrite part range v) := of_event rfl
theorem registerWrite (off bytes : Nat) (v : DWord) : Statement (.registerWrite off bytes v) := of_event rfl
theorem carouselIndexAccept (id : Nat) : Statement (.carouselIndexAccept id) := of_event rfl
theorem slotPassage (slot die : Nat) (strike : Bool) : Statement (.slotPassage slot die strike) := of_event rfl
theorem catchRegister (id : Nat) : Statement (.catchRegister id) := of_event rfl
theorem catchLapTimeout (id : Nat) : Statement (.catchLapTimeout id) := of_event rfl
theorem boardLapTimeout (id : Nat) : Statement (.boardLapTimeout id) := of_event rfl
theorem ptpInput (sec ns : Nat) : Statement (.ptpInput sec ns) := of_event rfl
theorem remoteUnreachable (pkg : Nat) : Statement (.remoteUnreachable pkg) := of_event rfl
theorem linkReturn : Statement .linkReturn := of_event rfl
theorem patternWatchdog (die : Nat) : Statement (.patternWatchdog die) := of_event rfl
theorem resetRelease : Statement .resetRelease := of_event rfl
theorem sensorSelftest (failed : List CoreId) : Statement (.sensorSelftest failed) := of_event rfl
theorem powerInputFault : Statement .powerInputFault := of_event rfl
theorem functionLevelReset : Statement .functionLevelReset := of_event rfl
theorem keyImport (part : Nat) (blob : List Byte) : Statement (.keyImport part blob) := of_event rfl
theorem keyDestroy (handle : BitVec 16) (mac : List Byte) : Statement (.keyDestroy handle mac) := of_event rfl
theorem attestationReport (part : Nat) (nonce : List Byte) : Statement (.attestationReport part nonce) := of_event rfl
theorem storePerformed (w : WaveId) (op : Nat) : Statement (.storePerformed w op) := of_event rfl
theorem hostMemoryAccess (a : HostAccess) : Statement (.hostMemoryAccess a) := of_event rfl
theorem packageReachable (pkg : Nat) : Statement (.packageReachable pkg) := of_event rfl
theorem ptpInputLoss : Statement .ptpInputLoss := of_event rfl
theorem linkFailure : Statement .linkFailure := of_event rfl

end Sys2Proof.Laws.RoundTrip
end

