-- ==== Sys2Proof/Laws/Rows.lean ====
section
/-! SUPPORT. An instruction that is an operation in format R or I, or delivers results in another way, does what its row
says. -/

namespace Sys2Proof.Claims

open Sys2Proof.Machine

theorem rowR_done {i : Instr} {sp : RSpec} {f : RForm} {per : Nat} {op : Src → Res} (he : ∀ s, exec i s = aluR sp f per op s)
    {s : State} {x : Ctx} {act : List Nat} (h : s.Issues (rowR sp f per op).issue x act) (hf : (rowR sp f per op).Fits x act) :
    ∃ t, exec i s = .next t ∧ (rowR sp f per op).Done s t x act := by
  rw [he]; exact aluR_delivers sp f per op h hf

theorem rowI_done {i : Instr} {sp : ISpec} {f : IForm} {op : Src → Res} (he : ∀ s, exec i s = aluI sp f op s)
    {s : State} {x : Ctx} {act : List Nat} (h : s.Issues (rowI sp f op).issue x act) (hf : (rowI sp f op).Fits x act) :
    ∃ t, exec i s = .next t ∧ (rowI sp f op).Done s t x act := by
  rw [he]; exact aluI_delivers sp f op h hf

theorem row_done {i : Instr} {r : Row}
    (he : ∀ s, exec i s = begin_ s r.issue fun x act => x.deliverAll r.issue r.mode act (r.res x act))
    (hfor : ∀ x act t, ∀ q ∈ (r.res x act t).1, q.isFor (t :: act))
    {s : State} {x : Ctx} {act : List Nat} (h : s.Issues r.issue x act) (hf : r.Fits x act) :
    ∃ t, exec i s = .next t ∧ r.Done s t x act := by
  rw [he]; exact h.delivers r.mode r.res (hfor x act) hf

end Sys2Proof.Claims
end

