-- ==== Sys2Proof/Laws/TeamOnly.lean ====
section
/-! SUPPORT. An instruction that changes nothing outside its wave but a part of its team. -/

namespace Sys2Proof.Claims

open Sys2Proof.Machine

/-- The package but for its cores, time, what is scheduled and the free-value counter. -/
def apart (s : State) : State := { s with cycle := 0, agenda := [], cores := [], ctr := 0 }

theorem waveFixed_of {s : State} {w : WaveId} {v : Wave} (h : (s.waveAt w).map (·.2) = some v) :
    waveFixed s w = some (v.ops, v.role, v.budget, v.lane, v.unit) := by
  unfold waveFixed
  cases e : s.waveAt w with
  | none => simp [e] at h
  | some q => simp [e] at h; simp [h]

theorem like_fixed {a b : Wave} (h : a.Like b) :
    (a.ops, a.role, a.budget, a.lane, a.unit) = (b.ops, b.role, b.budget, b.lane, b.unit) := by
  have := congrArg (fun q : Wave => (q.ops, q.role, q.budget, q.lane, q.unit)) h.2
  exact this

theorem holds_fixed {s : State} {x : Ctx} (h : s.Holds x) :
    waveFixed s x.w = some (x.wave.ops, x.wave.role, x.wave.budget, x.wave.lane, x.wave.unit) := by
  obtain ⟨v, hv, e⟩ := h.wave
  have : s.waveAt x.w = some (x.team, v) := by
    unfold State.waveAt
    simp only [h.team, hv, Option.map_some]
  unfold waveFixed
  rw [this, e, Option.map_some, like_fixed (Wave.select_like v)]

/-- What `Closed` gives of the state from which a context came that changes its team by `f`. -/
theorem teamOnly_of {s t : State} {x y : Ctx} {cost : Nat} {f : Team → Team} (h : s.Holds x) (n : x.Beside y)
    (c : y.Closed t cost) (hk : ({ y.core with teams := [] } : Core).quiet = ({ x.core with teams := [] } : Core).quiet)
    (hq : still y.team = still (f x.team)) (hs : apart y.s = apart x.s)
    (hw : (y.wave.ops, y.wave.role, y.wave.budget, y.wave.lane, y.wave.unit)
      = (x.wave.ops, x.wave.role, x.wave.budget, x.wave.lane, x.wave.unit)) : TeamOnly s t x.w f where
  rest := by
    have e : apart t = apart s := by
      have := congrArg (fun q : State => ({ q with ctr := 0 } : State)) c.rest
      exact (Eq.trans this hs).trans (by rw [h.st])
    have := congrArg (fun q : State => ({ q with cycle := s.cycle, agenda := s.agenda, cores := s.cores, ctr := s.ctr } : State)) e
    exact this
  agenda := (h.elsewhere n c).agenda
  cores := (h.elsewhere n c).cores
  core := by
    have := congrArg Core.quiet c.core
    rw [n.w] at this
    rw [← h.core]
    exact this.trans hk
  teams := (h.elsewhere n c).teams
  team := by
    have := c.team
    rw [n.w] at this
    have t0 : s.teamOf x.w = some x.team := h.team
    rw [t0, Option.map_some, ← hq]
    exact this
  waves := (h.elsewhere n c).waves
  fixed := by
    obtain ⟨v, hv, l⟩ := c.wave
    rw [n.w] at hv
    rw [waveFixed_of hv, holds_fixed h, like_fixed l, hw]

/-- The same, for a context that agrees with the state but in what an instruction may change. -/
theorem teamOnly_id {s t : State} {x y : Ctx} {cost : Nat} (h : s.Holds x) (e : y.rest = x.rest)
    (a : x.s.agenda <+: y.s.agenda) (hf : y.team.fps = x.team.fps) (c : y.Closed t cost) : TeamOnly s t x.w id := by
  refine teamOnly_of h (Ctx.beside_of_rest e a) c ?_ ?_ ?_ ?_
  · have := congrArg (fun q : Ctx => ({ q.core with teams := [], code := [] } : Core)) e
    exact this
  · have := congrArg (fun q : Ctx => ({ q.team with waves := [], fps := x.team.fps } : Team)) e
    unfold still id
    rw [← hf] at this
    simp only [Ctx.rest] at this
    rw [hf] at this
    rw [show ({ y.team with waves := [], leave := none } : Team) = { y.team with waves := [], leave := none, fps := x.team.fps } by rw [← hf]]
    exact this
  · have := congrArg (fun q : Ctx => ({ q.s with cycle := 0, cores := [] } : State)) e
    exact this
  · have := congrArg (fun q : Ctx => (q.wave.ops, q.wave.role, q.wave.budget, q.wave.lane, q.wave.unit)) e
    exact this

/-! Going on, and being held. -/

theorem passes {s : State} {x y : Ctx} (h : s.Holds x) (n : x.Near y) {f : Team → Team}
    (hk : ({ y.core with teams := [] } : Core).quiet = ({ x.core with teams := [] } : Core).quiet)
    (hq : still y.team = still (f x.team)) (hs : apart y.s = apart x.s)
    (hw : (y.wave.ops, y.wave.role, y.wave.budget, y.wave.lane, y.wave.unit)
      = (x.wave.ops, x.wave.role, x.wave.budget, x.wave.lane, x.wave.unit)) (cost ops : Nat) :
    s.Passed (y.next.close cost ops) x cost ∧ TeamOnly s (y.next.close cost ops) x.w f := by
  obtain ⟨p, c⟩ := h.passed n cost ops
  have e : y.next.rest = y.rest := Ctx.rest_next y
  obtain ⟨n1, n2, n3, n4, n5, n6⟩ := Ctx.fall_spec y y.wave.members (Wave.members_nodup _)
    (fun t ht => (Wave.mem_members.mp ht).1)
  refine ⟨p, teamOnly_of h ?_ c ?_ ?_ ?_ ?_⟩
  · refine n.beside.trans (Ctx.beside_of_rest e ?_)
    show y.s.agenda <+: y.next.s.agenda
    exact ⟨[], by simp [show y.next.s = y.s from n6]⟩
  · have := congrArg (fun q : Ctx => ({ q.core with teams := [], code := [] } : Core)) e
    exact Eq.trans this hk
  · have : y.next.team = y.team := n5
    rw [this, hq]
  · have : y.next.s = y.s := n6
    rw [this, hs]
  · have := congrArg (fun q : Ctx => (q.wave.ops, q.wave.role, q.wave.budget, q.wave.lane, q.wave.unit)) e
    exact Eq.trans this hw

theorem holdsUp {s : State} {x y : Ctx} (h : s.Holds x) (n : x.Near y)
    (hk : ({ y.core with teams := [] } : Core).quiet = ({ x.core with teams := [] } : Core).quiet)
    (hq : still y.team = still x.team) (hs : apart y.s = apart x.s)
    (hw : (y.wave.ops, y.wave.role, y.wave.budget, y.wave.lane, y.wave.unit)
      = (x.wave.ops, x.wave.role, x.wave.budget, x.wave.lane, x.wave.unit)) :
    s.Held y.hold x ∧ TeamOnly s y.hold x.w id :=
  ⟨h.held n, teamOnly_of h n.beside (n.beside.ok h.ok).hold_closed hk hq hs hw⟩

theorem run_fold_mod (f : Thread → Thread) (l : List Nat) (w : Wave) :
    (l.foldl (fun w t => w.modThread t f) w).run = w.run := by
  induction l generalizing w with
  | nil => rfl
  | cons t r ih => rw [List.foldl_cons, ih]; rfl

theorem stored_eq (w : Wave) : ∃ v : Wave, v.Like w ∧ v.run = w.run ∧ w.stored = { v with det := { v.det with stored := true } } := by
  refine ⟨_, Wave.like_fold_mod (fun x => if x.tier = 1 then { x with tier := 0 } else x) ?_ tids w,
    run_fold_mod _ tids w, rfl⟩
  intro h
  split <;> rfl

theorem stored_like (w : Wave) : w.stored.Like w := by
  obtain ⟨v, h, -, e⟩ := stored_eq w
  rw [e]
  exact Wave.like_upd rfl rfl h

theorem stored_run (w : Wave) : w.stored.run = w.run := by
  obtain ⟨v, -, h, e⟩ := stored_eq w
  rw [e, ← h]

theorem near_like (x : Ctx) (f : Wave → Wave) (h : (f x.wave).Like x.wave) (hr : (f x.wave).run = x.wave.run) :
    x.Near (x.modWave f) :=
  Ctx.near_modWave x f h.wid hr h.1 h.s h.b

end Sys2Proof.Claims
end

