-- ==== Sys2Proof/Tests/World.lean ====
section
/-! SUPPORT. A small state for tests and witnesses: one core with one team of one wave, its threads 0 and 1 inside a clause
at word address 1 and in focus, the others at word address 20. -/

namespace Sys2Proof.Tests

open Sys2Proof.Machine Sys2Proof.Claims

def core0 : CoreId := ⟨0, 0, 0⟩
def wave0 : WaveId := ⟨core0, 1, 0⟩

/-- A team descriptor with trap vector 5 or none: one role of one wave, 64 registers, every tile and the sequencer. -/
def desc0 (tve : Bool) : Rec256 :=
  BitVec.ofNat 256 (8 * 2 ^ 6 + 2 ^ 10 + 64 * 2 ^ 16 + 0x20 * 2 ^ 32 + 4096 * 2 ^ 160 + (if tve then 5 * 2 ^ 192 + 2 ^ 216 else 0))

/-- Thread 0 or 1, in a clause of class `cls` with sixteen words; or one that stands elsewhere. -/
def thread0 (cls : Nat) (v : List Word) : Thread :=
  { v := v ++ List.replicate (64 - v.length) 0, pc := 1, cb := 0
    hdr := ({ Header.plain (BitVec.ofNat 4 cls) with n1 := 15 } : Header).toWord }

def threads0 (cls : Nat) (v0 v1 : List Word) : List Thread :=
  thread0 cls v0 :: thread0 cls v1 :: List.replicate 30 { pc := 20 }

def waveOf (cls : Nat) (v0 v1 s : List Word) : Wave :=
  { wid := 0, threads := threads0 cls v0 v1, s := s ++ List.replicate (64 - s.length) 0, run := 3, prev := 3 }

def teamOf (tve : Bool) (w : Wave) : Team :=
  { oid := 1, proc := 1, desc := desc0 tve, sz := 4096, bars := List.replicate 16 { e := 1 }, waves := [w] }

/-- The core's TLB maps page 0 for process 1. -/
def coreOf (q : Team) : Core := { id := core0, teams := [q], tlb := [{ proc := 1, vpn := 0, sz := 0, pfn := 0 }] }

def stateOf (k : Core) : State := { cores := [k], focus := .wave wave0, dies := [{ die := 0, st := 2 }] }

/-- The state with these values in the low v registers of threads 0 and 1, and in the low s registers. -/
def world (v0 v1 s : List Word) : State := stateOf (coreOf (teamOf false (waveOf 0 v0 v1 s)))

/-- The same, with a trap vector. -/
def worldT (v0 v1 s : List Word) : State := stateOf (coreOf (teamOf true (waveOf 0 v0 v1 s)))

/-- The same with the wave, the team or the core changed. -/
def worldW (f : Wave → Wave) (s : List Word := []) : State := stateOf (coreOf (teamOf false (f (waveOf 0 [] [] s))))
def worldQ (f : Team → Team) (s : List Word := []) : State := stateOf (coreOf (f (teamOf false (waveOf 0 [] [] s))))
def worldK (f : Core → Core) (s : List Word := []) : State := stateOf (f (coreOf (teamOf false (waveOf 0 [] [] s))))

/-- The instruction in hand. -/
def hand (s : State) : Ctx := s.ctx.getD ⟨s, wave0, { id := core0 }, { oid := 1 }, { wid := 0 }, [], 0, 0⟩

theorem ctx_hand {s : State} (h : s.ctx.isSome = true) : s.ctx = some (hand s) := by
  unfold hand
  cases hc : s.ctx with
  | none => rw [hc] at h; cases h
  | some x => rfl

/-- The conditions of `State.Issues` as one computation. -/
def canIssue (s : State) (i : Issue) (act : List Nat) : Bool :=
  let x := hand s
  s.ctx.isSome && !x.wave.ended && !x.pends [.p i.g.gp.toNat] && x.active i.g == act && !act.isEmpty
    && (overBudget x.wave.budget (i.reads ++ i.writes)).isNone && !x.pends (i.reads ++ i.writes)

theorem issues {s : State} {i : Issue} {act : List Nat} (h : canIssue s i act = true) : s.Issues i (hand s) act := by
  simp only [canIssue, Bool.and_eq_true, Bool.not_eq_true', beq_iff_eq, Option.isNone_iff_eq_none] at h
  obtain ⟨⟨⟨⟨⟨⟨h1, h2⟩, h3⟩, h4⟩, h5⟩, h6⟩, h7⟩ := h
  have h8 : act ≠ [] := fun e => by
    rw [e] at h5
    cases h5
  exact ⟨ctx_hand h1, h2, h3, h4, h8, h6, h7⟩

/-- With no open heat the undo log takes everything. -/
theorem room_free {x : Ctx} (h : x.core.cur.isNone = true) (ks : List LogKey) : x.room ks = true := by
  unfold Ctx.room
  rw [Option.isNone_iff_eq_none.1 h]

/-- So few records leave room in every object cache. -/
theorem roomy {s : State} (h : s.objs.length + 4 ≤ 32768) : Roomy s := fun _ =>
  Nat.le_trans (Nat.add_le_add_right (List.length_filter_le _ _) 4) h

/-- What an instruction leaves. -/
def after (i : Instr) (s : State) : State :=
  match exec i s with
  | .next t => t
  | _ => s

/-- What a word decodes to, and why it does not, as decidable questions. -/
def decodesTo (c : Nat) (w : DWord) : Option Instr := (decodeWord c w).toOption

def rejects (c : Nat) (w : DWord) : Option Reject := match decodeWord c w with | .ok _ => none | .error r => some r

theorem decodes {c : Nat} {w : DWord} {i : Instr} (h : decodesTo c w = some i) : decodeWord c w = .ok i := by
  unfold decodesTo at h
  cases hd : decodeWord c w <;> rw [hd] at h <;> cases h
  rfl

theorem rejected {c : Nat} {w : DWord} {r : Reject} (h : rejects c w = some r) : decodeWord c w = .error r := by
  unfold rejects at h
  cases hd : decodeWord c w <;> rw [hd] at h <;> cases h
  rfl

/-- Both threads of the run pass. -/
def both : List Nat := [0, 1]

end Sys2Proof.Tests
end

