-- ==== Sys2Proof/Tests/Objects.lean ====
section
/-! SUPPORT. Witnesses: for each statement about kernel objects, the carousel, heats, strikes, clauses and timers, concrete states
that meet its hypotheses, clause by clause. -/

namespace Sys2Proof.Tests

set_option Elab.async false

open Sys2Proof.Machine Sys2Proof.Claims

/-- A record with these fields: lowest bit, width and value of each. -/
def mkObj (fs : List (Nat × Nat × Nat)) : BitVec 512 := BitVec.ofNat 512 (fs.foldl (fun n f => n + f.2.2 % 2 ^ f.2.1 * 2 ^ f.1) 0)

/-- A request of the wave of the test state. -/
def ask (a : Ask) (st : Stage) : Req :=
  { id := 7, core := core0, team := 1, wid := 0, heat := 0, part := 0, proc := 1, ask := a, d := 10, pair := true, stage := st }

/-- One request, these objects; process 1 has four handles at address 4096: the second names port 5 with the rights
SEND and ADMIN only. -/
def asking (q : Req) (os : List (Nat × BitVec 512)) (f : State → State := id) : State :=
  f { world [] [] [] with
    reqs := [q], objs := (1, mkObj [(0, 4, 1), (4, 4, 1), (64, 57, 4096), (128, 24, 4)]) :: os
    mem := memWrites [] (cellsAt 4104 (bytesLE 8 (5 + 0x81 * 2 ^ 32 + 3 * 2 ^ 40))) }

/-- A port with a ring of two. -/
def port5 : BitVec 512 := mkObj [(0, 4, 3), (4, 4, 1), (64, 9, 2)]

def sending (st : Stage) : Req := ask (.ksend 0x100 9 none) st

/-- A handle of no entry; a port's handle for a receive, without its right; a send with room; a full ring; and another
package's send. -/
theorem witness_CrucibleServes_badHandle : ∃ (s : State) (q : Req) (n : Nat), s.heldParts 0 = [] ∧ s.nextReq 0 [] = some q ∧ s.live 0 = true
    ∧ q.ask.handles.findIdx? (s.badHandle q.proc) = some n :=
  ⟨asking (ask (.kdrop 0x400) (.queued 0 none)) [], ask (.kdrop 0x400) (.queued 0 none), 0, by decide +kernel⟩

theorem witness_CrucibleServes_noRight : ∃ (s : State) (q : Req) (n : Nat), s.heldParts 0 = [] ∧ s.nextReq 0 [] = some q ∧ s.live 0 = true
    ∧ q.ask.handles.findIdx? (s.badHandle q.proc) = none ∧ q.ask.handles.findIdx? (s.noRight q.proc) = some n :=
  ⟨asking (ask (.krecv 0x100 0) (.queued 0 none)) [(5, port5)], ask (.krecv 0x100 0) (.queued 0 none), 0, by decide +kernel⟩

/-- Port 5 with these messages before it, asked for by the wave. -/
def ringOf (ms : List PortMsg) : State :=
  asking (sending (.queued 0 none)) [(5, port5)] fun s => { s with ports := [{ port := 5, msgs := ms }] }

theorem witness_CrucibleServes_send : ∃ (s u : State) (q : Req) (h : Word) (m : BitVec 512), s.heldParts 0 = []
    ∧ s.nextReq 0 [] = some q ∧ s.live 0 = true ∧ q.ask = .ksend h m none ∧ (s.resolve q).getRight? = some 5 ∧ objHome 5 = 0
    ∧ objKind (s.obj 5) = kPORT ∧ fld (s.obj 5) 64 9 ≠ 0 ∧ (s.portMsgs 5).length < fld (s.obj 5) 64 9
    ∧ u.heldParts 0 = [] ∧ u.nextReq 0 [] = some q ∧ u.live 0 = true ∧ (u.resolve q).getRight? = some 5
    ∧ objKind (u.obj 5) = kPORT ∧ fld (u.obj 5) 64 9 ≠ 0 ∧ ¬ (u.portMsgs 5).length < fld (u.obj 5) 64 9 :=
  ⟨ringOf [⟨1, 1, 0, none, none⟩], ringOf [⟨1, 1, 0, none, none⟩, ⟨2, 1, 0, none, none⟩], sending (.queued 0 none), 0x100, 9,
    by decide +kernel⟩

/-- The port, and its NAME 9. -/
def named (q : Req) (f : State → State := id) : State :=
  asking q [(5, port5), (9, mkObj [(0, 4, 8), (4, 4, 1), (64, 24, 5), (256, 256, 77)])] f

theorem witness_CrucibleServes_far : ∃ (s : State) (q : Req) (m : BitVec 512), s.heldParts 0 = []
    ∧ s.nextReq 0 [] = some q ∧ s.live 0 = true
    ∧ q.ask = .far 3 1 2 9 77 5 m none ∧ s.farNamed 9 77 5 = true ∧ objKind (s.obj 5) = kPORT ∧ s.live (objHome 5) = true
    ∧ (s.portMsgs 5).length < fld (s.obj 5) 64 9 :=
  ⟨named (ask (.far 3 1 2 9 77 5 9 none) (.queued 0 none)), ask (.far 3 1 2 9 77 5 9 none) (.queued 0 none), 9, by decide +kernel⟩

/-- The Crucible of the die with one queue entry for partition 0, or none; the request was refused once. -/
def resending (n : Nat) : State :=
  asking (sending (.sent 1)) [] fun s =>
    { s with dies := [{ die := 0, st := 2, queue := n :: List.replicate 15 0 }], cores := s.cores.map fun k => { k with replay := [7] } }

theorem witness_CrucibleQueues : ∃ (s u : State) (q : Req), (s.core core0).replay = [q.id] ∧ s.req q.id = some q
    ∧ (∀ r ∈ s.reqs, r.id = q.id → r = q) ∧ q.core = core0 ∧ q.stage = .sent 1 ∧ q.ask.carousel = false
    ∧ s.refusedElsewhere q = false ∧ u.refusedElsewhere q = false ∧ ((s.crQueue 0).filter (·.part == q.part)).length < (s.die 0).queue.getD q.part 0
    ∧ (u.core core0).replay = [q.id] ∧ u.req q.id = some q
    ∧ ¬ ((u.crQueue 0).filter (·.part == q.part)).length < (u.die 0).queue.getD q.part 0 ∧ s.live 0 = true :=
  ⟨resending 1, resending 0, sending (.sent 1), by decide +kernel⟩

/-- A timer in this state, with its deadline, its period and its wait set's index, 0 for none. -/
def timer (st dl per w : Nat) : BitVec 512 :=
  mkObj [(0, 4, 5), (4, 4, st), (64, 64, dl), (128, 64, per), (208, 16, 65535), (448, 24, w), (472, 6, if w = 0 then 0 else 3)]

/-- Cycle 9: these timers, wait set 12, which has no waiter, and wait set 13, which the wave waits at, both with members 1 and 3. -/
def timing (st : Nat) (ts : List (Nat × BitVec 512)) : State :=
  asking (ask (.kwait 0x100 3) (.pending 13)) ([(12, mkObj [(0, 4, 4), (4, 4, 1), (128, 64, 10)]),
    (13, mkObj [(0, 4, 4), (4, 4, 1), (128, 64, 10), (192, 24, 1)])] ++ ts) fun s => { s with cycle := 9, dies := [{ die := 0, st := st }] }

/-- What each clause of a timer that is due asks. -/
def DueTimer (s : State) (k : Nat) : Prop :=
  objKind (s.obj k) = kTIMER ∧ s.live (objHome k) = true ∧ Had s (s.recordKeys [k]) (.timerFire k) ∧ s.timerWait (s.obj k) = 0

/-- An armed timer; a periodic one at its first firing; and one that has fired and has missed as often as is counted. -/
theorem witness_TimersAndDeadlines : ∃ (s : State), (DueTimer s 5 ∧ DueTimer s 6 ∧ DueTimer s 7)
    ∧ (fld (s.obj 5) 448 32 = 0 ∧ fld (s.obj 6) 448 32 = 0 ∧ fld (s.obj 7) 448 32 = 0)
    ∧ objState (s.obj 5) = 2 ∧ fld (s.obj 5) 128 64 = 0 ∧ objState (s.obj 6) = 2 ∧ fld (s.obj 6) 128 64 ≠ 0
    ∧ objState (s.obj 7) = 3 ∧ fld (s.obj 7) 128 64 ≠ 0 ∧ fld (s.obj 7) 208 16 = 65535 := by
  refine ⟨timing 2 [(5, timer 2 9 0 0), (6, timer 2 9 100 0), (7, timer 3 9 100 0)], ?_⟩
  unfold DueTimer Had
  decide +kernel

/-- An armed timer of the wait set without a waiter, and a periodic one, fired, of the other. -/
theorem witness_TimersAndDeadlines_bound : ∃ (s : State) (q : Req), (DueTimer s 5 ∧ DueTimer s 6) ∧ Roomy s
    ∧ (fld (s.obj 5) 448 24 = 12 ∧ fld (s.obj 5) 448 32 ≠ 0 ∧ fld (s.obj 6) 448 24 = 13 ∧ fld (s.obj 6) 448 32 ≠ 0)
    ∧ (objKind (s.obj 12) = kWSET ∧ objKind (s.obj 13) = kWSET ∧ Cached s 12 ∧ Cached s 13)
    ∧ objState (s.obj 5) = 2 ∧ s.waiter 12 = none ∧ objState (s.obj 6) = 3 ∧ fld (s.obj 6) 128 64 ≠ 0 ∧ s.waiter 13 = some q
    ∧ (∀ r ∈ s.reqs, r.id = q.id → r = q)
    ∧ reportIndex (withFld (s.obj 13) (64 + fld (s.obj 6) 472 6) 1 1) = some 3 := by
  refine ⟨timing 2 [(5, timer 2 9 0 12), (6, timer 3 9 100 13)], ask (.kwait 0x100 3) (.pending 13), ?_, roomy (by decide +kernel), ?_⟩
    <;> simp only [DueTimer, Had, Cached] <;> decide +kernel

/-- The deadline is one cycle away; and the timer's home is not live. -/
theorem witness_TimersAndDeadlines_early : ∃ (s u : State), objKind (s.obj 5) = kTIMER ∧ Had s (s.recordKeys [5]) (.timerFire 5)
    ∧ s.live (objHome 5) = true ∧ objState (s.obj 5) = 2 ∧ s.timerWait (s.obj 5) ≠ 0
    ∧ u.live (objHome 5) = false ∧ objKind (u.obj 5) = kTIMER ∧ u.timerWait (u.obj 5) = 0 := by
  refine ⟨timing 2 [(5, timer 2 10 0 0)], timing 1 [(5, timer 2 9 0 0)], ?_⟩
  unfold Had
  decide +kernel

theorem witness_TimersAndDeadlines_wait : ∃ (s : State) (q : Req), s.waiter 5 = some q ∧ s.req q.id = some q
    ∧ objKind (s.obj 5) = kWSET ∧ fld (s.obj 5) 224 64 ≤ s.cycle :=
  ⟨asking (ask (.kwait 0x100 3) (.pending 5)) [(5, mkObj [(0, 4, 4), (4, 4, 1), (192, 24, 1), (224, 64, 9)])] (fun s => { s with cycle := 9 }),
    _, rfl, rfl, by decide +kernel⟩

/-- A work range of eight in chunks of four, its handle the first; half handed out, and all. -/
def working (cur : Nat) : State :=
  asking (ask (.knext 0x100 64) (.pending 5)) [(5, mkObj [(0, 4, 7), (4, 4, 1), (64, 32, 8), (96, 16, 3), (128, 32, cur)])] fun s =>
    { s with mem := memWrites [] (cellsAt 4104 (bytesLE 8 (5 + 0xFF * 2 ^ 32 + 7 * 2 ^ 40))) }

theorem witness_WorkIsHandedOut : ∃ (s u : State) (q : Req) (h : Word) (a : Nat), s.req q.id = some q ∧ q.ask = .knext h a
    ∧ q.stage = .pending 5 ∧ Had s (s.tableKeys q) (.knextServe q.id) ∧ Had u (u.tableKeys q) (.knextServe q.id)
    ∧ (s.resolve q).getRight? = some 5 ∧ objKind (s.obj 5) = kWORK ∧ fld (s.obj 5) 128 32 < fld (s.obj 5) 64 32
    ∧ u.req q.id = some q ∧ (u.resolve q).getRight? = some 5 ∧ objKind (u.obj 5) = kWORK
    ∧ fld (u.obj 5) 64 32 ≤ fld (u.obj 5) 128 32 :=
  ⟨working 4, working 8, ask (.knext 0x100 64) (.pending 5), 0x100, 64, by unfold Had; decide +kernel⟩

/-- A name in the directory, and one that is not; the directory of package 2 of a domain of three. -/
theorem witness_NamesAndFarPorts_clash : ∃ (s : State) (q : Req) (h : Word) (name : BitVec 256) (port x n node : Nat),
    s.req q.id = some q ∧ q.ask = .kname h name ∧ q.stage = .pending port ∧ q.keep = some (x, n)
    ∧ Had s (s.recordKeys [q.proc, port, n] ++ [s.handleKey q.proc x]) (.directoryInsert q.id)
    ∧ s.dirNode q.ns name = some node ∧ objKind (s.obj q.proc) = kPROC ∧ (s.dirFind q.ns name).isSome = true :=
  ⟨asking { ask (.kname 0x100 77) (.pending 5) with keep := some (2, 6) } [] (fun s => { s with dir := [⟨0, 77, 0, 9, 3⟩] }),
    { ask (.kname 0x100 77) (.pending 5) with keep := some (2, 6) }, 0x100, 77, 5, 2, 6, 0, by unfold Had; decide +kernel⟩

theorem witness_NamesAndFarPorts_other : ∃ (s : State) (node : Nat), s.dirNode 0 77 = some node ∧ s.pkgId ≠ 0 ∧ 3 ≠ s.pkgId
    ∧ s.dirFind 0 77 = none ∧ s.dirFull node = false :=
  ⟨{ world [] [] [] with mgmt := (0x08, BitVec.ofNat 64 (2 + 3 * 2 ^ 16)) :: (List.range 64).map fun k => (0x200000 + 8 * k, 0x0002000200020002) },
    2, by decide +kernel⟩

theorem witness_NamesAndFarPorts_look : ∃ (s : State) (q : Req) (name : BitVec 256) (o node : Nat), s.req q.id = some q
    ∧ q.ask = .klook true name ∧ q.stage = .pending o ∧ Had s (s.newHandleKeys q.proc) (.nameLookup q.id)
    ∧ s.dirNode q.ns name = some node ∧ s.dirFind q.ns name = none :=
  ⟨asking (ask (.klook true 77) (.pending 0)) [], ask (.klook true 77) (.pending 0), 77, 0, 0, by unfold Had; decide +kernel⟩

/-- The cache names port 5 of this package and a port of package 3; the ids 6 to 9 of the die are the partition's. -/
def looking (name : BitVec 256) : State :=
  named (ask (.klook false name) (.pending 0)) fun s => { s with
    names := [⟨0, 77, 0, 9, 5⟩, ⟨0, 78, 3, 9, 5⟩]
    mgmt := [(oidLo 0 0, 6), (oidHi 0 0, 9), (0x50, 0x7F00000000), (0x08, BitVec.ofNat 64 (1 + 3 * 2 ^ 16))] }

theorem witness_NamesAndFarPorts_found : ∃ (s u : State) (q r : Req) (d e : DirEnt) (x n : Nat), s.Inv ∧ u.Inv
    ∧ s.req q.id = some q ∧ q.ask = .klook false 77 ∧ q.stage = .pending 0 ∧ s.freeHandle q.proc = some x ∧ d.pkg = 0
    ∧ s.live (objHome d.nameId) = true ∧ objKind (s.obj d.port) = kPORT ∧ u.req r.id = some r ∧ r.ask = .klook false 78
    ∧ r.stage = .pending 0 ∧ u.freeHandle r.proc = some x ∧ e.pkg ≠ 0 ∧ u.reachable e.pkg = true
    ∧ u.freeId r.part r.core.die = some n
    ∧ (Had s (s.newHandleKeys q.proc) (.nameLookup q.id) ∧ Had u (u.newHandleKeys r.proc) (.nameLookup r.id))
    ∧ (Roomy s ∧ Cached s q.proc ∧ ∀ k < 8, s.confOf (s.handleKey q.proc x + k) = none)
    ∧ Looked s q.ns false 77 d ∧ Looked u r.ns false 78 e :=
  ⟨looking 77, looking 78, ask (.klook false 77) (.pending 0), ask (.klook false 78) (.pending 0), ⟨0, 77, 0, 9, 5⟩, ⟨0, 78, 3, 9, 5⟩,
    2, 6, by unfold State.Inv; decide +kernel, by unfold State.Inv; decide +kernel, by decide +kernel, rfl, rfl, by decide +kernel,
    by decide +kernel, by decide +kernel, by decide +kernel, by decide +kernel, rfl, rfl, by decide +kernel, by decide +kernel,
    by decide +kernel, by decide +kernel, by unfold Had; decide +kernel, ⟨roomy (by decide +kernel), by unfold Cached; decide +kernel, by decide +kernel⟩,
    Or.inl ⟨rfl, by decide +kernel⟩, Or.inl ⟨rfl, by decide +kernel⟩⟩

/-- The name is in the directory, and in no cache. -/
theorem witness_NamesAndFarPorts_directory : ∃ (s : State) (e : DirEnt), Looked s 0 true 77 e :=
  ⟨{ looking 77 with mgmt := [], dir := [⟨0, 77, 0, 9, 5⟩] }, ⟨0, 77, 0, 9, 5⟩, Or.inr ⟨Or.inl rfl, by decide +kernel, by decide +kernel⟩⟩

/-- The port's home has one entry of its partition free; and none. -/
theorem witness_NamesAndFarPorts_arrives : ∃ (s u : State), (∀ r ∈ s.reqs, r.id ≠ s.nextId)
    ∧ s.queueUse (objHome 5) (objPart (s.obj 5)) < (s.die (objHome 5)).queue.getD (objPart (s.obj 5)) 0
    ∧ (∀ r ∈ u.reqs, r.id ≠ u.nextId)
    ∧ ¬ u.queueUse (objHome 5) (objPart (u.obj 5)) < (u.die (objHome 5)).queue.getD (objPart (u.obj 5)) 0 :=
  ⟨{ named (sending .held) with dies := [{ die := 0, st := 2, queue := 1 :: List.replicate 15 0 }] }, named (sending .held),
    by decide +kernel⟩

theorem witness_NamesAndFarPorts_answer : ∃ (s : State) (q : Req) (h : Word) (m : BitVec 512) (i : Nat), s.req q.id = some q
    ∧ q.ask = .ksend h m none ∧ q.stage = .pending i ∧ q.far.isSome = true ∧ ∀ g ∈ s.grants, g.req ≠ q.id :=
  ⟨asking { sending (.pending 5) with far := some (3, 77) } [(5, mkObj [(0, 4, 3), (4, 4, 1), (96, 11, 3)])],
    { sending (.pending 5) with far := some (3, 77) }, 0x100, 9, 5, by decide +kernel⟩

/-- A status with a value, and eight scratchpad bytes; D at its last place. -/
theorem witness_KernelResultsArrive : ∃ (s : State) (q : Req) (k : Core) (q0 : Team) (v : Wave) (status value : Word)
    (cells : List Host.Cell), s.req q.id = some q ∧ q.stage = .answered status value cells ∧ s.coreOf q.team = some k
    ∧ s.core k.id = k ∧ k.team q.team = some q0 ∧ q0.wave q.wid = some v ∧ v.ended = false ∧ k.rollback = none
    ∧ k.roomFor ((cells.map fun c => LogKey.spad q.team (c.1 / 64)).eraseDups
        ++ (q.writes status value).map (·.logKey q.team q.wid)) (1 + cells.length / 64) = true ∧ q.d + 1 < 64 :=
  ⟨asking { ask (.knext 0x100 64) (.answered 0 5 (cellsAt 64 (bytesLE 8 7))) with d := 62 } [],
    { ask (.knext 0x100 64) (.answered 0 5 (cellsAt 64 (bytesLE 8 7))) with d := 62 }, coreOf (teamOf false (waveOf 0 [] [] [])),
    teamOf false (waveOf 0 [] [] []), waveOf 0 [] [] [], 0, 5, cellsAt 64 (bytesLE 8 7),
    by decide +kernel⟩

/-! The carousel. -/

/-- A ring of 64 slots, the first eight partition 0's with room for one catch. -/
def ring (f : State → State) (q : Req) : State :=
  asking q [] fun s => f { s with
    mgmt := [(0x10, BitVec.ofNat 64 (64 + 8 * 2 ^ 16)), (partBlock 0 + 0x28, BitVec.ofNat 64 (8 * 2 ^ 16 + 2 ^ 32))] }

/-- The ring running and stopped, with a name and without. -/
theorem witness_CarouselAccepts : ∃ (s u v : State) (q : Req), s.req q.id = some q ∧ q.stage = .pending 0 ∧ q.ask.carousel = true
    ∧ (∀ n a tg f l, q.ask ≠ .catchTile n a tg f l) ∧ s.carOff q.part = false ∧ s.carName q.part q.ask.carName = none
    ∧ u.req q.id = some q ∧ u.carOff q.part = false ∧ (u.carName q.part q.ask.carName).isSome = true ∧ v.req q.id = some q
    ∧ v.carOff q.part = true :=
  ⟨ring id (ask (.board 3 0) (.pending 0)), ring (fun s => { s with carIndex := [{ part := 0, name := 3 }] }) (ask (.board 3 0) (.pending 0)),
    asking (ask (.board 3 0) (.pending 0)) [], ask (.board 3 0) (.pending 0), by decide +kernel, rfl, rfl, by intros; simp [ask],
    by decide +kernel⟩

theorem witness_CarouselAccepts_alight : ∃ (s u : State) (q : Req), s.req q.id = some q ∧ q.stage = .pending 0 ∧ q.ask = .alight 3
    ∧ s.carOff q.part = false ∧ (s.carName q.part 3).map (·.marked.isSome) = some false
    ∧ u.req q.id = some q ∧ u.carOff q.part = false ∧ (u.carName q.part 3).map (·.marked.isSome) = some true :=
  ⟨ring (fun s => { s with carIndex := [{ part := 0, name := 3 }] }) (ask (.alight 3) (.pending 0)),
    ring (fun s => { s with carIndex := [{ part := 0, name := 3, marked := some 2 }] }) (ask (.alight 3) (.pending 0)),
    ask (.alight 3) (.pending 0), by decide +kernel⟩

def catching (st : Stage) : Req := ask (.catchTile 3 64 none 0 128) st

theorem witness_CarouselPasses_register : ∃ (s u : State) (q : Req) (n : Word) (a f l : Nat) (tg : Option Nat), s.req q.id = some q
    ∧ q.stage = .pending 0 ∧ q.ask = .catchTile n a tg f l ∧ s.carOff q.part = false
    ∧ (s.catches.filter fun c => c.die == q.core.die && c.part == q.part).length < segCQ (carSeg s q.part)
    ∧ u.req q.id = some q ∧ u.carOff q.part = false
    ∧ segCQ (carSeg u q.part) ≤ (u.catches.filter fun c => c.die == q.core.die && c.part == q.part).length :=
  ⟨ring id (catching (.pending 0)), ring (fun s => { s with catches := [⟨2, 0, 0, 3, 0⟩] }) (catching (.pending 0)), catching (.pending 0),
    3, 64, 0, 128, none, by decide +kernel⟩

/-- The last slot of the segment passes with the tile. -/
theorem witness_CarouselPasses_pass : ∃ (s : State) (p slot die a f l : Nat) (x : CarSlot) (c : CarCatch) (q : Req) (n : Word)
    (tg : Option Nat), s.slotPart slot = some p ∧ s.carOff p = false ∧ s.car.find? (·.slot == slot) = some x ∧ x.slot = slot
    ∧ x.poisoned = false ∧ s.carName p x.name = none
    ∧ (∀ r ∈ s.reqs, r.accepted p = true → isCwrite r = false ∧ isBoard r = false) ∧ s.catches = [c] ∧ c.req = q.id ∧ c.die = die
    ∧ c.part = p ∧ c.name = x.name ∧ c.at_ < s.wall ∧ s.req q.id = some q ∧ q.stage = .pending 1 ∧ q.ask = .catchTile n a tg f l :=
  ⟨ring (fun s => { s with cycle := 5, catches := [⟨7, 0, 0, 3, 4⟩], car := [{ slot := 7, name := 3, ver := 1, data := List.replicate 128 1 }] })
      (catching (.pending 1)), 0, 7, 0, 64, 0, 128, { slot := 7, name := 3, ver := 1, data := List.replicate 128 1 }, ⟨7, 0, 0, 3, 4⟩,
    catching (.pending 1), 3, none, by decide +kernel⟩

/-- More than a lap has passed since the catch registered; and no lap has. -/
theorem witness_CarouselPasses_timeout : ∃ (s u : State) (c : CarCatch) (q : Req), s.catches.find? (·.req == q.id) = some c
    ∧ s.req q.id = some q ∧ q.stage = .pending 1 ∧ c.at_ + s.lapPs < s.wall ∧ u.catches.find? (·.req == q.id) = some c
    ∧ u.req q.id = some q ∧ u.wall ≤ c.at_ + u.lapPs :=
  ⟨ring (fun s => { s with cycle := 1000000, catches := [⟨7, 0, 0, 3, 4⟩] }) (catching (.pending 1)),
    ring (fun s => { s with catches := [⟨7, 0, 0, 3, 4⟩] }) (catching (.pending 1)), ⟨7, 0, 0, 3, 4⟩, catching (.pending 1),
    by decide +kernel⟩

theorem witness_CarouselPasses_board : ∃ (s : State) (q : Req) (n : Word) (a : Nat), s.req q.id = some q ∧ q.ask = .board n a
    ∧ q.stage = .pending 1 :=
  ⟨ring id (ask (.board 3 0) (.pending 1)), ask (.board 3 0) (.pending 1), 3, 0, by decide +kernel⟩

/-! Heats and held effects. -/

def heat0 : Heat := { num := 4, opened := 100, k := 256 }

/-- A heat that has been open for exactly K cycles; one whose undo log is full; and a previous heat closed long ago. -/
def hot (old : Option Heat) (log : Nat) (now : Nat) : State :=
  { worldK fun k => { k with cur := some { heat0 with log := (List.range log).map (LogKey.l1 ·) }, old := old, hmax := some 4 } with cycle := now }

def closed3 : Heat := { heat0 with num := 3, closed := some 90 }

/-- The open heat is K cycles old, with the previous heat set and not; and a cycle short of it. -/
theorem witness_HeatsCloseAndAreSet_timeout : ∃ (s u v : State) (h : Heat), (s.core core0).cur = some h
    ∧ (s.core core0).rollback = none ∧ h.opened + h.k ≤ s.cycle ∧ (s.core core0).old = none ∧ (u.core core0).cur = some h
    ∧ (u.core core0).rollback = none ∧ h.opened + h.k ≤ u.cycle ∧ (u.core core0).old.isSome = true ∧ (v.core core0).cur = some h
    ∧ (v.core core0).rollback = none ∧ v.cycle < h.opened + h.k :=
  ⟨hot none 0 356, hot (some closed3) 0 356, hot none 0 355, heat0, by decide +kernel⟩

/-- The undo log at 2,304 entries, with the previous heat set and not; and an entry short of it. -/
theorem witness_HeatsCloseAndAreSet_log : ∃ (s u v : State), (s.core core0).cur.isSome = true ∧ (s.core core0).rollback = none
    ∧ (s.core core0).closeReq = false ∧ 2304 ≤ Ctx.heatLoad (s.core core0).cur + Ctx.heatLoad (s.core core0).old
    ∧ (s.core core0).old = none ∧ (u.core core0).cur.isSome = true ∧ (u.core core0).rollback = none ∧ (u.core core0).closeReq = false
    ∧ 2304 ≤ Ctx.heatLoad (u.core core0).cur + Ctx.heatLoad (u.core core0).old ∧ (u.core core0).old.isSome = true
    ∧ (v.core core0).cur.isSome = true ∧ (v.core core0).rollback = none ∧ (v.core core0).closeReq = false
    ∧ Ctx.heatLoad (v.core core0).cur + Ctx.heatLoad (v.core core0).old < 2304 := by
  refine ⟨hot none 2304 100, hot (some closed3) 2304 100, hot none 2303 100, rfl, rfl, rfl, ?_, rfl, rfl, rfl, rfl, ?_, rfl, rfl, rfl, rfl, ?_⟩
    <;> simp [hot, worldK, stateOf, coreOf, State.core, Ctx.heatLoad, heat0, closed3]

/-- The previous heat closed 225 cycles ago, and 224; with a close that waits for its setting, and an export before it. -/
theorem witness_HeatsCloseAndAreSet_set : ∃ (s u v : State) (h : Heat) (n : Nat), (s.core core0).old = some h ∧ h.closed = some n
    ∧ n + 224 < s.cycle ∧ (s.core core0).rollback = none ∧ (s.core core0).closeReq = false
    ∧ ((s.core core0).holdRoom && (s.core core0).exports.isEmpty) = true ∧ (u.core core0).old = some h ∧ u.cycle ≤ n + 224
    ∧ (u.core core0).rollback = none ∧ (v.core core0).old = some h ∧ n + 224 < v.cycle ∧ (v.core core0).rollback = none
    ∧ (v.core core0).closeReq = true ∧ (v.core core0).cur.isSome = true
    ∧ ((v.core core0).holdRoom && (v.core core0).exports.isEmpty) = false :=
  ⟨hot (some closed3) 0 315, hot (some closed3) 0 314, { hot none 0 315 with
      cores := (hot (some closed3) 0 315).cores.map fun k => { k with closeReq := true, exports := [(2, [])] } }, closed3, 90,
    by decide +kernel⟩

def heatc (set : Bool) : RForm := ⟨.always, 0, 0, 0, 0, false, false, false, false, 0, 0, false, 0, 0, if set then 1 else 0⟩

theorem witness_HeatcCloses : ∃ (s u : State) (x y : Ctx) (act : List Nat) (h : Heat), s.Issues { g := (heatc true).g, uniform := true } x act
    ∧ x.core.cur = some h ∧ x.wave.heatWait = none ∧ x.core.old = none ∧ u.Issues { g := (heatc true).g, uniform := true } y act
    ∧ y.core.cur = some h ∧ y.wave.heatWait = none ∧ y.core.old.isSome = true :=
  ⟨hot none 0 200, hot (some closed3) 0 200, _, _, both, heat0, issues (by decide +kernel), by decide +kernel,
    by decide +kernel, by decide +kernel, issues (by decide +kernel), by decide +kernel⟩

/-- The heat waited for is set, and is not. -/
def waiting (n : BitVec 32) : State :=
  { worldW (fun w => { w with heatWait := some n }) with cores := (hot (some closed3) 0 200).cores.map fun k =>
      { k with teams := k.teams.map fun q => { q with waves := q.waves.map fun w => { w with heatWait := some n } } } }

theorem witness_HeatcCloses_wait : ∃ (s u : State) (x y : Ctx) (act : List Nat) (n m : BitVec 32),
    s.Issues { g := (heatc true).g, uniform := true } x act ∧ x.core.cur = some heat0 ∧ x.wave.heatWait = some n ∧ x.core.isSet n = true
    ∧ u.Issues { g := (heatc true).g, uniform := true } y act ∧ y.core.cur = some heat0 ∧ y.wave.heatWait = some m
    ∧ y.core.isSet m = false :=
  ⟨waiting 2, waiting 3, _, _, both, 2, 3, issues (by decide +kernel), by decide +kernel, by decide +kernel, by decide +kernel,
    issues (by decide +kernel), by decide +kernel⟩

/-- One effect in the hold-back buffer. -/
def holding (k : HeldKind) (lv : Option Leave) : State :=
  { worldK (fun c => { c with held := [⟨4, ⟨1, 0, 9⟩, k, 1, true⟩], teams := c.teams.map fun q => { q with leave := lv } }) with
    objs := [(1, mkObj [(0, 4, 2), (4, 4, 2)])] }

theorem witness_EffectsDepart_store : ∃ (s : State) (h : Held) (cs : List Host.Cell), s.Inv ∧ (s.core core0).held = [h] ∧ h.kind = .store cs
    ∧ h.released = true ∧ h.entries ≤ 2 ∧ (s.core core0).exports = [] ∧ ∀ q ∈ cs, s.deviceWaits q.1 = false ∧ s.physMayWrite (some (s.teamPart h.ref.team)) q.1 = true :=
  ⟨holding (.store [(256, 7), (257, 8)]) none, ⟨4, ⟨1, 0, 9⟩, .store [(256, 7), (257, 8)], 1, true⟩, _, ⟨rfl, rfl, rfl⟩, by decide +kernel, rfl,
    by decide +kernel⟩

/-- A store of three lines. -/
theorem witness_EffectsDepart_split : ∃ (s : State) (h : Held) (cs : List Host.Cell), (s.core core0).held = [h] ∧ h.kind = .store cs
    ∧ h.released = true ∧ 2 < h.entries ∧ (s.core core0).exports = [] ∧ ∀ q ∈ cs, s.deviceWaits q.1 = false :=
  ⟨worldK fun c => { c with held := [⟨4, ⟨1, 0, 9⟩, .store [(256, 7), (320, 8), (384, 9)], 3, true⟩] },
    ⟨4, ⟨1, 0, 9⟩, .store [(256, 7), (320, 8), (384, 9)], 3, true⟩, _, by decide +kernel, rfl, by decide +kernel⟩

theorem witness_EffectsDepart_image : ∃ (s : State) (h : Held) (oid : Nat) (q : Team), (s.core core0).held = [h] ∧ h.kind = .image oid
    ∧ h.released = true ∧ (s.core core0).team oid = some q ∧ q.leave = some (.swap .stay) ∧ objKind (s.obj oid) = kTEAM
    ∧ h.entries ≤ 2 ∧ (s.core core0).exports = [] :=
  ⟨holding (.image 1) (some (.swap .stay)), ⟨4, ⟨1, 0, 9⟩, .image 1, 1, true⟩, 1, { teamOf false (waveOf 0 [] [] []) with leave := some (.swap .stay) },
    by decide +kernel⟩

/-- A load of v3 of thread 0 is out; the value of thread 1 has another cycle to come. -/
def loading (due : List (Nat × List RegWrite)) : State :=
  worldW fun w => { w with ops := [{ id := 9, cls := .ld, pend := [.v 3], result := [.v 0 3 5], due := due }] }

theorem witness_EffectsDepart_load : ∃ (s u : State) (q p : Team) (v w : Wave) (o r : Op), s.waveAt wave0 = some (q, v)
    ∧ s.coreOf wave0.team = some (s.core wave0.core) ∧ v.ops.find? (·.id == 9) = some o ∧ o.done = false ∧ o.left = 0
    ∧ o.toCome s.cycle = [] ∧ (s.core wave0.core).rollback = none
    ∧ landRoom (s.core wave0.core) wave0 o (o.result ++ o.come s.cycle) = true
    ∧ (∀ r ∈ o.result ++ o.come s.cycle, r.live v = true)
    ∧ u.waveAt wave0 = some (p, w) ∧ u.coreOf wave0.team = some (u.core wave0.core) ∧ w.ops.find? (·.id == 9) = some r
    ∧ r.done = false ∧ r.toCome u.cycle ≠ [] ∧ (u.core wave0.core).rollback = none
    ∧ landRoom (u.core wave0.core) wave0 r (r.come u.cycle) = true ∧ r.come u.cycle ≠ []
    ∧ ∀ x ∈ r.come u.cycle, x.live w = true := by
  refine ⟨loading [], { loading [(4, [.v 0 3 6]), (5, [.v 1 3 7])] with cycle := 4 }, _, _, _, _,
    { id := 9, cls := .ld, pend := [.v 3], result := [.v 0 3 5] },
    { id := 9, cls := .ld, pend := [.v 3], result := [.v 0 3 5], due := [(4, [.v 0 3 6]), (5, [.v 1 3 7])] }, rfl, by decide +kernel,
    by decide +kernel, by decide +kernel, by decide +kernel, by decide +kernel, by decide +kernel, by decide +kernel,
    by decide +kernel, rfl, ?_⟩
  decide +kernel

theorem witness_StrikesRollBack : ∃ (s u : State) (h : Heat) (e : Nat), (s.core core0).inReset = false ∧ (s.core core0).teams ≠ []
    ∧ (s.core core0).cur.isSome = true ∧ (u.core core0).rollback = some e ∧ e ≤ u.cycle ∧ (u.core core0).cur = some h
    ∧ (u.core core0).old = none ∧ h.rets = [] ∧ h.admitted = [] ∧ (u.core core0).teams ≠ [] :=
  ⟨hot none 0 200, { worldK (fun k => { k with cur := some heat0, rollback := some 300 }) with cycle := 300 }, heat0, 300, by decide +kernel⟩

/-- A station that passed slot 7 last, its tile good. -/
theorem witness_StrikesRollBack_station : ∃ (s : State) (x : CarSlot), carNS s ≠ 0 ∧ s.lastPassed 0 = some x ∧ x.poisoned = false :=
  ⟨ring (fun s => { s with car := [{ slot := 7, name := 3, ver := 1, data := List.replicate 128 1 }] }) (catching (.pending 1)),
    { slot := 7, name := 3, ver := 1, data := List.replicate 128 1 }, by decide +kernel⟩

/-- A live die with a team, whose last machine-check is none, or was just under an hour ago. -/
theorem witness_StrikesRollBack_check : ∃ (s u : State), (∀ x ∈ [s, u], NothingToFeed x ∧ (x.cores.map (·.id)).Nodup
      ∧ (∀ k ∈ x.cores, ∀ q ∈ k.teams, x.coreOf q.oid = some k) ∧ (x.die 0).st = 2 ∧ ∃ k ∈ x.cores, k.id.die = 0 ∧ k.teams ≠ [])
    ∧ (s.die 0).mcAt = none ∧ (u.die 0).mcAt = some 0 ∧ u.wall < 0 + micros 3600000000 ∧ 0 < u.wall := by
  refine ⟨world [] [] [], { world [] [] [] with dies := [{ die := 0, st := 2, mcAt := some 0 }], cycle := 9 }, ?_⟩
  unfold NothingToFeed
  decide +kernel

/-! Clauses and timers. -/

/-- Threads 0 and 1 stand before the header at word 0, which is `h`; one store is outstanding. -/
def entering (h : DWord) : State :=
  { worldW fun w => { w with threads := w.threads.map (fun t => if t.pc = 1 then { t with mark := true } else t), ops := [{ id := 9, cls := .st }] }
    with mem := memWrites [] (cellsAt 0 (bytesLE 8 h.toNat)) }

/-- A header whose thresholds are met, one that asks for no store, and a word that is no header. -/
theorem witness_ClausesAndTimersAct_entry : ∀ h ∈ ([0xA00F_FFFF_FFC0_0000, 0xA00F_C0FF_FFC0_0000, 7] : List DWord), ∃ (x : Ctx),
    (entering h).ctxAt wave0 = some x ∧ x.entering ≠ [] ∧ (∀ t ∈ x.entering, (x.thread t).deny = none) ∧ WordAt x x.entryCb h
    ∧ ((Header.ofWord h).legal && x.wave.meets (Header.ofWord h)) = (h == 0xA00F_FFFF_FFC0_0000)
    ∧ (Header.ofWord h).legal = (h != 7) ∧ x.room (x.rcdKeys x.entering) = true := by
  intro h hm
  refine ⟨hand (entering h), ?_⟩
  unfold WordAt
  have e : ((entering h).ctx.isSome = true) → (entering h).ctxAt wave0 = some (hand (entering h)) := ctx_hand
  simp only [List.mem_cons, List.not_mem_nil, or_false] at hm
  rcases hm with rfl | rfl | rfl
  · exact ⟨e (by decide +kernel), by decide +kernel, by decide +kernel, by decide +kernel, by decide +kernel, by decide +kernel,
      room_free (by decide +kernel) _⟩
  · exact ⟨e (by decide +kernel), by decide +kernel, by decide +kernel, by decide +kernel, by decide +kernel, by decide +kernel,
      room_free (by decide +kernel) _⟩
  · exact ⟨e (by decide +kernel), by decide +kernel, by decide +kernel, by decide +kernel, by decide +kernel, by decide +kernel,
      room_free (by decide +kernel) _⟩

/-- Thread 3 has been demoted for exactly 256 cycles. -/
theorem witness_ClausesAndTimersAct_spin : ∃ (s : State) (q : Team) (v : Wave), s.waveAt wave0 = some (q, v) ∧ 3 < 32
    ∧ (v.thread 3).tier = 1 ∧ (v.thread 3).demoted + 256 ≤ s.cycle :=
  ⟨{ worldW fun w => w.modThread 3 fun t => { t with tier := 1, demoted := 44 } with cycle := 300 }, _, _, rfl, by decide +kernel⟩

/-- A team that asks for progress, at a boundary, its timer at F. -/
theorem witness_ClausesAndTimersAct_fair : ∃ (s : State) (q : Team) (v : Wave) (a b : Nat), s.waveAt wave0 = some (q, v)
    ∧ q.prog = true ∧ q.fair ≤ v.timer ∧ v.run = 0 ∧ a ∈ v.eligibles ∧ b ∈ v.eligibles ∧ v.prev.getLsbD a = true
    ∧ v.prev.getLsbD b = false ∧ (v.thread a).pc ≠ (v.thread b).pc :=
  ⟨worldQ fun q => { q with desc := q.desc ||| 0x800, waves := q.waves.map fun w => { w with run := 0, timer := 64 } }, _, _, 1, 2, rfl,
    by decide +kernel⟩

end Sys2Proof.Tests
end

