-- ==== Sys2Proof/Tests/Wave.lean ====
section
/-! SUPPORT. Witnesses: for each statement about instructions of waves and streams, concrete states and operands that meet its
hypotheses, clause by clause. -/

namespace Sys2Proof.Tests

set_option Elab.async false

open Sys2Proof.Machine Sys2Proof.Claims

/-! Operands. -/

def rr (d a b : BitVec 6) (ty : BitVec 4) : RForm := ⟨.always, d, a, b, 0, false, false, false, false, ty, 0, false, 0, 0, 0⟩
/-- s registers throughout. -/
def rs (d a b : BitVec 6) (ty : BitVec 4) : RForm := ⟨.always, d, a, b, 0, true, true, true, false, ty, 0, false, 0, 0, 0⟩
def r0 : RForm := ⟨.always, 0, 0, 0, 0, false, false, false, false, 0, 0, false, 0, 0, 0⟩
def i0 (imm : Word) : IForm := ⟨.always, 0, 0, false, false, 0, imm⟩
def x0 : XForm := ⟨.always, 0, 0, 0, 0, 0, 0, false, true, 0⟩
def m0 : MForm := ⟨.always, 2, 1, 1, false, false, 0, 0, 0, 2, 0⟩
def k0 : KForm := ⟨.always, 10, 4, 8, 0, 0, 0⟩
def b0 (t : Word) : BForm := ⟨.always, 0, t, 0⟩
def ms0 (m1 : BitVec 4) (acc : BitVec 3) (imm : Word) : MSForm := ⟨m1, 0, 0, false, acc, 8, 0, imm⟩

def plain : State := world [] [] []

/-! Results. -/

theorem witness_IntegerInstructionsDeliver : ∃ (i : Instr) (r : Row) (s : State) (x : Ctx) (act : List Nat),
    IntegerRow i r ∧ s.Issues r.issue x act ∧ r.Fits x act :=
  ⟨_, _, world [5, 7] [0xFFFFFFFF, 1] [], _, both, .iadd (rr 2 0 1 4), issues (by decide +kernel), room_free (by decide +kernel) _⟩

/-- A guard that only thread 1 passes. -/
theorem witness_IntegerInstructionsDeliver_guarded : ∃ (i : Instr) (r : Row) (s : State) (x : Ctx),
    IntegerRow i r ∧ s.Issues r.issue x [1] ∧ r.Fits x [1] :=
  ⟨_, _, worldW fun w => w.modThread 1 fun t => t.setPred 0 true, _, .iadd { rr 2 0 1 4 with g := ⟨0, false⟩ },
    issues (by decide +kernel), room_free (by decide +kernel) _⟩

theorem witness_ScalarInstructionsDeliver : ∃ (i : Instr) (r : Row) (s : State) (x : Ctx) (act : List Nat),
    ScalarRow i r ∧ s.Issues r.issue x act ∧ r.Fits x act :=
  ⟨_, _, world [] [] [3, 4], _, both, .sadd (rs 2 0 1 4), issues (by decide +kernel), room_free (by decide +kernel) _⟩

theorem witness_FloatInstructionsDeliver : ∃ (i : Instr) (r : Row) (s : State) (x : Ctx) (act : List Nat),
    FloatRow i r ∧ s.Issues r.issue x act ∧ r.Fits x act :=
  ⟨_, _, world [0x3F800000, 0x40000000] [] [], _, both, .fadd (rr 2 0 1 8), issues (by decide +kernel), room_free (by decide +kernel) _⟩

theorem witness_CrossThreadInstructionsDeliver : ∃ (i : Instr) (r : Row) (s : State) (x : Ctx) (act : List Nat),
    CrossRow i r ∧ s.Issues r.issue x act ∧ r.Fits x act :=
  ⟨_, _, world [9] [9] [], _, both, .matchw (rr 2 0 0 5), issues (by decide +kernel), room_free (by decide +kernel) _⟩

/-! Control, ordering and traps. -/

theorem witness_TransfersGo : ∃ (i : Instr) (iss : Issue) (link : Option (BitVec 6)) (tgt : Ctx → Nat → WAddr) (s : State) (x : Ctx)
    (act : List Nat), TransferRow i iss link tgt ∧ s.Issues iss x act
      ∧ x.room ((linkWrites link x act).map (·.logKey x.w.team x.w.wid)) = true :=
  ⟨_, _, _, _, plain, _, both, .call (b0 4), issues (by decide +kernel), room_free (by decide +kernel) _⟩

theorem witness_ConditionsMetPass : ∃ (i : Instr) (iss : Issue) (c : Ctx → Prop) (f : Ctx → List Nat → Team → Team) (s : State)
    (x : Ctx) (act : List Nat), PassRow i iss c f ∧ s.Issues iss x act ∧ c x :=
  ⟨_, _, _, _, plain, _, both, .barx { x0 with a := 3 }, issues (by decide +kernel), by decide +kernel⟩

/-- A wait whose terms all stand at their bounds. -/
theorem witness_ConditionsMetPass_wait : ∃ (iss : Issue) (c : Ctx → Prop) (f : Ctx → List Nat → Team → Team) (s : State)
    (x : Ctx) (act : List Nat), PassRow (.wait (i0 0)) iss c f ∧ s.Issues iss x act ∧ c x :=
  ⟨_, _, _, plain, _, both, .wait _, issues (by decide +kernel), by unfold within; decide +kernel⟩

/-- A YIELD inside its clause; and as its clause's last word, with eligible threads elsewhere. -/
def lastWord : State := worldW fun w => { w with threads := w.threads.map fun t =>
  if t.pc = 1 then { t with hdr := ({ Header.plain 0 with n1 := 0 } : Header).toWord } else t }

theorem witness_ConditionsMetPass_yield : ∃ (s u : State) (x y : Ctx) (act : List Nat), s.Issues { g := r0.g, uniform := true } x act
    ∧ (∀ a ∈ x.run, (x.thread a).mark = false ∧ x.pc + 1 ≠ (x.thread a).clauseEnd)
    ∧ u.Issues { g := r0.g, uniform := true } y act ∧ (∃ a ∈ y.run, y.pc + 1 = (y.thread a).clauseEnd)
    ∧ ∃ a ∈ y.run, ∃ b, b < 32 ∧ b ∉ y.run ∧ (y.thread b).life = .eligible ∧ (y.thread b).pc ≠ y.nextPc a :=
  ⟨plain, lastWord, _, _, both, issues (by decide +kernel), by decide +kernel, issues (by decide +kernel), by decide +kernel,
    0, by decide +kernel, 2, by decide +kernel⟩

theorem witness_ConditionsUnmetHold : ∃ (i : Instr) (iss : Issue) (c : Ctx → Prop) (s : State) (x : Ctx) (act : List Nat),
    HoldRow i iss c ∧ s.Issues iss x act ∧ c x :=
  ⟨_, _, _, plain, _, both, .of (fun _ h => by cases h) (.barw x0), issues (by decide +kernel), by decide +kernel⟩

theorem witness_SoftwareTrapsAreTaken : ∃ (i : Instr) (iss : Issue) (c : Ctx → Prop) (tr : Trap) (s : State) (x : Ctx)
    (act : List Nat), TrapRow i iss c tr ∧ s.Issues iss x act ∧ c x :=
  ⟨_, _, _, _, worldT [] [] [], _, both, .trap (i0 7), issues (by decide +kernel), room_free (by decide +kernel) _⟩

theorem witness_UniformResultsDeliver : ∃ (i : Instr) (r : Row) (c : Ctx → Prop) (s : State) (x : Ctx) (act : List Nat),
    UniformRow i r c ∧ s.Issues r.issue x act ∧ r.Fits x act ∧ c x :=
  ⟨_, _, _, plain, _, both, .bart x0, issues (by decide +kernel), room_free (by decide +kernel) _, by decide +kernel⟩

theorem witness_ThreadsLeaveAndJoin_exit : ∃ (f : RForm) (s : State) (x : Ctx) (act : List Nat),
    s.Issues { g := f.g, uniform := true } x act :=
  ⟨r0, plain, _, both, issues (by decide +kernel)⟩

/-- All the others are held at a later RCV; and one is not. -/
theorem witness_ThreadsLeaveAndJoin_pass : ∃ (s : State) (x : Ctx) (act : List Nat),
    s.Issues { g := .always, uniform := true } x act
      ∧ ∀ a, a < 32 → a ∉ x.run → (x.thread a).life = .eligible → (x.thread a).tier = 2 ∧ x.pc.toNat < (x.thread a).pc.toNat :=
  ⟨worldW fun w => { w with threads := w.threads.map fun t => if t.pc = 20 then { t with tier := 2, pc := 2 } else t }, _, both,
    issues (by decide +kernel), by decide +kernel⟩

theorem witness_ThreadsLeaveAndJoin_wait : ∃ (s : State) (x : Ctx) (act : List Nat),
    s.Issues { g := .always, uniform := true } x act
      ∧ ∃ a, a < 32 ∧ a ∉ x.run ∧ (x.thread a).life = .eligible ∧ ¬ ((x.thread a).tier = 2 ∧ x.pc.toNat < (x.thread a).pc.toNat) :=
  ⟨plain, _, both, issues (by decide +kernel), 2, by decide +kernel⟩

/-- Both threads have taken a trap at word 3 of the clause at word 0, whose header has sixteen words. -/
def trapped : State :=
  { worldW fun w => { w with threads := w.threads.map fun t => if t.pc = 1 then { t with rcd := trapRecord 13 16 0 0 7 } else t } with
    mem := memWrites [] (cellsAt 0 (bytesLE 8 0xA0FF_FFFF_FFC0_0000)) }

theorem witness_TrapRecordsServe_tret : ∃ (f : RForm) (s : State) (x : Ctx) (act : List Nat),
    s.Issues { g := f.g, uniform := true } x act ∧ (∀ a ∈ act, Resumes x a) ∧ x.room (x.rcdKeys act) = true :=
  ⟨r0, trapped, _, both, issues (by decide +kernel), by
    intro a ha
    have h : a = 0 ∨ a = 1 := by simpa [both] using ha
    rcases h with rfl | rfl
    · exact ⟨by decide +kernel, by decide +kernel, 0xA0FF_FFFF_FFC0_0000, by decide +kernel, by decide +kernel, by decide +kernel,
        by decide +kernel⟩
    · exact ⟨by decide +kernel, by decide +kernel, 0xA0FF_FFFF_FFC0_0000, by decide +kernel, by decide +kernel, by decide +kernel,
        by decide +kernel⟩, room_free (by decide +kernel) _⟩

theorem witness_TrapRecordsServe_swr : ∃ (f : RForm) (s : State) (x : Ctx) (act : List Nat),
    s.Issues { g := f.g, uniform := true, reads := regsOf f.a true true } x act
      ∧ x.room (x.run.map fun t => LogKey.rcd x.w.team x.w.wid (t / 2)) = true :=
  ⟨{ r0 with d := 15, a := 2, ak := true }, trapped, _, both, issues (by decide +kernel), room_free (by decide +kernel) _⟩

theorem witness_TrapsAreTaken : ∃ (tr : Trap) (h k : Thread) (q u : Team), tr.code < 256 ∧ h.hnd = false ∧ k.hnd = true
    ∧ q.tve = true ∧ u.tve = false :=
  ⟨⟨13, 0, 7⟩, {}, { rcd := trapRecord 13 1 0 0 7 }, { oid := 1, desc := desc0 true }, { oid := 1, desc := desc0 false },
    by decide +kernel⟩

/-- With a vector and no trap taken yet the team stays; without one it faults. -/
theorem witness_TrapsAreTaken_exec : ∃ (f : IForm) (s s' : State) (x x' : Ctx) (act : List Nat),
    s.Issues { g := f.g, uniform := true } x act ∧ s'.Issues { g := f.g, uniform := true } x' act ∧ x.team.leave = none
      ∧ x'.team.leave = none ∧ (x.team.tve = true ∧ ∀ a ∈ act, (x.thread a).hnd = false) ∧ x'.team.tve = false
      ∧ x.room (x.rcdKeys act) = true ∧ x'.room (x'.rcdKeys act) = true :=
  ⟨i0 7, worldT [] [] [], plain, _, _, both, issues (by decide +kernel), issues (by decide +kernel), by decide +kernel,
    by decide +kernel, by decide +kernel, by decide +kernel, room_free (by decide +kernel) _, room_free (by decide +kernel) _⟩

theorem witness_FunnelsShift : ∃ (f : RForm) (s : State) (x : Ctx) (act : List Nat), (Instr.fsh f).WellFormed
    ∧ s.Issues (issueOfR Spec.fsh f 1) x act ∧ (rowR Spec.fsh f 1 (fshRes (hasBit f.sub 0))).Fits x act :=
  ⟨{ rr 3 0 1 5 with c := 2 }, world [0x12345678, 0x9ABCDEF0, 8] [] [], _, both, by decide, issues (by decide +kernel),
    room_free (by decide +kernel) _⟩

/-- The form with s registers. -/
theorem witness_FunnelsShift_uniform : ∃ (f : RForm) (s : State) (x : Ctx) (act : List Nat), (Instr.fsh f).WellFormed
    ∧ f.dk = true ∧ s.Issues (issueOfR Spec.fsh f 1) x act ∧ (rowR Spec.fsh f 1 (fshRes (hasBit f.sub 0))).Fits x act :=
  ⟨{ rs 3 0 1 5 with c := 2, ck := true, sub := 1 }, world [] [] [0x12345678, 0x9ABCDEF0, 8], _, both, by decide, rfl,
    issues (by decide +kernel), room_free (by decide +kernel) _⟩

/-- A type, for the clauses on shifts and on rounding a value of its own format; IADDC; and a finite value. -/
theorem witness_ValuesDeliver : ∃ (ty : BitVec 4) (q : Fmt) (x m : Nat) (neg : Bool) (e : Int), ty.toNat ∈ tyInts ∧ tyWidth ty < 64
    ∧ q ∈ [f32, f16, bf16, e4m3, e5m2] ∧ x < 2 ^ q.width ∧ q.decode x = .num neg m e :=
  ⟨0, e4m3, 0x7E, 14, false, 5, by decide +kernel⟩

theorem witness_ValuesDeliver_iaddc : ∃ (f : RForm) (s : State) (x : Ctx) (act : List Nat), (Instr.iaddc f).WellFormed
    ∧ s.Issues (issueOfR Spec.iaddc f 1) x act
    ∧ (rowR Spec.iaddc f 1 (addcRes (hasBit f.sub 0) (f.c.toNat % 32))).Fits x act :=
  ⟨{ rr 2 0 1 5 with c := 31, ps := 3 }, world [0xFFFFFFFF, 1] [] [], _, both, by decide, issues (by decide +kernel),
    room_free (by decide +kernel) _⟩

theorem witness_BarriersCount : ∃ (f : XForm) (s : State) (x : Ctx) (act : List Nat), s.Issues { g := f.g, uniform := true } x act
    ∧ x.wave.acquiring = false ∧ x.spadOpen = false ∧ x.relWaits false = false :=
  ⟨x0, plain, _, both, issues (by decide +kernel), by decide +kernel⟩

/-- A barrier that an arrival completes, and one whose bytes are still pending. -/
theorem witness_BarriersCount_phase : ∃ (a b : Bar) (n : Nat),
    (a.e ≤ min (a.arr + 1) 31 ∧ (a.pend.toNat + n) % 2 ^ 48 = 0) ∧ ¬ (b.e ≤ min (b.arr + 1) 31 ∧ (b.pend.toNat + n) % 2 ^ 48 = 0) :=
  ⟨{ e := 31, arr := 30, pend := 0 }, { e := 1, pend := 1 }, 0, by decide⟩

/-! The matrix stream. -/

/-- The sequencer runs at word 8 with stream register 1 at `v`. -/
def stream (v : Word) : State :=
  { worldQ fun q => { q with seq := { m := [0, v] ++ List.replicate 14 0, spc := 8, run := true, recorder := some (0, 1), word := some 0 } }
    with focus := .seq core0 1 }

def handSeq (s : State) : SeqCtx := s.seqCtx.getD ⟨s, core0, { id := core0 }, { oid := 1 }⟩

theorem seq_hand {s : State} (h : s.seqCtx.isSome = true) : s.seqCtx = some (handSeq s) := by
  unfold handSeq
  cases hc : s.seqCtx with
  | none => rw [hc] at h; cases h
  | some x => rfl

/-- A loop that ends, one that goes on, and words that wait for the engine. -/
theorem witness_SequencerWordsGo : ∃ (i : Instr) (c : SeqCtx → Prop) (f : SeqCtx → Team) (ev : SeqCtx → List (Nat × Due)) (s : State)
    (x : SeqCtx), SeqRow i c f ev ∧ s.seqCtx = some x ∧ c x :=
  ⟨_, _, _, _, stream 1, _, .mloopOff (ms0 1 0 4), seq_hand (by decide +kernel), by decide +kernel⟩

theorem witness_SequencerWordsGo_on : ∃ (i : Instr) (c : SeqCtx → Prop) (f : SeqCtx → Team) (ev : SeqCtx → List (Nat × Due))
    (s : State) (x : SeqCtx), SeqRow i c f ev ∧ s.seqCtx = some x ∧ c x :=
  ⟨_, _, _, _, stream 2, _, .mloopOn (ms0 1 0 4), seq_hand (by decide +kernel), by decide +kernel⟩

theorem witness_SequencerWordsGo_end : ∃ (i : Instr) (c : SeqCtx → Prop) (f : SeqCtx → Team) (ev : SeqCtx → List (Nat × Due))
    (s : State) (x : SeqCtx), SeqRow i c f ev ∧ s.seqCtx = some x ∧ c x :=
  ⟨_, _, _, _, stream 0, _, .mend (ms0 0 0 0), seq_hand (by decide +kernel), by decide +kernel⟩

theorem witness_BarriersCount_stream : ∃ (s : State) (x : SeqCtx), s.seqCtx = some x ∧ x.team.seq.busy = false :=
  ⟨stream 1, _, seq_hand (by decide +kernel), by decide +kernel⟩

theorem core_room_free {k : Core} (h : k.cur.isNone = true) (ks : List LogKey) : k.room ks = true := by
  unfold Core.room Core.roomFor
  rw [Option.isNone_iff_eq_none.1 h]

/-- A word before the engine, which is free, and which another team's word holds. -/
theorem witness_EngineWordsGo : ∃ (i : Instr) (aux : Word) (acc : BitVec 3) (rd out : SeqCtx → List Range) (tile : Bool)
    (f : SeqCtx → Team) (n : Nat) (s u : State) (x y : SeqCtx), EngineRow i aux acc rd out tile f n ∧ s.seqCtx = some x
      ∧ acc.toNat < x.team.acc ∧ (∀ r ∈ rd x ++ out x, r.1 % 16 = 0 ∧ r.1 + r.2 ≤ x.team.sz)
      ∧ x.core.engineHeld x.team.oid = false ∧ u.seqCtx = some y ∧ acc.toNat < y.team.acc
      ∧ (∀ r ∈ rd y ++ out y, r.1 % 16 = 0 ∧ r.1 + r.2 ≤ y.team.sz) ∧ y.core.engineHeld y.team.oid = true :=
  ⟨_, _, _, _, _, _, _, _, stream 0,
    { stream 0 with cores := (stream 0).cores.map fun k => { k with teams := k.teams ++ k.teams.map fun q =>
        { q with oid := 2, seq := { q.seq with engine := some (.mzero (ms0 0 7 0), []) } } } }, _, _,
    .mload { ms0 1 7 0 with fmta := 9 }, seq_hand (by decide +kernel), by decide +kernel, by decide +kernel, by decide +kernel,
    seq_hand (by decide +kernel), by decide +kernel, by decide +kernel, by decide +kernel⟩

/-- A word in the engine, at its last cycle: with room in the undo log, without, and in a rollback. -/
def inside (f : Core → Core) : State :=
  { stream 0 with cores := (stream 0).cores.map fun k => f { k with teams := k.teams.map fun q =>
      { q with seq := { q.seq with engine := some (.mzero (ms0 0 7 0), q.seq.m) } } } }

/-- A heat whose undo log is all but full. -/
def full : Heat := { num := 3, opened := 100, k := 256, closed := some 300, log := List.replicate 3000 (LogKey.l1 0) }

theorem witness_EngineWordsGo_end : ∃ (i : Instr) (aux : Word) (acc : BitVec 3) (rd out : SeqCtx → List Range) (tile : Bool)
    (f : SeqCtx → Team) (n : Nat) (s u v : State) (q : Team) (m : List Word), EngineRow i aux acc rd out tile f n
      ∧ (s.core core0).team 1 = some q ∧ q.seq.engine = some (i, m) ∧ q.seq.seen = q.sp ∧ (s.core core0).rollback = none
      ∧ (s.core core0).room (engineLines (inEngine s core0 q m) acc (out (inEngine s core0 q m)) tile) = true
      ∧ (u.core core0).team 1 = some q ∧ (u.core core0).rollback = none
      ∧ (u.core core0).room (engineLines (inEngine u core0 q m) acc (out (inEngine u core0 q m)) tile) = false
      ∧ (v.core core0).team 1 = some q ∧ (v.core core0).rollback.isSome = true := by
  refine ⟨_, _, _, _, _, _, _, _, inside id, inside fun k => { k with cur := some { num := 4, opened := 300, k := 256 }, old := some full },
    inside fun k => { k with rollback := some 9 }, (((inside id).core core0).team 1).getD { oid := 0 },
    (((inside id).core core0).team 1).elim [] (·.seq.m), .mzero (ms0 0 7 0), by decide +kernel, by decide +kernel,
    by decide +kernel, by decide +kernel, core_room_free (by decide +kernel) _, by decide +kernel, by decide +kernel, ?_, by decide +kernel, by decide +kernel⟩
  decide +kernel

/-- A word outside the scratchpad; and one that comes while the stream's earlier word is in the engine. -/
theorem witness_EngineWordFaults : ∃ (i : Instr) (aux : Word) (acc : BitVec 3) (rd out : SeqCtx → List Range) (tile : Bool)
    (f : SeqCtx → Team) (n : Nat) (s : State) (x : SeqCtx) (w k : Nat) (v : Wave), EngineRow i aux acc rd out tile f n
      ∧ s.seqCtx = some x ∧ (x.team.acc ≤ acc.toNat ∨ ∃ r ∈ rd x ++ out x, r.1 % 16 ≠ 0 ∨ x.team.sz < r.1 + r.2)
      ∧ x.team.seq.recorder = some (w, k) ∧ x.team.wave w = some v ∧ k < 32 ∧ (v.thread k).life ≠ .exited
      ∧ x.team.seq.busy = false ∧ ∃ (u : State) (y : SeqCtx), u.seqCtx = some y ∧ y.team.seq.busy = true :=
  ⟨_, _, _, _, _, _, _, _, stream 8, _, 0, 1, waveOf 0 [] [] [], .mload { ms0 1 7 0 with fmta := 9 }, seq_hand (by decide +kernel),
    Or.inr (by decide +kernel), by decide +kernel, by decide +kernel, by decide +kernel, by decide +kernel, by decide +kernel,
    inside id, _, seq_hand (by decide +kernel), by decide +kernel⟩

/-! Memory. -/

/-- A linear record at virtual address 64: its extent, Z and ESZ. -/
def record (ext : Nat) (z : Bool) (esz : Nat) : BufRec :=
  BitVec.ofNat 128 (64 + (if z then 2 ^ 57 else 0) + ext * 2 ^ 64 + esz * 2 ^ 104)

/-- Each clause at the record's end: an address off by two, the last word in range, the first one out of it, a word half in
range, and a malformed record. -/
theorem witness_AccessChecks :
    (bufBase (record 8 false 2) + 2) % 4 ≠ 0 ∧ (bufBase (record 8 false 2) + 4) % 4 = 0
      ∧ (bufBad (record 8 false 2) = false ∧ ∀ k < 4, ChunkIn (record 8 false 2) 4 4 k)
      ∧ (bufZ (record 8 false 2) = false ∧ ∃ k < 4, ¬ ChunkIn (record 8 false 2) 8 4 k)
      ∧ (bufBad (record 8 true 2) = false ∧ bufZ (record 8 true 2) = true ∧ ∀ k < 4, ¬ ChunkIn (record 8 true 2) 8 4 k)
      ∧ (bufBad (record 6 true 0) = false ∧ bufZ (record 6 true 0) = true ∧ (∃ k < 4, ChunkIn (record 6 true 0) 4 4 k)
        ∧ ∃ k < 4, ¬ ChunkIn (record 6 true 0) 4 4 k)
      ∧ bufBad (record 8 true 5) = true := by
  unfold ChunkIn
  decide +kernel

/-- The wave with a record in b1. -/
def recorded (b : BufRec) (v : Word) : State :=
  worldW (fun w => { w with b := [0, b] ++ List.replicate 14 0, threads := w.threads.map fun t => { t with v := [0, v] ++ List.replicate 62 0 } })
    [64, 0, 128, 0, 2, 48, 64, 1]

theorem witness_MemoryAccessesIssue : ∃ (i : Instr) (a : Access) (s : State) (x : Ctx) (act : List Nat), AccessRow i a
    ∧ s.Issues a.issue x act ∧ free x a.cls ∧ Commit (a.fates x act).2 ∧ a.ready (a.fates x act).1 (a.fates x act).2 :=
  ⟨_, _, recorded (record 8 false 2) 4, _, both, .ldb m0, issues (by decide +kernel), by unfold free; decide +kernel,
    by unfold Commit; decide +kernel, by decide +kernel⟩

theorem witness_MemoryAccessesIssue_store : ∃ (a : Access) (s : State) (x : Ctx) (act : List Nat), AccessRow (.stb m0) a
    ∧ s.Issues a.issue x act ∧ free x a.cls ∧ Commit (a.fates x act).2 ∧ a.ready (a.fates x act).1 (a.fates x act).2 :=
  ⟨_, recorded (record 8 false 2) 4, _, both, .stb m0, issues (by decide +kernel), by unfold free; decide +kernel,
    by unfold Commit; decide +kernel, by decide +kernel⟩

theorem witness_MemoryAccessesIssue_atomic : ∃ (a : Access) (s : State) (x : Ctx) (act : List Nat),
    AccessRow (.atb { m0 with scope := 5 }) a ∧ s.Issues a.issue x act ∧ free x a.cls ∧ Commit (a.fates x act).2
      ∧ a.ready (a.fates x act).1 (a.fates x act).2 :=
  ⟨_, recorded (record 8 false 2) 4, _, both, .atb _, issues (by decide +kernel), by unfold free; decide +kernel,
    by unfold Commit; decide +kernel, by unfold atomAccess atomReady; decide +kernel⟩

def stbA : Access :=
  { issue := accIssue m0 (m0.ak && m0.dk) (dRegs m0 (bytesOf m0)) [], cls := .st, need := 2, buf := m0.buf, off := offsetOf m0
    check := fun b o => checkAcc b m0.buf.toNat o (bytesOf m0) false
    ready := fun _ _ => True, effect := fun _ _ => counted .st }

theorem witness_MemoryAccessesTrap : ∃ (i : Instr) (a : Access) (s : State) (x : Ctx) (act : List Nat), AccessRow i a
    ∧ s.Issues a.issue x act ∧ free x a.cls ∧ Refused (a.fates x act).2 ∧ a.ready (a.fates x act).1 (a.fates x act).2
    ∧ x.room (x.rcdKeys act) = true :=
  ⟨_, _, recorded (record 8 false 2) 8, _, both, .stb m0, issues (by decide +kernel), by unfold free; decide +kernel, by
    intro q hq
    have h : (((stbA).fates (hand (recorded (record 8 false 2) 8)) both).2.all fun q => match q.2 with | .trap _ => true | _ => false)
      = true := by decide +kernel
    have := List.all_eq_true.1 h q hq
    revert this
    cases q.2 <;> simp, by decide +kernel, room_free (by decide +kernel) _⟩

theorem witness_HintsAndRecordFences_pref : ∃ (f : MForm) (s : State) (x : Ctx) (act : List Nat),
    s.Issues (accIssue f f.ak [] []) x act :=
  ⟨m0, recorded (record 8 false 2) 4, _, both, issues (by decide +kernel)⟩

theorem witness_HintsAndRecordFences_rfence : ∃ (f : XForm) (s : State) (x : Ctx) (act : List Nat),
    s.Issues { g := f.g, uniform := true, reads := if f.mod.getLsbD 0 then regsOf f.a true true else [] } x act :=
  ⟨{ x0 with bv := false, mod := 1 }, plain, _, both, issues (by decide +kernel)⟩

/-- The last word of the scratchpad. -/
theorem witness_ScratchpadAccessesIssue : ∃ (i : Instr) (f : MForm) (cls : OpClass) (reads writes : List Reg)
    (b : Ctx → Nat → BankAct) (s : State) (x : Ctx) (act : List Nat), SpadRow i f cls reads writes b
      ∧ s.Issues (spadIssue f reads writes) x act ∧ free x cls
      ∧ (f.order.getLsbD 1 = true → x.readsOpen = false ∧ x.spadOpen = false) ∧ (reads ≠ [] → x.relWaits false = false)
      ∧ (∀ q ∈ spadReqs f x act b, ∀ n ∈ q.banksOf, x.core.bankFull n = false)
      ∧ ∀ t ∈ act, offsetOf f x t % (bytesOf f : Nat) = 0 ∧ 0 ≤ offsetOf f x t ∧ offsetOf f x t + bytesOf f ≤ x.team.sz :=
  ⟨_, _, _, _, _, _, recorded 0 4092, _, both, .sts { m0 with buf := 0 }, issues (by decide +kernel), by unfold free; decide +kernel,
    by decide +kernel, by decide +kernel, by decide +kernel, by decide +kernel⟩

/-! Copies. -/

/-- A legal record of 32-bit elements: one dimension of eight at virtual address 256, a window of four at scratchpad 0. -/
def shape0 : ShapeRec :=
  (4 : BitVec 768) ++ BitVec.ofNat 768 (8 + 2 ^ 4 + 256 * 2 ^ 64 + 8 * 2 ^ 192)

/-- What the copy needs is translated, in one computation. -/
def pinsAll (y : Ctx) (needs : List Need) : Bool :=
  let tr := (y.pages (needs.map fun n => vpnOf n.va).eraseDups).2
  needs.all fun n => match tr.lookup (vpnOf n.va) with | some (.found t) => t.missing n.rights == 0 && !t.gr | _ => false

theorem pinned {y : Ctx} {needs : List Need} (h : pinsAll y needs = true) :
    Pinned y needs (y.pages (needs.map fun n => vpnOf n.va).eraseDups).1
      ((y.pages (needs.map fun n => vpnOf n.va).eraseDups).2.filterMap fun q =>
        match q.2 with | .found t => some t | _ => none).eraseDups := by
  refine ⟨_, rfl, fun n hn => ?_, rfl⟩
  have := List.all_eq_true.1 h n hn
  revert this
  split
  · rename_i t ht
    intro hb
    simp only [Bool.and_eq_true, beq_iff_eq, Bool.not_eq_true'] at hb
    exact ⟨t, ht, hb.1, hb.2⟩
  · intro hb
    cases hb

/-- The record is cached for process 1 at virtual address 64. -/
def shaped : State := worldK (fun k => { k with rcache := [⟨1, 64, shape0, [], 0⟩] }) [64, 0, 128, 0, 2, 48, 64, 1]

theorem witness_RecordCopiesIssue : ∃ (i : Instr) (f : XForm) (out : Bool) (rights : BitVec 3) (extra : Win → List Nat)
    (reads : List Reg) (idxOf : Ctx → Option (List Word) → Prop) (s : State) (x y z : Ctx) (act : List Nat) (r : ShapeRec)
    (idx : Option (List Word)) (pins : List Tlb), RecordRow i f out rights extra reads idxOf
      ∧ s.Issues { g := f.g, uniform := true, reads := regsOf f.a true true ++ reads } x act ∧ CopyFree f x .cp out
      ∧ Undenied x act ∧ ((x.spair f.a).setWidth 57 : BitVec 57).toNat % 64 = 0
      ∧ RecordRead x ((x.spair f.a).setWidth 57) y r ∧ idxOf y idx
      ∧ countWaits y (adjust y f r) idx (extra (adjust y f r)) rights = []
      ∧ recordFault y (adjust y f r) idx (extra (adjust y f r)) rights = none
      ∧ Pinned y (winNeeds (adjust y f r) idx rights) z pins ∧ (out = true → z.holdRoom 1 = true) :=
  ⟨_, { x0 with tv := true, tag := 63 }, _, _, _, _, _, shaped, _, _, _, both, _, none, _, .tstore _, issues (by decide +kernel),
    by unfold CopyFree; decide +kernel, by unfold Undenied; decide +kernel, by decide +kernel,
    .cached ⟨1, 64, shape0, [], 0⟩ (by decide +kernel), rfl, by decide +kernel, by decide +kernel, pinned (by decide +kernel), by decide +kernel⟩

/-- b1 maps 64 bytes at virtual address 64; the copy moves 48 bytes to scratchpad 2 * 8. -/
theorem witness_BufferCopiesIssue : ∃ (i : Instr) (f : XForm) (cls : OpClass) (out : Bool) (reads : List Reg) (c : Ctx → Prop)
    (needs : Ctx → List Need) (mk : Ctx → Copy) (s : State) (x z : Ctx) (act : List Nat) (pins : List Tlb),
    BufferRow i f cls out reads c needs mk ∧ s.Issues { g := f.g, uniform := true, reads := reads } x act
      ∧ CopyFree f x cls out ∧ Undenied x act ∧ c x ∧ Pinned x (needs x) z pins ∧ (out = true → z.holdRoom 1 = true) :=
  ⟨_, { x0 with a := 1, b := 0, c := 5, mod := 1 }, _, _, _, _, _, _, recorded (record 64 false 2) 0, _, _, both, _, .bcopy _,
    issues (by decide +kernel), by unfold CopyFree; decide +kernel, by unfold Undenied; decide +kernel, by decide +kernel,
    pinned (by decide +kernel), by decide +kernel⟩

/-! Class 6. -/

/-- A KSEND without a grant, its message at scratchpad 64, and a KDROP, which has no operand there. -/
theorem witness_KernelRequestsIssue : ∃ (i : Instr) (f : KForm) (reads : List Reg) (pair : Bool) (ops : Ctx → List SpadArg)
    (pre : Ctx → List Nat → Ctx → Prop) (ask : Ctx → Ask) (s : State) (x y : Ctx) (act : List Nat),
    KernelRow i f reads pair ops pre ask ∧ s.Issues (kernelIssue f reads pair) x act ∧ KernelFree x ∧ (∀ a ∈ ops x, operandOk x a)
      ∧ pre x act y ∧ y.holdRoom 1 = true :=
  ⟨_, { k0 with b := 6 }, _, _, _, _, _, recorded 0 0, _, _, both, .ksend _ rfl, issues (by decide +kernel),
    by unfold KernelFree; decide +kernel, by unfold operandOk; decide +kernel, rfl, by decide +kernel⟩

/-- A message at scratchpad 2, which is misaligned. -/
theorem witness_KernelOperandsTrap : ∃ (i : Instr) (f : KForm) (reads : List Reg) (pair : Bool) (ops : Ctx → List SpadArg)
    (pre : Ctx → List Nat → Ctx → Prop) (ask : Ctx → Ask) (s : State) (x : Ctx) (act : List Nat) (a : SpadArg),
    KernelRow i f reads pair ops pre ask ∧ s.Issues (kernelIssue f reads pair) x act ∧ KernelFree x ∧ a ∈ ops x
      ∧ ¬ operandOk x a ∧ x.room (x.rcdKeys act) = true
      ∧ (a.addr % a.align = 0 → i = .ksend f → f.mod.getLsbD 0 = true → pairAligned f x) :=
  ⟨_, { k0 with b := 4 }, _, _, _, _, _, recorded 0 0, _, both, _, .ksend _ rfl, issues (by decide +kernel),
    by unfold KernelFree; decide +kernel, List.mem_singleton_self _, by unfold operandOk; decide +kernel, room_free (by decide +kernel) _,
    fun _ _ h => absurd h (by decide +kernel)⟩

/-- A grant's descriptor with a bit set that must be 0 or an unaligned page, its message anywhere. -/
theorem witness_KernelOperandsTrap_pair : ∃ (f : KForm) (s : State) (x : Ctx) (act : List Nat), f.mod.getLsbD 0 = true
    ∧ s.Issues (kernelIssue f ([.s f.a.toNat, .s f.b.toNat] ++ regsOf f.c true true) false) x act ∧ KernelFree x
    ∧ (x.sword f.b).toNat % 16 = 0 ∧ ¬ pairAligned f x ∧ x.room (x.rcdKeys act) = true :=
  ⟨{ k0 with b := 6, c := 2, mod := 1 }, recorded 0 0, _, both, rfl, issues (by decide +kernel), by unfold KernelFree; decide +kernel,
    by decide +kernel, by unfold pairAligned; decide +kernel, room_free (by decide +kernel) _⟩

end Sys2Proof.Tests
end

