-- ==== Sys2Proof/Tests/Events.lean ====
section
/-! SUPPORT. Witnesses: for each statement about streams, banks, copies, teams, faults, grants, messages and launches, concrete
states that meet its hypotheses, clause by clause. -/

namespace Sys2Proof.Tests

set_option Elab.async false

open Sys2Proof.Machine Sys2Proof.Claims

/-! Streams, banks and copies. -/

/-- The team of the test state, changed. -/
def team0 (f : Team → Team) : Team := f (teamOf false (waveOf 0 [] [] []))

/-- The engine is idle; a stream stands at word 8 and has no word; thread 1 has two MSTREAMs to take. -/
theorem witness_StreamsGoOn_complete : ∃ (s : State) (q : Team), (s.core core0).team 1 = some q ∧ q.seq.busy = false :=
  ⟨worldQ id, team0 id, by decide +kernel⟩

theorem witness_StreamsGoOn_fetch : ∃ (s : State) (q : Team) (w : DWord), (s.core core0).team 1 = some q ∧ q.seq.run = true
    ∧ q.seq.word = none ∧ q.seq.stall = none ∧ q.leave = none
    ∧ WordAt ⟨s, ⟨core0, 1, 0⟩, s.core core0, q, { wid := 0 }, [], 0, 0⟩ q.seq.spc w (.event (.streamFetch core0 1)) := by
  refine ⟨{ worldQ fun q => { q with seq := { spc := 8, run := true } } with mem := memWrites [] (cellsAt 64 (bytesLE 8 0x0DF8000000000000)) },
    team0 fun q => { q with seq := { spc := 8, run := true } }, 0x0DF8000000000000, ?_⟩
  unfold WordAt
  decide +kernel

theorem witness_StreamsGoOn_trap : ∃ (s : State) (q : Team) (v : Wave), (s.core core0).team 1 = some q
    ∧ (q.waves.find? fun w => !w.mtrapped.isEmpty) = some v ∧ q.wave v.wid = some v
    ∧ 1 ∈ v.eligibles ∧ (v.thread 1).mtraps = [(64, 0), (72, 5)]
    ∧ (⟨s, ⟨core0, 1, v.wid⟩, s.core core0, q, v, v.members, 0, 0⟩ : Ctx).room
        ((⟨s, ⟨core0, 1, v.wid⟩, s.core core0, q, v, v.members, 0, 0⟩ : Ctx).rcdKeys v.mtrapped) = true :=
  let two := fun t : Thread => { t with mtraps := [(64, 0), (72, 5)] }
  let v := (waveOf 0 [] [] []).modThread 1 two
  ⟨worldW fun w => w.modThread 1 two, { teamOf false (waveOf 0 [] [] []) with waves := [v] }, v,
    by decide +kernel, by decide +kernel, by decide +kernel, by decide +kernel, by decide +kernel, room_free (by decide +kernel) _⟩

/-- A store of four bytes at scratchpad 64 waits at bank 16. -/
def bankReq : BankReq := { wid := 0, op := 9, tid := 0, addr := 64, bytes := 4, act := .write [1, 2, 3, 4] }

theorem witness_BanksAndCopiesComplete_serve : ∃ (s : State) (q : Team) (r : BankReq) (bank : Nat),
    (s.core core0).rollback = none ∧ (s.core core0).teams = [q]
    ∧ bankHead bank s.cycle (((s.core core0).bankAt.filter (·.2 == s.cycle)).map (·.1)) (s.core core0).bankReqs = some (q.oid, r)
    ∧ (s.core core0).room (if r.writes then spadKeys q.oid r.addr r.bytes else []) = true :=
  ⟨{ worldQ (fun q => { q with banks := [bankReq] }) with cycle := 1 }, team0 fun q => { q with banks := [bankReq] }, bankReq,
    bankReq.banksOf.headD 0, by decide +kernel⟩

/-- A load's request, and its operation. -/
theorem witness_BanksAndCopiesComplete_load : ∃ (s : State) (q : Team) (r : BankReq) (bank : Nat) (v : Wave) (o : Op),
    (s.core core0).rollback = none ∧ (s.core core0).teams = [q]
    ∧ bankHead bank s.cycle (((s.core core0).bankAt.filter (·.2 == s.cycle)).map (·.1)) (s.core core0).bankReqs = some (q.oid, r)
    ∧ q.wave r.wid = some v ∧ o ∈ v.ops ∧ o.id = r.op ∧ o.cls = .ld ∧ o.done = false :=
  let r : BankReq := { bankReq with act := .read [.v 3] false }
  let f : Team → Team := fun q => { q with banks := [r], waves := q.waves.map fun w => { w with ops := [{ id := 9, cls := .ld, left := 1 }] } }
  ⟨{ worldQ f with cycle := 1 }, team0 f, r, r.banksOf.headD 0, { waveOf 0 [] [] [] with ops := [{ id := 9, cls := .ld, left := 1 }] },
    { id := 9, cls := .ld, left := 1 }, by decide +kernel⟩

/-- A TSTORE of 8 elements from scratchpad 128, and a DCOPY whose flag at address 64 is due. -/
def copyOut : Copy :=
  { id := 5, wid := 0, op := 9, ins := .tstore { x0 with tv := true, tag := 63 }, rcd := shape0, spa := 128, wst := [0]
    pins := [{ proc := 1, vpn := 0, sz := 0, pfn := 0 }] }

def copying (y : Copy) : State := worldQ fun q => { q with copies := [y] }

theorem witness_BanksAndCopiesComplete_land : ∃ (s : State) (q : Team) (y : Copy), (s.core core0).team q.oid = some q
    ∧ q.copies.find? (·.id == y.id) = some y ∧ (s.core core0).rollback = none ∧ y.gate = false ∧ y.stage = 0 ∧ y.flag = none
    ∧ (∀ a ∈ (s.moves (s.physRead (some q.part)) (s.core core0) q y).touched,
      s.accessWaits (.event (.copyLand core0 q.oid y.id)) a = false)
    ∧ y.inbound = false ∧ (s.core core0).l1Over (s.moves (s.physRead (some q.part)) (s.core core0) q y).touched = false
    ∧ (s.core core0).roomFor (y.lines q.oid) 1 = true :=
  ⟨copying copyOut, team0 fun q => { q with copies := [copyOut] }, copyOut, by decide +kernel⟩

/-- A TCOPY of 8 elements to scratchpad 128, and a DCOPY with a flag. -/
theorem witness_BanksAndCopiesComplete_stage0 : ∀ i ∈ ([.tcopy { x0 with tv := true, tag := 63 }, .dcopy { x0 with mod := 1 }] : List Instr),
    ∃ (s : State) (q : Team) (y : Copy), (s.core core0).team q.oid = some q
    ∧ q.copies.find? (·.id == y.id) = some y ∧ y.ins = i ∧ (s.core core0).rollback = none ∧ y.gate = false ∧ y.stage = 0
    ∧ (∀ a ∈ (s.moves (s.physRead (some q.part)) (s.core core0) q y).touched,
      s.accessWaits (.event (.copyLand core0 q.oid y.id)) a = false)
    ∧ (y.inbound = true → ∀ a ∈ (s.moves (s.physRead (some q.part)) (s.core core0) q y).touched, (s.core core0).atomicHeld a 1 = false)
    ∧ (y.inbound = false → (s.core core0).l1Over (s.moves (s.physRead (some q.part)) (s.core core0) q y).touched = false)
    ∧ (s.core core0).roomFor (y.lines q.oid) (if y.inbound then 0 else 1) = true
    ∧ (y.flag.isSome = true ↔ i = .dcopy { x0 with mod := 1 }) := by
  intro i h
  simp only [List.mem_cons, List.not_mem_nil, or_false] at h
  rcases h with rfl | rfl
  · let y : Copy := { copyOut with ins := .tcopy { x0 with tv := true, tag := 63 } }
    exact ⟨copying y, team0 fun q => { q with copies := [y] }, y, by decide +kernel⟩
  · let y : Copy := { copyOut with ins := .dcopy { x0 with mod := 1 }, buf := record 8 false 2, fbuf := record 8 false 2, len := 16 }
    exact ⟨copying y, team0 fun q => { q with copies := [y] }, y, by decide +kernel⟩

/-- The flag of the DCOPY has been added to. -/
theorem witness_BanksAndCopiesComplete_stage2 : ∃ (s : State) (q : Team) (y : Copy), (s.core core0).team q.oid = some q
    ∧ q.copies.find? (·.id == y.id) = some y ∧ (s.core core0).rollback = none ∧ y.gate = false ∧ y.stage = 2
    ∧ (s.core core0).roomFor [] 1 = true :=
  let y : Copy := { copyOut with ins := .dcopy { x0 with mod := 1 }, fbuf := record 8 false 2, stage := 2 }
  ⟨copying y, team0 fun q => { q with copies := [y] }, y, by decide +kernel⟩

/-- The copy moves something. -/
theorem copyOut_moves : ((copying copyOut).moves ((copying copyOut).physRead (some 0)) ((copying copyOut).core core0) (team0 fun q => { q with copies := [copyOut] }) copyOut).mem
    ≠ [] := by decide +kernel

def copyFlag : Copy := { copyOut with ins := .dcopy { x0 with mod := 1 }, fbuf := record 8 false 2, stage := 1 }

theorem witness_BanksAndCopiesComplete_flag : ∃ (s : State) (q : Team) (y : Copy) (va : BitVec 57) (a : Nat),
    (s.core core0).team q.oid = some q ∧ q.copies.find? (·.id == y.id) = some y ∧ y.stage = 1 ∧ y.flag = some va
    ∧ s.pinKey q.proc y va = some a ∧ (∀ k < 4, s.accessWaits (.event (.dcopyFlagAdd core0 q.oid y.id)) (a + k) = false)
    ∧ (s.core core0).l1Over ((List.range 4).map (a + ·)) = false :=
  ⟨copying copyFlag, team0 fun q => { q with copies := [copyFlag] }, copyFlag, 64, 64, by decide +kernel⟩

/-! Teams. -/

/-- A team, saved, waits in the queue of the empty core's cluster; or it is on its way to the landing slot that is core 0. -/
def saved (moving : Bool) : Image := { team := { teamOf false (waveOf 0 [] [] []) with oid := 2 }, die := 0, moving := moving }

def queueing (skips : Nat) : State :=
  { world [] [] [] with
    cores := [{ id := core0 }], images := [saved false], mgmt := [(pcluReg 0 0, 1)], runq := [⟨0, 0, 2, 3, skips⟩], objs := [(2, mkObj [(0, 4, 2), (4, 4, 1)])] }

theorem witness_TeamsAreSeated_admit : ∃ (s u : State) (e : QEnt) (i : Image) (p : Team), s.runq.find? (·.oid == 2) = some e
    ∧ e.oid = 2 ∧ e.die = 0 ∧ e.cluster = 0 ∧ s.image 2 = some i ∧ s.gridOf i.team.grid = none ∧ objKind (s.obj 2) = kTEAM
    ∧ s.admits core0 e = some p ∧ NothingToFeed s
    ∧ (s.core core0).team 2 = none ∧ p.oid = 2
    ∧ u.runq.find? (·.oid == 2) = some e ∧ u.image 2 = some i ∧ u.gridOf i.team.grid = none ∧ objKind (u.obj 2) = kTEAM
    ∧ u.admits core0 e = none :=
  ⟨queueing 0, { queueing 0 with dies := [{ die := 0, st := 1 }] }, ⟨0, 0, 2, 3, 0⟩, saved false,
    ((queueing 0).admits core0 ⟨0, 0, 2, 3, 0⟩).getD { oid := 0 }, by unfold NothingToFeed; decide +kernel⟩

theorem witness_TeamsAreSeated_arrive : ∃ (s : State) (i : Image) (l : Landing), s.image 2 = some i ∧ i.moving = true
    ∧ i.team.fresh = false ∧ s.landings.find? (·.team == 2) = some l ∧ s.lands l.die l.cluster = true
    ∧ (s.clusters i.team.part l.die).contains l.cluster = true ∧ s.gridOf i.team.grid = none
    ∧ (s.core ⟨l.die, l.cluster, l.slot⟩).withdrawn = false
    ∧ (s.core ⟨l.die, l.cluster, l.slot⟩).rollback = none ∧ (s.core ⟨l.die, l.cluster, l.slot⟩).team 2 = none :=
  ⟨{ queueing 0 with images := [saved true], landings := [⟨0, 0, 1, 2⟩] }, saved true, ⟨0, 0, 1, 2⟩,
    by decide +kernel⟩

/-- A persistent launch of two teams, of which team 3 stands saved. -/
def pers0 : Grid := { id := 4, part := 0, proc := 1, started := true, pers := true, x := 2, y := 1, total := 2, desc := desc0 false, descVa := 64, pbase := 0 }

/-- The landing slot's die is memory-only; its cluster is no longer the partition's; and another team of the persistent launch is out. -/
theorem witness_TeamsAreSeated_out : ∃ (s u v : State) (i j : Image) (l : Landing), s.image 2 = some i ∧ i.moving = true
    ∧ s.landings.find? (·.team == 2) = some l ∧ s.lands l.die l.cluster = false
    ∧ v.image 2 = some i ∧ v.landings.find? (·.team == 2) = some l ∧ (v.clusters i.team.part l.die).contains l.cluster = false
    ∧ u.image 2 = some j ∧ j.moving = true ∧ u.landings.find? (·.team == 2) = some l
    ∧ u.gridOf j.team.grid = some pers0 ∧ pers0.pers = true ∧ u.gridOut j.team.grid = true :=
  let i := saved true
  let j := { i with team := { i.team with grid := 4 } }
  let s : State := { queueing 0 with images := [i], landings := [⟨0, 0, 1, 2⟩] }
  ⟨{ s with dies := [{ die := 0, st := 1 }] }, { s with images := [j, { j with team := { j.team with oid := 3 }, moving := false }], grids := [pers0] }, { s with mgmt := [] }, i, j, ⟨0, 0, 1, 2⟩,
    by decide +kernel⟩

/-- The team is leaving, with the heat open and the earlier one set, or not. -/
def leaving (lv : Leave) (old : Option Heat) : State :=
  worldK fun k => { k with cur := some heat0, old := old, hmax := some 4, teams := k.teams.map fun q => { q with leave := some lv } }

/-- What every row of TEAM_RETIRE, SWAP_OUT and MIGR_SHIP asks. -/
theorem witness_TeamsLeave : ∀ lv ∈ ([.retire, .swap .stay, .fault 13, .migrate] : List Leave),
    ∃ (i : Instr) (kind : HeldKind) (ok : Core → Team → Prop) (q : Team), LeaveRow i core0 1 kind ok
    ∧ ((leaving lv none).core core0).team 1 = some q ∧ ok ((leaving lv none).core core0) q
    ∧ ((leaving lv none).core core0).rollback = none
    ∧ (∀ e ∈ ((leaving lv none).core core0).held, e.ref.team ≠ 1 ∧ e.kind ≠ kind) ∧ ((leaving lv none).core core0).holdRoom = true
    ∧ ((leaving lv none).core core0).cur = some heat0 ∧ ((leaving lv none).core core0).old = none := by
  intro lv h
  simp only [List.mem_cons, List.not_mem_nil, or_false] at h
  rcases h with rfl | rfl | rfl | rfl
  · exact ⟨_, _, _, team0 fun q => { q with leave := some .retire }, .retire core0 1, by decide +kernel⟩
  · exact ⟨_, _, _, team0 fun q => { q with leave := some (.swap .stay) }, .swap core0 1 .stay, by decide +kernel⟩
  · exact ⟨_, _, _, team0 fun q => { q with leave := some (.fault 13) }, .fault core0 1 13, by decide +kernel⟩
  · exact ⟨_, _, _, team0 fun q => { q with leave := some .migrate }, .ship core0 1, by decide +kernel⟩

theorem witness_TeamsLeave_old : ((leaving .retire (some { heat0 with num := 3, closed := some 90 })).core core0).old.isSome = true
    ∧ ((leaving .retire (some { heat0 with num := 3, closed := some 90 })).core core0).cur = some heat0 := by decide +kernel

/-- The shipment is in the buffer, of the open heat, and of an earlier one. -/
theorem witness_TeamsLeave_shipped : ∀ n ∈ ([4, 3] : List (BitVec 32)), ∃ (s : State) (q : Team) (e : Held), (s.core core0).team 1 = some q
    ∧ q.leave = some .migrate ∧ (s.core core0).rollback = none ∧ (s.core core0).held.find? (·.kind == .ship 1) = some e
    ∧ (s.core core0).cur = some heat0 ∧ (s.core core0).old = none ∧ e.heat = n := by
  intro n h
  simp only [List.mem_cons, List.not_mem_nil, or_false] at h
  have w (n : BitVec 32) (hn : n = 4 ∨ n = 3) : ∃ (s : State) (q : Team) (e : Held), (s.core core0).team 1 = some q
      ∧ q.leave = some .migrate ∧ (s.core core0).rollback = none ∧ (s.core core0).held.find? (·.kind == .ship 1) = some e
      ∧ (s.core core0).cur = some heat0 ∧ (s.core core0).old = none ∧ e.heat = n := by
    refine ⟨worldK fun k => { k with cur := some heat0, hmax := some 4, held := [⟨n, ⟨1, 0, 0⟩, .ship 1, 1, false⟩]
                                     teams := k.teams.map fun q => { q with leave := some .migrate } },
      team0 fun q => { q with leave := some .migrate }, ⟨n, ⟨1, 0, 0⟩, .ship 1, 1, false⟩, ?_⟩
    rcases hn with rfl | rfl <;> decide +kernel
  exact w n h

/-- Blocked since the start of time; SWT is 20 microseconds: at its end, and one cycle before. -/
def blocked (now : Nat) : State :=
  { worldQ (fun q => { q with blocked := some 0 }) with cycle := now, runq := [⟨0, 0, 2, 3, 0⟩] }

theorem witness_TeamsLeave_blocked : ∃ (s u : State) (q : Team), (s.core core0).team 1 = some q ∧ q.leave = none
    ∧ q.blocked = some 0 ∧ bitsNat (s.mreg (partBlock q.part)) 0 10 ≠ 0
    ∧ 0 + micros (bitsNat (s.mreg (partBlock q.part)) 0 10) ≤ s.wall ∧ s.queued 0 0 ≠ []
    ∧ (u.core core0).team 1 = some q ∧ bitsNat (u.mreg (partBlock q.part)) 0 10 ≠ 0
    ∧ u.wall < 0 + micros (bitsNat (u.mreg (partBlock q.part)) 0 10) ∧ s.gridOf q.grid = none :=
  ⟨blocked (20 * (world [] [] []).mhz), blocked (20 * (world [] [] []).mhz - 1), team0 fun q => { q with blocked := some 0 },
    by decide +kernel⟩

/-- The blocked team is of a persistent launch, whose other team runs. -/
theorem witness_TeamsLeave_blockedWhole : ∃ (s : State) (q p : Team), (s.core core0).team 1 = some q ∧ q.leave = none
    ∧ q.blocked = some 0 ∧ bitsNat (s.mreg (partBlock q.part)) 0 10 ≠ 0
    ∧ 0 + micros (bitsNat (s.mreg (partBlock q.part)) 0 10) ≤ s.wall ∧ s.queued 0 0 ≠ []
    ∧ s.gridOf q.grid = some pers0 ∧ pers0.pers = true ∧ (s.cores.map (·.id)).Nodup ∧ (∀ k ∈ s.cores, (k.teams.map (·.oid)).Nodup)
    ∧ (s.core core0).team 2 = some p ∧ p.grid = q.grid ∧ p.leave = none :=
  let q := team0 fun q => { q with blocked := some 0, grid := 4 }
  let p := { q with oid := 2, blocked := none }
  ⟨{ worldK fun k => { k with teams := [q, p] } with
      cycle := 20 * (world [] [] []).mhz, runq := [⟨0, 0, 3, 3, 0⟩], grids := [pers0] }, q, p, by decide +kernel⟩

/-! MIGR, faults, grants and shootdowns. -/

/-- Both threads name virtual address 0, homed on die `d`; the team has `ws` waves, no tile and no sequencer, but what `g` gives it. -/
def migrating (d : Nat) (ws : List Wave) (f : State → State) (g : Team → Team := id) : State :=
  f (stateOf { coreOf (team0 fun q => g { q with
      desc := BitVec.ofNat 256 (ws.length + 64 * 2 ^ 16 + 0x20 * 2 ^ 32 + 4096 * 2 ^ 160), waves := q.waves ++ ws }) with
    tlb := [{ proc := 1, vpn := 0, sz := 0, pfn := BitVec.ofNat 40 (d * 2 ^ 24) }] })

/-- Die 1 is live, with clusters 2 and up in the partition. -/
def twoDies (s : State) : State := { s with dies := s.dies ++ [{ die := 1, st := 2 }], mgmt := [(pcluReg 0 1, 0xC)] }

def migr0 : RForm := { r0 with ak := true, a := 4 }

def migrIssue : Issue := { g := migr0.g, uniform := true, reads := regsOf migr0.a true true }

/-- Two waves; at home; away with no landing slot; and away with the first of cluster 2. -/
theorem witness_MigrMoves : ∃ (s1 s2 s3 s4 : State) (x1 x2 x3 x4 : Ctx) (act : List Nat) (e2 e3 : Tlb) (l : Landing),
    s1.Issues migrIssue x1 act ∧ s2.Issues migrIssue x2 act ∧ s3.Issues migrIssue x3 act ∧ s4.Issues migrIssue x4 act
    ∧ (s1.landings = [] ∧ s2.landings = [] ∧ s3.landings = [] ∧ s4.landings = []) ∧ x1.team.nw ≠ 1
    ∧ (x2.team.nw = 1 ∧ (∀ a ∈ act, (x2.thread a).deny = none) ∧ x2.core.tlb.find? (·.hits x2.team.proc 0) = some e2
      ∧ e2.refuses 1 = none ∧ (s2.keyUnder e2 0).bind homeDie = some x2.w.core.die ∧ (x2.spair migr0.a).setWidth 57 = (0 : BitVec 57))
    ∧ (x3.team.nw = 1 ∧ (∀ a ∈ act, (x3.thread a).deny = none) ∧ x3.core.tlb.find? (·.hits x3.team.proc 0) = some e3
      ∧ e3.refuses 1 = none ∧ (s3.keyUnder e3 0).bind homeDie = some 1 ∧ x3.w.core.die = 0 ∧ s3.freeLanding x3.team.part 1 = none)
    ∧ (x4.team.nw = 1 ∧ (∀ a ∈ act, (x4.thread a).deny = none) ∧ x4.core.tlb.find? (·.hits x4.team.proc 0) = some e3
      ∧ (s4.keyUnder e3 0).bind homeDie = some 1 ∧ x4.w.core.die = 0 ∧ s4.freeLanding x4.team.part 1 = some l ∧ l.cluster = 2
      ∧ x4.team.acc = 0 ∧ x4.team.mseq = false ∧ x4.team.sz ≤ 16384 ∧ s4.live 1 = true
      ∧ x4.wave.counter .ld = 0 ∧ x4.wave.counter .st = 0 ∧ x4.wave.counter .cp = 0
      ∧ x4.holdRoom 1 = true)
    ∧ x1.room (x1.rcdKeys act) = true ∧ x2.room (x2.rcdKeys act) = true ∧ x3.room (x3.rcdKeys act) = true
    ∧ x4.room (x4.rcdKeys act) = true :=
  ⟨migrating 0 [{ wid := 1 }] id, migrating 0 [] id, migrating 1 [] id, migrating 1 [] twoDies, _, _, _, _, both,
    { proc := 1, vpn := 0, sz := 0, pfn := 0 }, { proc := 1, vpn := 0, sz := 0, pfn := BitVec.ofNat 40 (2 ^ 24) }, ⟨1, 2, 0, 0⟩,
    issues (by decide +kernel), issues (by decide +kernel), issues (by decide +kernel), issues (by decide +kernel), by decide +kernel,
    by decide +kernel, by decide +kernel, by decide +kernel, by decide +kernel, room_free (by decide +kernel) _,
    room_free (by decide +kernel) _, room_free (by decide +kernel) _, room_free (by decide +kernel) _⟩

/-- What keeps a team of one wave from a die that has a landing slot: a tile; the sequencer; a scratchpad above 16,384 bytes; and that the
die is only memory. -/
theorem witness_MigrMoves_kept : ∃ (s1 s2 s3 s4 : State) (e : Tlb), (∀ s ∈ [s1, s2, s3, s4], s.landings = [] ∧ canIssue s migrIssue both = true
      ∧ (hand s).core.tlb.find? (·.hits (hand s).team.proc 0) = some e ∧ (s.keyUnder e 0).bind homeDie = some 1 ∧ (hand s).team.nw = 1
      ∧ (hand s).core.cur.isNone = true)
    ∧ ((hand s1).team.acc ≠ 0 ∧ s1.live 1 = true) ∧ ((hand s2).team.mseq = true ∧ (hand s2).team.acc = 0) ∧ 16384 < (hand s3).team.sz
    ∧ s4.live 1 = false ∧ (hand s4).team.sz ≤ 16384 :=
  ⟨migrating 1 [] twoDies fun q => { q with desc := q.desc ||| 64, tiles := [[]] }, migrating 1 [] twoDies fun q => { q with desc := q.desc ||| 1024 },
    migrating 1 [] twoDies fun q => { q with sz := 16400 }, migrating 1 [] fun s => { twoDies s with dies := [{ die := 0, st := 2 }, { die := 1, st := 1 }] },
    { proc := 1, vpn := 0, sz := 0, pfn := BitVec.ofNat 40 (2 ^ 24) }, by decide +kernel⟩

/-- The page is the host's: no die homes it. -/
theorem witness_MigrMoves_homeless : ∃ (s : State) (x : Ctx) (e : Tlb) (key : Nat), s.Issues migrIssue x both ∧ s.landings = []
    ∧ x.team.nw = 1 ∧ (∀ a ∈ both, (x.thread a).deny = none) ∧ x.core.tlb.find? (·.hits x.team.proc 0) = some e ∧ e.refuses 1 = none
    ∧ s.keyUnder e 0 = some key ∧ homeDie key = none ∧ x.room (x.rcdKeys both) = true :=
  ⟨migrating 0 [] fun s => { s with cores := s.cores.map fun k => { k with tlb := [{ proc := 1, vpn := 0, sz := 0, pfn := 0, host := true }] } }, _,
    { proc := 1, vpn := 0, sz := 0, pfn := 0, host := true }, hostBase, issues (by decide +kernel), by decide +kernel, by decide +kernel,
    by decide +kernel, by decide +kernel, by decide +kernel, by decide +kernel, by decide +kernel, room_free (by decide +kernel) _⟩

/-- Thread 5 waits for one page, thread 6 for two. -/
def parking : State :=
  worldW fun w => (w.modThread 5 fun t => { t with life := .parked, keys := [⟨7, false⟩] }).modThread 6 fun t =>
    { t with life := .parked, keys := [⟨7, false⟩, ⟨8, false⟩] }

theorem witness_FaultsAreAnswered_reply : ∃ (s : State) (q : Team) (v : Wave) (key : FaultKey), s.waveAt wave0 = some (q, v)
    ∧ s.coreOf wave0.team = some (s.core wave0.core) ∧ q.seq.stall ≠ some key ∧ (v.thread 5).life = .parked
    ∧ key ∈ (v.thread 5).keys ∧ (∀ k ∈ (v.thread 5).keys, k = key) ∧ (v.thread 6).life = .parked ∧ key ∈ (v.thread 6).keys
    ∧ (s.core wave0.core).faultQ = []
    ∧ Ctx.heatLoad (s.core wave0.core).cur + Ctx.heatLoad (s.core wave0.core).old < 3072 :=
  ⟨parking, _, _, ⟨7, false⟩, rfl, by decide +kernel⟩

/-- Process 1's radix tables map its page 0 to package page 1, with every right. -/
def mapped (f : State → State) : State :=
  f { worldK (fun k => { k with tlb := [] }) with
    mem := memWrites (memWrites [] (cellsAt 128 (bytesLE 8 0x1001))) (cellsAt 4096 (bytesLE 8 0x1003)), mgmt := [(pcluReg 0 0, 1)] }

theorem witness_FaultsAreAnswered_walk : ∃ (s : State) (q : Team) (e : Tlb),
    (s.core core0).teams.find? (·.proc == q.proc) = some q ∧ (∀ x ∈ (s.core core0).tlb, x.hits q.proc 0 = false)
    ∧ (∀ x ∈ s.l2, ¬ (x.1 = clusterOf core0 ∧ x.2.hits q.proc 0 = true)) ∧ s.walk q.part q.proc 0 (some (.wave ⟨core0, q.oid, 0⟩ 0)) = .found e ∧ e.pfn = 1 :=
  ⟨mapped id, team0 id, { proc := 1, vpn := 0, sz := 0, pfn := 1 }, by decide +kernel⟩

/-- The send of the test request grants page 0 of process 1, to read it; or page 1, which nothing maps. -/
def grant0 (va : BitVec 57) : Grant := { req := 7, port := some 5, part := 0, proc := 1, va := va, page := ⟨4096, 0, 1⟩ }

def granting (g : Grant) : State :=
  mapped fun s => { s with grants := [g], reqs := [sending (.pending 5)], objs := [(5, port5)] }

theorem witness_GrantsTakeTheirOrder_update : ∃ (s u : State) (g h : Grant) (a : Nat × Bool),
    s.grants.find? (·.req == g.req) = some g ∧ g.marked = false ∧ s.stillMapped g = true
    ∧ (s.walk g.part g.proc g.va (some (.event (.grantPteUpdate g.req)))).away = []
    ∧ s.entriesOf g.part g.proc g.page.sz g.va = [a] ∧ u.grants.find? (·.req == h.req) = some h ∧ h.marked = false
    ∧ (u.walk h.part h.proc h.va (some (.event (.grantPteUpdate h.req)))).away = [] ∧ u.stillMapped h = false ∧ (u.req h.req).isSome = true ∧ objKind (u.obj 5) = kPORT :=
  ⟨granting (grant0 0), granting (grant0 4096), grant0 0, grant0 4096, (4096, true), by decide +kernel⟩

/-- One core has yet to acknowledge; the operation it waits for is under way, or over. -/
def shooting (done : Bool) (f : ShootFor) : State :=
  { worldW fun w => { w with ops := [{ id := 9, cls := .st, done := done }] } with
    shoots := [{ id := 3, proc := 1, all := true, sz := 0, np := 1, va := 0, acks := [(core0, [⟨1, 0, 9⟩])], for_ := f }] }

theorem witness_GrantsTakeTheirOrder_ack : ∃ (s u : State) (x : Shoot), s.shoots = [x] ∧ x.acks = [(core0, [⟨1, 0, 9⟩])]
    ∧ (s.core core0).rollback = none ∧ s.undone core0 ⟨1, 0, 9⟩ = true ∧ u.shoots = [x] ∧ (u.core core0).rollback = none
    ∧ u.undone core0 ⟨1, 0, 9⟩ = false :=
  ⟨shooting false (.grant 7), shooting true (.grant 7),
    { id := 3, proc := 1, all := true, sz := 0, np := 1, va := 0, acks := [(core0, [⟨1, 0, 9⟩])], for_ := .grant 7 }, by decide +kernel⟩

/-- The grant of the test request, with these messages in its port's ring. -/
def committing (ms : List PortMsg) : State := { granting (grant0 0) with ports := [{ port := 5, msgs := ms }] }

def msg0 (r : SendId) : PortMsg := { bits := 9, sender := 1, pkg := 0, page := some ⟨4096, 0, 1⟩, req := some r }

/-- It has the oldest reservation; it stands behind another; and its port was freed in between. -/
theorem witness_GrantsTakeTheirOrder_commit : ∃ (s u v : State) (g : Grant) (q : Req), (∀ x ∈ [s, u, v],
      x.grants.find? (·.req == g.req) = some g ∧ x.req g.req = some q ∧ objKind (x.obj 5) = kPORT ∧ Had x (x.ringKey 5) (.grantCommit g.req)
      ∧ ∀ y ∈ x.gslots, y.proc ≠ g.proc)
    ∧ g.port = some 5
    ∧ (∃ m ∈ s.portMsgs 5, m.req = some (.here g.req)) ∧ (∀ m ∈ reservedTo g.req (s.portMsgs 5), m.req = none)
    ∧ (∃ m ∈ u.portMsgs 5, m.req = some (.here g.req)) ∧ (∃ m ∈ reservedTo g.req (u.portMsgs 5), m.req ≠ none)
    ∧ ∀ m ∈ v.portMsgs 5, m.req ≠ some (.here g.req) :=
  ⟨committing [⟨1, 1, 0, none, none⟩, msg0 (.here 7)], committing [msg0 (.here 6), msg0 (.here 7)], committing [], grant0 0,
    sending (.pending 5), by unfold Had; decide +kernel⟩

/-! Messages, launches, graph runs, records and buckets. -/

/-- Slot 0 of partition 0, its ring of 16 at host address 256 and its fence record at host address 128; the process has
these handles at 4096, and the window this message at position 0. -/
def slot0 : PortSlot := { part := 0, slot := 0, pcb := 1024, vec := 9, proc := 1, cring := 256, crn := 4, fenceA := 128, next := 0, bell := some 0 }

/-- The bytes from an address on that are not 0. -/
def sparse (a : Nat) (bs : List Byte) : List Host.Cell := (cellsAt a bs).filter (·.2 != 0)

def messaging (m : List (Nat × Nat × Nat)) (f : State → State := id) (x : PortSlot → PortSlot := id) : State :=
  f { mapped id with
    mgmt := [(pcluReg 0 0, 1), (bucketReg 0 0, BitVec.ofNat 64 (0xFFFFFFFF * 2 ^ 16))]
    slots := [x slot0], bar2 := sparse 0 (bytesLE 64 (mkObj m).toNat)
    objs := [(1, mkObj [(0, 4, 1), (4, 4, 1), (64, 57, 8192), (128, 24, 4)]), (6, mkObj [(0, 4, 6), (4, 4, 1), (144, 16, 3)])] }

/-- Process 1's handle 1 names graph 6 with ADMIN. -/
def handle1 (s : State) : State :=
  { s with mem := memWrites s.mem (cellsAt 8200 (bytesLE 8 (6 + 0x80 * 2 ^ 32 + 6 * 2 ^ 40))) }

/-- `Offers` as one question, the slot being `y` before. -/
theorem offers (y : PortSlot) {s u : State} {x : PortSlot} {m : BitVec 512} (h : decide (s.slot 0 0 = some y ∧ s.mayTake y = true
    ∧ s.accessWaits (.event (.launch 0 0)) (s.domKey y.pcb) = false ∧ s.pcbWhole y = true ∧ m = s.windowMsg y ∧ msgSeq m = y.next
    ∧ u = s.rollForward 0 0 ∧ u.slot 0 0 = some x) = true) : Offers s u 0 0 x m :=
  ⟨y, of_decide_eq_true h⟩

theorem witness_MessagesAreTaken_bad : ∃ (s u : State) (m n : BitVec 512), Offers s s 0 0 slot0 m ∧ Offers u u 0 0 slot0 n
    ∧ msgOp m = 0 ∧ Unrecorded slot0 slot0.next ∧ msgOp n = 4 := by
  refine ⟨messaging [], messaging [(0, 8, 4)], mkObj [], mkObj [(0, 8, 4)], offers slot0 (by decide +kernel),
    offers slot0 (by decide +kernel), ?_⟩
  unfold Unrecorded
  decide +kernel

/-- The message has had its record; and the journal holds an update of the block that was cut short, NEXTSEQ's word at 7. -/
def cutShort : State :=
  messaging [] (fun s => { s with mem := memWrites s.mem (cellsAt 1024 (bytesLE 4 1)) }) fun x =>
    { x with journal := journalFor 0 8 7, jstep := 3 }

theorem witness_MessagesAreTaken_replay : ∃ (s u v : State) (x y : PortSlot) (m : BitVec 512), Offers s s 0 0 x m
    ∧ Offers u v 0 0 y m ∧ msgOp m = 0 ∧ ¬ Unrecorded x x.next ∧ pcbTorn (u.pcbAt 0 1024) = true
    ∧ pcbTorn (v.pcbAt 0 1024) = false := by
  refine ⟨messaging [] id fun x => { x with recorded := [0] }, cutShort, cutShort.rollForward 0 0,
    { slot0 with recorded := [0] }, ((cutShort.rollForward 0 0).slot 0 0).getD slot0, mkObj [],
    offers { slot0 with recorded := [0] } (by decide +kernel),
    offers { slot0 with journal := journalFor 0 8 7, jstep := 3 } (by decide +kernel), ?_⟩
  unfold Unrecorded
  decide +kernel

/-- A grid of one team of one wave, whose descriptor stands at virtual address 64 of page 0; one with an empty AFF. -/
def launch0 (aff : Nat) : List (Nat × Nat × Nat) := [(0, 8, 1), (48, 16, aff), (128, 57, 64)]

def described (s : State) : State := { s with mem := memWrites s.mem (sparse 4160 (bytesLE 32 (desc0 false).toNat)) }

theorem witness_MessagesAreTaken_launch : ∃ (s u v : State) (m n o : BitVec 512) (g : Grid), Offers s s 0 0 slot0 m
    ∧ Offers u u 0 0 slot0 n ∧ Offers v v 0 0 slot0 o ∧ msgOp m = 1
    ∧ fld m 9 7 = 0 ∧ s.launchHead slot0.proc m = none ∧ s.checkLaunch 0 slot0.proc m = .inr g
    ∧ Readable s 0 0 (s.launchKeys 0 slot0.proc m (some (.event (.launch 0 0)))) ∧ g.part = 0 ∧ g.started = false ∧ g.total = 1
    ∧ Fresh s 0 slot0 ∧ slot0.taken = [] ∧ Unrecorded slot0 slot0.next
    ∧ msgOp n = 1 ∧ fld n 9 7 = 0 ∧ u.launchHead slot0.proc n = none
    ∧ Readable u 0 0 (u.launchKeys 0 slot0.proc n (some (.event (.launch 0 0)))) ∧ u.checkLaunch 0 slot0.proc n = .inl (5, 0)
    ∧ msgOp o = 1 ∧ fld o 9 7 = 0 ∧ v.launchHead slot0.proc o = some 2 := by
  refine ⟨messaging (launch0 1) described, messaging (launch0 0) described, messaging ((112, 16, 1) :: launch0 1) described,
    mkObj (launch0 1), mkObj (launch0 0), mkObj ((112, 16, 1) :: launch0 1),
    (((messaging (launch0 1) described).checkLaunch 0 1 (mkObj (launch0 1))).getRight?).getD
      { id := 0, part := 0, proc := 0, x := 0, y := 0, total := 0, desc := 0, descVa := 0, pbase := 0 },
    offers slot0 (by decide +kernel), offers slot0 (by decide +kernel), offers slot0 (by decide +kernel), ?_⟩
  unfold Readable Fresh Unrecorded
  decide +kernel

/-- RUNGRAPH of handle 0x100, and of handle 0, which is no handle. -/
def rungraph0 (h : Nat) : List (Nat × Nat × Nat) := [(0, 8, 2), (64, 32, h)]

theorem witness_MessagesAreTaken_rungraph : ∃ (s u : State) (m n : BitVec 512), Offers s s 0 0 slot0 m
    ∧ Offers u u 0 0 slot0 n ∧ msgOp m = 2
    ∧ fld m 9 7 = 0 ∧ fld m 48 16 = 0 ∧ fld m 96 416 = 0 ∧ s.dying slot0.proc = false ∧ s.graphOf slot0.proc m = some 6
    ∧ objKind (s.obj 6) = kGRAPH ∧ (s.obj 6).getLsbD 160 = false ∧ slot0.taken = []
    ∧ msgOp n = 2 ∧ fld n 9 7 = 0 ∧ fld n 48 16 = 0 ∧ fld n 96 416 = 0 ∧ u.dying slot0.proc = false
    ∧ u.graphOf slot0.proc n = none ∧ Unrecorded slot0 slot0.next := by
  refine ⟨messaging (rungraph0 0x100) handle1, messaging (rungraph0 0), mkObj (rungraph0 0x100), mkObj (rungraph0 0),
    offers slot0 (by decide +kernel), offers slot0 (by decide +kernel), ?_⟩
  unfold Unrecorded
  decide +kernel

/-- The region table lies in the package's memory. -/
theorem region_below {s : State} {k : Nat} (h : ((s.regionOf k).map fun r => decide (s.regionByte r < hostBase)).getD true = true) :
    ∀ r, s.regionOf k = some r → s.regionByte r < hostBase := fun r e => by
  rw [e] at h
  exact of_decide_eq_true h

/-- FENCE, with nothing before it, and behind message 7. -/
theorem witness_MessagesAreTaken_fence : ∃ (s u : State) (m : BitVec 512) (y : PortSlot), Offers s s 0 0 slot0 m
    ∧ Offers u u 0 0 y m ∧ msgOp m = 3
    ∧ fld m 9 7 = 0 ∧ fld m 48 16 = 0 ∧ fld m 64 448 = 0 ∧ s.dying slot0.proc = false ∧ slot0.taken = []
    ∧ (Memory.wf s.mem = true ∧ Memory.wf s.bar2 = true ∧ Memory.wf s.staging = true)
    ∧ Unrecorded slot0 slot0.next ∧ Had s (startKeys slot0 m) (.fenceMessage 0 0)
    ∧ (∀ r, s.regionOf (s.domKey slot0.pcb) = some r → s.regionByte r < hostBase)
    ∧ u.dying y.proc = false ∧ y.taken ≠ [] ∧ Had u (startKeys y m) (.fenceMessage 0 0) := by
  refine ⟨messaging [(0, 8, 3)], messaging [(0, 8, 3)] id fun y => { y with taken := [7] }, mkObj [(0, 8, 3)],
    { slot0 with taken := [7] }, offers slot0 (by decide +kernel), offers { slot0 with taken := [7] } (by decide +kernel), ?_⟩
  unfold Unrecorded Had
  refine ⟨by decide +kernel, by decide +kernel, by decide +kernel, by decide +kernel, by decide +kernel, by decide +kernel, by decide +kernel,
    by decide +kernel, by decide +kernel, region_below (by decide +kernel), by decide +kernel, by decide +kernel, by decide +kernel⟩

theorem witness_MessagesAreTaken_ord : ∃ (s : State) (x : PortSlot) (m : BitVec 512), s.Inv ∧ s.slot 0 0 = some x
    ∧ x.ord = some m ∧ msgOp m = 3 ∧ x.taken = [msgSeq m] ∧ Had s (startKeys x m) (.ordStart 0 0)
    ∧ (∀ r, s.regionOf (s.domKey x.pcb) = some r → s.regionByte r < hostBase) ∧ Unrecorded x (msgSeq m) :=
  ⟨messaging [] id fun y => { y with ord := some (mkObj [(0, 8, 3), (16, 32, 7)]), taken := [7] },
    { slot0 with ord := some (mkObj [(0, 8, 3), (16, 32, 7)]), taken := [7] }, mkObj [(0, 8, 3), (16, 32, 7)],
    ⟨by decide +kernel, by decide +kernel, by decide +kernel⟩, by decide +kernel, by decide +kernel, by decide +kernel, by decide +kernel,
    by unfold Had; decide +kernel, region_below (by decide +kernel), by unfold Unrecorded; decide +kernel⟩

/-- The last SEQ that a doorbell may name, and the first that it may not. -/
theorem witness_MessagesAreTaken_doorbell : ∃ (s : State) (x : PortSlot), s.slot 0 0 = some x
    ∧ s.accessWaits (.event (.launch 0 0)) (s.domKey x.pcb) = false ∧ ((63 : Word) - x.next).toNat ≤ 63 ∧ 63 < ((64 : Word) - x.next).toNat :=
  ⟨messaging [], slot0, by decide +kernel⟩

/-- A launch of message 7 whose one range has retired. -/
def grid0 : Grid :=
  { id := 4, part := 0, proc := 1, slot := some (0, 7), started := true, x := 1, y := 1, total := 1, ranges := [⟨0, 1, 1, 0⟩]
    desc := desc0 false, descVa := 64, pbase := 0 }

/-- A run of graph 6 for message 7. -/
def run0 : GraphRun := { graph := 6, part := 0, slot := 0, seq := 7, proc := 1, node := 0 }

theorem witness_RunsAndRecordsGoOn_report : ∃ (s : State) (g : Grid) (r : Range367) (x : PortSlot), s.gridOf g.id = some g
    ∧ g.ranges = [r] ∧ r.left = 0 ∧ r.hi ≤ r.next ∧ g.slot = some (0, 7) ∧ s.slot g.part 0 = some x ∧ 7 ∈ x.taken ∧ Unrecorded x 7 :=
  ⟨messaging [] (fun s => { s with grids := [grid0] }) fun y => { y with taken := [7] }, grid0, ⟨0, 1, 1, 0⟩, { slot0 with taken := [7] },
    by unfold Unrecorded; decide +kernel⟩

/-- The launch belongs to the run of graph 6. -/
theorem witness_RunsAndRecordsGoOn_run : ∃ (s : State) (g : Grid) (r : Range367) (q : GraphRun), s.gridOf g.id = some g ∧ g.ranges = [r]
    ∧ r.left = 0 ∧ r.hi ≤ r.next ∧ g.slot = none ∧ g.run = some q.graph ∧ s.runs.find? (·.graph == q.graph) = some q
    ∧ objKind (s.obj q.graph) = kGRAPH :=
  ⟨messaging [] fun s => { s with grids := [{ grid0 with slot := none, run := some 6 }], runs := [{ run0 with waits := true, next := 5 }] },
    { grid0 with slot := none, run := some 6 }, ⟨0, 1, 1, 0⟩, { run0 with waits := true, next := 5 }, by decide +kernel⟩

/-- A node of this kind with NEXT 5, ALT 6 for a COND or a WHILE, an address, and LIM, TIME or VALUE. -/
def nodeOf (kind addr v : Nat) : BitVec 256 :=
  BitVec.ofNat 256 (kind + 5 * 2 ^ 16 + (if kind = 1 ∨ kind = 2 then 6 * 2 ^ 32 else 0) + addr * 2 ^ 64 + v * 2 ^ 128)

/-- Graph 6, owned by process 1, has this one node at virtual address 256, and the run stands at it; at virtual address 128 is an image
of a launch, its descriptor at 64, and at 0 a word that is not zero. -/
def running (n : BitVec 256) (r : GraphRun := run0) (m : List (Nat × Nat × Nat) := []) : State :=
  messaging [] (fun s =>
    let u := described s
    { u with
      runs := [r]
      objs := u.objs.map fun o => if o.1 = 6 then (6, mkObj [(0, 4, 6), (4, 4, 1), (8, 24, 1), (64, 57, 256), (128, 16, 1)]) else o
      mem := memWrites (memWrites u.mem (sparse 4224 (bytesLE 64 (mkObj m).toNat))) (sparse 4352 (bytesLE 32 n.toNat)) })
    fun y => { y with taken := [7] }

/-- What every node asks: the run stands at `n`, which is no bad one, and the event has the node's memory and `k` bytes at its
address. -/
def AtNode (s : State) (r : GraphRun) (n : BitVec 256) (k : Nat) : Prop :=
  (s.runs.find? (·.graph == r.graph) = some r ∧ r.waits = false ∧ r.node ≠ 0xFFFF ∧ s.node r = some n ∧ nodeBad r n = false
    ∧ objKind (s.obj r.graph) = kGRAPH)
  ∧ Had s (s.vkeys r.part (objOwner (s.obj r.graph)) (s.nodeVa r) 32 (some (.event (.graphTimeNode r.graph)))) (.graphTimeNode r.graph)
  ∧ Had s (s.vkeys r.part (objOwner (s.obj r.graph)) (n.extractLsb' 64 57) k (some (.event (.graphTimeNode r.graph)))) (.graphTimeNode r.graph)

/-- Images of no launch, of one with a reserved bit, of one with an empty AFF, and of a good one. -/
theorem witness_RunsAndRecordsGoOn_launch : ∃ (s u v w : State) (m n o p : BitVec 512) (g : Grid),
    (AtNode s run0 (nodeOf 0 128 0) 64 ∧ AtNode u run0 (nodeOf 0 128 0) 64 ∧ AtNode v run0 (nodeOf 0 128 0) 64 ∧ AtNode w run0 (nodeOf 0 128 0) 64)
    ∧ (s.vreadNat 0 1 128 64 = some m.toNat ∧ u.vreadNat 0 1 128 64 = some n.toNat ∧ v.vreadNat 0 1 128 64 = some o.toNat
      ∧ w.vreadNat 0 1 128 64 = some p.toNat)
    ∧ msgOp m ≠ 1 ∧ msgOp n = 1 ∧ u.launchHead 1 n = some 2
    ∧ msgOp o = 1 ∧ v.launchHead 1 o = none ∧ Had v (v.launchKeys 0 1 o (some (.event (.graphTimeNode 6)))) (.graphTimeNode 6)
    ∧ v.checkLaunch 0 1 o = .inl (5, 0)
    ∧ msgOp p = 1 ∧ w.launchHead 1 p = none ∧ Had w (w.launchKeys 0 1 p (some (.event (.graphTimeNode 6)))) (.graphTimeNode 6)
    ∧ w.checkLaunch 0 1 p = .inr g ∧ ∀ h ∈ w.grids, h.id ≠ w.nextId := by
  refine ⟨running (nodeOf 0 128 0), running (nodeOf 0 128 0) run0 ((112, 16, 1) :: launch0 1), running (nodeOf 0 128 0) run0 (launch0 0),
    running (nodeOf 0 128 0) run0 (launch0 1), 0, mkObj ((112, 16, 1) :: launch0 1), mkObj (launch0 0), mkObj (launch0 1),
    ((((running (nodeOf 0 128 0) run0 (launch0 1)).checkLaunch 0 1 (mkObj (launch0 1))).getRight?).getD grid0), ?_⟩
  unfold AtNode Had
  decide +kernel

/-- A COND on the word at 0; a WHILE whose LIM allows one more time, and none; a TIME node whose time has come, and not; a SIGNAL. -/
theorem witness_RunsAndRecordsGoOn_nodes : (∀ p ∈ [(nodeOf 1 0 0, run0), (nodeOf 2 0 1, run0), (nodeOf 2 0 1, { run0 with counts := [(0, 1)] }),
      (nodeOf 3 0 0, run0), (nodeOf 3 0 500, run0), (nodeOf 4 0 9, run0)], AtNode (running p.1 p.2) p.2 p.1 4)
    ∧ (∀ k ∈ [1, 2], (running (nodeOf k 0 0)).vreadNat 0 1 0 4 = some 0x1003)
    ∧ (running (nodeOf 3 0 0)).untilPtp 0 = 0 ∧ (running (nodeOf 3 0 500)).untilPtp 500 ≠ 0
    ∧ ((running (nodeOf 4 0 9)).slot 0 (fld ((running (nodeOf 4 0 9)).obj 6) 192 7)).isSome = true := by
  unfold AtNode Had
  decide +kernel

/-- The run stands past the last node; at a node of no kind; and at a COND on a word that is not mapped. -/
theorem witness_RunsAndRecordsGoOn_badNode : ∃ (s u v : State) (r : GraphRun) (n o : BitVec 256),
    (s.runs.find? (·.graph == r.graph) = some r ∧ r.waits = false ∧ r.node ≠ 0xFFFF ∧ objKind (s.obj r.graph) = kGRAPH
      ∧ fld (s.obj r.graph) 128 16 ≤ r.node)
    ∧ (u.runs.find? (·.graph == run0.graph) = some run0 ∧ u.node run0 = some n ∧ nodeBad run0 n = true
      ∧ Had u (u.vkeys 0 1 (u.nodeVa run0) 32 (some (.event (.graphTimeNode 6)))) (.graphTimeNode 6))
    ∧ AtNode v run0 o 4 ∧ bitsNat o 0 3 = 1 ∧ v.vreadNat 0 1 (o.extractLsb' 64 57) 4 = none := by
  refine ⟨running (nodeOf 1 0 0) { run0 with node := 1 }, running (nodeOf 5 0 0), running (nodeOf 1 4096 0), { run0 with node := 1 }, nodeOf 5 0 0,
    nodeOf 1 4096 0, ?_⟩
  unfold AtNode Had
  decide +kernel

theorem witness_RunsAndRecordsGoOn_end : ∃ (s : State) (r : GraphRun) (x : PortSlot), s.runs.find? (·.graph == r.graph) = some r
    ∧ r.waits = false ∧ r.node = 0xFFFF ∧ objKind (s.obj r.graph) = kGRAPH ∧ s.slot r.part r.slot = some x ∧ r.seq ∈ x.taken
    ∧ Unrecorded x r.seq :=
  ⟨running (nodeOf 1 0 0) { run0 with node := 0xFFFF }, { run0 with node := 0xFFFF }, { slot0 with taken := [7] },
    by unfold Unrecorded; decide +kernel⟩

/-- A record of slot 0 waits; it stands in its place, or not; the host has read 15 fewer than were posted. -/
def posting (written : Bool) : State :=
  messaging [] fun s => { s with
    records := [{ ring := .slot 0 0, bits := recordOf 7 0 0 0, written := written }], posted := [(.slot 0 0, 15)] }

theorem witness_RunsAndRecordsGoOn_post : ∀ w : Bool, ∃ (r : PendRec), (posting w).Inv
    ∧ (posting w).records.find? (·.ring == .slot 0 0) = some r ∧ (posting w).ring (.slot 0 0) = some (hostBase + 256, 4, 9)
    ∧ Had (posting w) ((posting w).postKeys (.slot 0 0) ++ [hostBase + 256 + 16 * 15, hostBase + 256 + 16 * 16]) (.completionPost (.slot 0 0))
    ∧ (∀ x r, (posting w).slot 0 0 = some x → (posting w).regionOf ((posting w).domKey x.pcb) = some r → (posting w).regionByte r < hostBase)
    ∧ (posting w).linkDown = false ∧ (posting w).ringTorn (.slot 0 0) = false
    ∧ ((posting w).postedOf (.slot 0 0) - BitVec.ofNat 32 (memNat (posting w).mem (hostBase + 256 + 16 * 2 ^ 4 + 16) 4)).toNat < 2 ^ 4
    ∧ r.written = w := by
  have b (w : Bool) (h : (posting w).slot 0 0 = some slot0) (k : ((((posting w).regionOf ((posting w).domKey slot0.pcb)).map
      fun r => decide ((posting w).regionByte r < hostBase)).getD true) = true) : ∀ x r, (posting w).slot 0 0 = some x →
      (posting w).regionOf ((posting w).domKey x.pcb) = some r → (posting w).regionByte r < hostBase := fun x r e => by
    cases h.symm.trans e
    exact region_below k r
  intro w
  cases w
  · exact ⟨⟨.slot 0 0, recordOf 7 0 0 0, false⟩, ⟨by decide +kernel, by decide +kernel, by decide +kernel⟩, by decide +kernel, by decide +kernel,
      by unfold Had; decide +kernel, b false (by decide +kernel) (by decide +kernel), by decide +kernel⟩
  · exact ⟨⟨.slot 0 0, recordOf 7 0 0 0, true⟩, ⟨by decide +kernel, by decide +kernel, by decide +kernel⟩, by decide +kernel, by decide +kernel,
      by unfold Had; decide +kernel, b true (by decide +kernel) (by decide +kernel), by decide +kernel⟩

/-- The host has left the port's block torn. -/
theorem witness_RunsAndRecordsGoOn_torn : ∃ (s : State) (r : PendRec) (x : Nat × Nat × Nat), s.records.find? (·.ring == .slot 0 0) = some r
    ∧ s.ring (.slot 0 0) = some x ∧ s.ringTorn (.slot 0 0) = true
    ∧ Had s (s.postKeys (.slot 0 0) ++ [x.1 + 16 * ((s.postedOf (.slot 0 0)).toNat % 2 ^ x.2.1), x.1 + 16 * 2 ^ x.2.1]) (.completionPost (.slot 0 0)) :=
  ⟨{ posting false with mem := memWrites (posting false).mem (cellsAt 1024 (bytesLE 4 1)) }, ⟨.slot 0 0, recordOf 7 0 0 0, false⟩,
    (hostBase + 256, 4, 9), by unfold Had; decide +kernel⟩

/-- A bucket two short of its DEPTH of 100, with a RATE of 5. -/
theorem witness_RunsAndRecordsGoOn_bucket : ∃ (s : State),
    min (bitsNat (s.mreg (bucketReg 0 3)) 16 32 : Int)
      (((s.mreg (bucketReg 0 3 + 8)).extractLsb' 0 32).toInt + bitsNat (s.mreg (bucketReg 0 3)) 0 16 - s.tenantWaves 0 3) = 100
    ∧ ∀ x ∈ s.slots, s.accessWaits (.event (.launch x.part x.slot)) (s.domKey x.pcb) = false :=
  ⟨{ world [] [] [] with mgmt := [(bucketReg 0 3, BitVec.ofNat 64 (5 + 100 * 2 ^ 16)), (bucketReg 0 3 + 8, 98)] }, by decide +kernel⟩

end Sys2Proof.Tests
end

