-- ==== Sys2Proof/Tests/Outside.lean ====
section
/-! SUPPORT. Witnesses: for each statement about management requests, dies, registers, outside events, reset and steps, concrete
states that meet its hypotheses, clause by clause. -/

namespace Sys2Proof.Tests

set_option Elab.async false

open Sys2Proof.Machine Sys2Proof.Claims

/-! Management requests. -/

/-- A request of partition 0 with SEQ 7: KIND, die, and its body from bit 64 on. -/
def mreq (kind die body : Nat) : MgmtReq := BitVec.ofNat 256 (kind + die * 2 ^ 12 + 7 * 2 ^ 32 + body * 2 ^ 64)

/-- Both management rings are set up; these are the other registers, after them. -/
def asked0 (regs : List (Nat × DWord)) (f : State → State := id) : State :=
  f { world [] [] [] with mgmt := [(0x48, 0x1004), (partBlock 0 + 0x30, 0x2004)] ++ regs }

/-- No ring; 64 requests outstanding, and 63; a die for a request that has none; a body bit; and an earlier request that waits. -/
theorem witness_RequestsAreChecked : ∃ (s u v : State) (r q b : MgmtReq), ReqRow (.preset r) r 1 ∧ mKind r = 1
    ∧ (s.ring (mRing r)).isSome = false ∧ u.outstanding = 64 ∧ v.outstanding = 63 ∧ (v.ring (mRing r)).isSome = true
    ∧ mKind q = 1 ∧ mHeaderBad q = true ∧ mKind b = 1 ∧ mHeaderBad b = false ∧ bodyOk 1 b = false
    ∧ (asked0 [] fun s => { s with waiting := [mreq 7 0 0] }).barred r = true ∧ mHeaderBad r = false ∧ bodyOk 1 r = true :=
  ⟨world [] [] [], asked0 [] fun s => { s with records := List.replicate 64 ⟨.package, 0, false⟩ },
    asked0 [] fun s => { s with records := List.replicate 63 ⟨.package, 0, false⟩ }, mreq 1 0 0, mreq 1 1 0, mreq 1 0 (2 ^ 191),
    .preset _, by decide +kernel⟩

/-- Die 0 in a state, with something under way. -/
def dieAt (st : Nat) (f : Die → Die := id) (g : State → State := id) : State :=
  asked0 [] fun s => g { s with dies := [f { die := 0, st := st }] }

theorem witness_DiesAndPackageReset_dcreset : ∀ st ∈ [0, 1, 2], Performed 2 (dieAt st) (mreq 2 0 0)
    ∧ ((dieAt st).die (mDie (mreq 2 0 0))).reset = none ∧ ((dieAt st).die (mDie (mreq 2 0 0))).st = st := by
  unfold Performed Asks
  decide +kernel

theorem witness_DiesAndPackageReset_drestart : (∀ st ∈ [0, 1, 2], Performed 3 (dieAt st) (mreq 3 0 0))
    ∧ (Performed 3 (dieAt 1 fun d => { d with dead := true }) (mreq 3 0 0)
      ∧ ((dieAt 1 fun d => { d with dead := true }).die (mDie (mreq 3 0 0))).dead = true)
    ∧ (Performed 3 (dieAt 1 fun d => { d with up := some (mreq 3 0 0) }) (mreq 3 0 0)
      ∧ ((dieAt 1 fun d => { d with up := some (mreq 3 0 0) }).die (mDie (mreq 3 0 0))).up.isSome = true)
    ∧ (∀ st ∈ [0, 1, 2], ((dieAt st).die (mDie (mreq 3 0 0))).up = none ∧ ((dieAt st).die (mDie (mreq 3 0 0))).st = st)
    ∧ ((dieAt 0).die (mDie (mreq 3 0 0))).dead = false ∧ ((dieAt 2).die (mDie (mreq 3 0 0))).dead = false ∧ (dieAt 2).live (mDie (mreq 3 0 0)) = true
    ∧ ((dieAt 1).die (mDie (mreq 3 0 0))).dead = false ∧ (dieAt 1).live (mDie (mreq 3 0 0)) = false := by
  unfold Performed Asks
  decide +kernel

/-- A die whose stack has yet to train, and one that is memory-only, with the restart under way. -/
theorem witness_DiesAndPackageReset_up : ∀ st ∈ [0, 1], ((dieAt st fun d => { d with up := some (mreq 3 0 0) }).die 0).up = some (mreq 3 0 0)
    ∧ (dieAt st fun d => { d with up := some (mreq 3 0 0) }).hostWaits = []
    ∧ ((dieAt st fun d => { d with up := some (mreq 3 0 0) }).die 0).st = st := by decide +kernel

theorem witness_DiesAndPackageReset_ddown : ∀ st ∈ [0, 1, 2], Performed 4 (dieAt st) (mreq 4 0 0)
    ∧ ((dieAt st).die (mDie (mreq 4 0 0))).down = none ∧ ((dieAt st).die (mDie (mreq 4 0 0))).up = none ∧ ((dieAt st).die (mDie (mreq 4 0 0))).st = st := by
  unfold Performed Asks
  decide +kernel

/-- A copy pins a page of die 0; none does. -/
theorem witness_DiesAndPackageReset_proceed : ∃ (s u : State) (r : MgmtReq), (s.die 0).down = some r ∧ s.pinsDie 0 = true
    ∧ (u.die 0).down = some r ∧ u.pinsDie 0 = false ∧ (u.die 0).die = 0 :=
  ⟨{ copying copyOut with dies := [{ die := 0, st := 1, down := some (mreq 4 0 0) }] },
    dieAt 1 fun d => { d with down := some (mreq 4 0 0) }, mreq 4 0 0, by decide +kernel⟩

theorem witness_DiesAndPackageReset_reset : ∃ (s : State), ResetRow s (.pkreset (mreq 5 0 0)) ∧ ResetRow s .functionLevelReset
    ∧ ResetRow s .powerInputFault ∧ s.Inv ∧ s.cores ≠ [] :=
  ⟨world [] [] [], .pkreset _ (by decide +kernel) (by decide +kernel) (by decide +kernel) (by decide +kernel), .level, .power, ⟨rfl, rfl, rfl⟩, by decide +kernel⟩

/-- 64 records wait for the package's ring. -/
theorem witness_DiesAndPackageReset_full : ∃ (s : State), mKind (mreq 5 0 0) = 5 ∧ mHeaderBad (mreq 5 0 0) = false
    ∧ bitsNat (mreq 5 0 0) 64 192 = 0 ∧ 64 ≤ s.outstanding :=
  ⟨{ world [] [] [] with records := List.replicate 64 ⟨.package, 0, false⟩ }, by decide +kernel⟩

theorem witness_DiesAndPackageReset_release : State.reset.measured = none ∧ State.reset.Inv
    ∧ ({ State.reset with measured := some 0 } : State).measured.isSome = true := ⟨rfl, ⟨rfl, rfl, rfl⟩, rfl⟩

/-! Objects, ports, transfers and patches. -/

/-- Ids 1 to 9 are partition 0's. -/
def ids : List (Nat × DWord) := [(oidLo 0 0, 1), (oidHi 0 0, 9)]

/-- A PORT with the highest id; a TEAM, which CREATE does not make; an id that is in use. -/
theorem witness_ObjectsAndTransfers_create : ∃ (s : State) (r q u : MgmtReq), Performed 9 s r ∧ r.getLsbD 88 = false
    ∧ s.inRange (mPart r) (bitsNat r 64 24) = true ∧ s.live (objHome (bitsNat r 64 24)) = true
    ∧ objKind (s.obj (bitsNat r 64 24)) = 0
    ∧ objKind (s.recordAt (bitsNat r 64 24)) = 0 ∧ Served s r (s.objKey (bitsNat r 64 24)) ∧ bitsNat r 92 4 ∈ [1, 3, 4, 5, 6, 7]
    ∧ Performed 9 s q ∧ q.getLsbD 88 = false ∧ s.inRange (mPart q) (bitsNat q 64 24) = true
    ∧ s.live (objHome (bitsNat q 64 24)) = true ∧ bitsNat q 92 4 ∉ [1, 3, 4, 5, 6, 7]
    ∧ Performed 9 s u ∧ s.inRange (mPart u) (bitsNat u 64 24) = true ∧ objKind (s.obj (bitsNat u 64 24)) ≠ 0 := by
  refine ⟨asked0 ids fun s => { s with objs := [(5, port5)] }, mreq 9 0 (9 + 3 * 2 ^ 28), mreq 9 0 (9 + 2 * 2 ^ 28),
    mreq 9 0 (5 + 3 * 2 ^ 28), ?_⟩
  unfold Performed Asks Served
  decide +kernel

/-- The memory of id 9 holds a kind: the port's. -/
theorem witness_ObjectsAndTransfers_old : ∃ (s : State) (r : MgmtReq), Performed 9 s r ∧ r.getLsbD 88 = false
    ∧ s.inRange (mPart r) 9 = true ∧ s.live (objHome 9) = true ∧ bitsNat r 64 24 = 9
    ∧ Served s r (s.objKey 9) ∧ objKind (s.recordAt 9) ≠ 0 := by
  refine ⟨asked0 ids fun s => { s with mem := [(576, 3)] }, mreq 9 0 (9 + 3 * 2 ^ 28), ?_⟩
  unfold Performed Asks Served
  exact ⟨by decide +kernel, by decide +kernel, by decide +kernel, by decide +kernel, by decide +kernel, by decide +kernel,
    by decide +kernel⟩

/-- REARM of a WORK object whose items are handed out; with a kind that CREATE does not make; and of a PORT. -/
def rearming : State :=
  asked0 ids fun s => { s with objs := [(5, port5), (6, mkObj [(0, 4, 7), (4, 4, 2), (64, 32, 8), (128, 32, 8)])] }

theorem witness_ObjectsAndTransfers_rearm : ∃ (r q u : MgmtReq), (Performed 9 rearming r ∧ Performed 9 rearming q ∧ Performed 9 rearming u)
    ∧ (r.getLsbD 88 = true ∧ q.getLsbD 88 = true ∧ u.getLsbD 88 = true) ∧ (bitsNat r 64 24 = 6 ∧ bitsNat q 64 24 = 6 ∧ bitsNat u 64 24 = 5)
    ∧ (rearming.inRange (mPart r) 6 = true ∧ rearming.inRange (mPart q) 6 = true ∧ rearming.inRange (mPart u) 5 = true)
    ∧ rearming.live (objHome 6) = true
    ∧ bitsNat r 92 4 ∈ [1, 3, 4, 5, 6, 7] ∧ objKind (rearming.obj 6) = kWORK ∧ bitsNat q 92 4 ∉ [1, 3, 4, 5, 6, 7]
    ∧ objKind (rearming.obj 5) ≠ kWORK := by
  refine ⟨mreq 9 0 (6 + 2 ^ 24 + 7 * 2 ^ 28), mreq 9 0 (6 + 2 ^ 24 + 2 * 2 ^ 28), mreq 9 0 (5 + 2 ^ 24 + 7 * 2 ^ 28), ?_⟩
  unfold Performed Asks
  exact ⟨by decide +kernel, by decide +kernel, by decide +kernel, by decide +kernel, by decide +kernel, by decide +kernel,
    by decide +kernel, by decide +kernel, by decide +kernel⟩

/-- A whole PCB at package address 1024: process 1, a ring of 16 at 256, a fence record at 128; and one whose ring is too
small. -/
def mapping (crn : Nat) : State :=
  asked0 [] fun s => { s with
    objs := [(1, mkObj [(0, 4, 1), (4, 4, 1)])], slots := [slot0]
    mem := memWrites [] (cellsAt 1024 (bytesLE 64 (mkObj [(32, 24, 1), (64, 57, 256), (128, 4, crn), (192, 57, 128)]).toNat)) }

/-- No slot is mapped; the slot that is has an update of its block in hand. -/
theorem witness_ObjectsAndTransfers_portmap : ∃ (s u v : State) (r : MgmtReq), Performed 10 s r ∧ bitsNat r 128 52 % 64 = 0
    ∧ s.absentPa (bitsNat r 128 52) = false ∧ Served s r (s.domKey (bitsNat r 128 52))
    ∧ s.pcbOk (mPart r) ((s.rolledAt (bitsNat r 128 52)).pcbAt (mPart r) (bitsNat r 128 52)) = true
    ∧ Performed 10 u r ∧ u.absentPa (bitsNat r 128 52) = false ∧ Served u r (u.domKey (bitsNat r 128 52))
    ∧ u.pcbOk (mPart r) ((u.rolledAt (bitsNat r 128 52)).pcbAt (mPart r) (bitsNat r 128 52)) = false
    ∧ Performed 10 v r ∧ Served v r (v.domKey (bitsNat r 128 52))
    ∧ pcbTorn (v.pcbAt (mPart r) (bitsNat r 128 52)) = true
    ∧ (v.rolledAt (bitsNat r 128 52)).pcbOk (mPart r) ((v.rolledAt (bitsNat r 128 52)).pcbAt (mPart r) (bitsNat r 128 52)) = true := by
  refine ⟨mapping 4, mapping 3, { mapping 4 with
      slots := [{ slot0 with journal := journalFor 0 8 7, jstep := 3 }], mem := memWrites (mapping 4).mem (cellsAt 1024 (bytesLE 4 1)) },
    mreq 10 0 (127 + 1024 * 2 ^ 64), ?_⟩
  unfold Performed Asks Served
  decide +kernel

theorem witness_ObjectsAndTransfers_portunmap : ∃ (s : State) (r : MgmtReq) (x : PortSlot), Performed 11 s r
    ∧ s.slot (mPart r) (bitsNat r 64 7) = some x ∧ x.jstep = 0 ∧ x.jv = false := by
  refine ⟨mapping 4, mreq 11 0 0, slot0, ?_⟩
  unfold Performed Asks
  decide +kernel

/-- Ownership is on, its table at package address 4096; region 0 of the package has this byte. -/
def owned (b : Byte) (xs : List Xfer := []) : State :=
  asked0 [(0x20, BitVec.ofNat 64 (1 + 42 * 2 + 4096))] fun s => { s with mem := memWrites [] [(4096, b)], xfers := xs }

theorem witness_ObjectsAndTransfers_xferhost : ∃ (s u : State) (r : MgmtReq) (q : Bool × Nat), Performed 13 s r
    ∧ r.getLsbD 116 = false ∧ bitsNat r 64 52 % 2 ^ 21 = 0 ∧ s.regionOf (s.domKey (bitsNat r 64 52)) = some q
    ∧ (∀ x ∈ s.xfers, ¬ (x.host = q.1 ∧ x.region = q.2)) ∧ s.confOf (s.regionByte q) = none ∧ s.owner (s.domKey (bitsNat r 64 52)) = 1
    ∧ (Memory.wf s.mem = true ∧ Memory.wf s.bar2 = true ∧ Memory.wf s.staging = true)
    ∧ Performed 13 u r ∧ u.regionOf (u.domKey (bitsNat r 64 52)) = some q ∧ u.owner (u.domKey (bitsNat r 64 52)) = 2 := by
  refine ⟨owned 1, owned 3, mreq 13 0 0, (false, 0), ?_⟩
  unfold Performed Asks
  decide +kernel

/-- A transfer of the package's region 0 to the host; one of the same region from the host that waits for the driver, asked for
by an event. -/
def xfer0 : Xfer := { host := false, region := 0, toHost := true }
def xfer1 : Xfer := { host := false, region := 0, toHost := false, seq := some 5, askers := [.event .resetRelease] }

theorem witness_ObjectsAndTransfers_done : ∃ (s u : State) (x y : Xfer) (r : MgmtReq), s.Inv ∧ s.xfers = [x] ∧ x.acc = none
    ∧ x.owed = false ∧ x.askers = [] ∧ x.seq = none ∧ u.Inv ∧ u.xfers = [y] ∧ y.acc = none ∧ y.owed = false ∧ y.askers ≠ []
    ∧ s.confOf (s.regionByte (x.host, x.region)) = none ∧ u.confOf (u.regionByte (y.host, y.region)) = none
    ∧ Performed 12 u r ∧ y.seq = some (r.extractLsb' 64 32) := by
  refine ⟨owned 5 [xfer0], owned 6 [xfer1], xfer0, xfer1, mreq 12 0 5, ⟨rfl, rfl, rfl⟩, rfl, rfl, rfl, rfl, rfl, ⟨rfl, rfl, rfl⟩, rfl, rfl,
    rfl, by decide, by decide +kernel, by decide +kernel, ?_⟩
  unfold Performed Asks
  decide +kernel

/-- An image of one entry at the start of the staging area; with its signature good and its version not too low it loads (the root
key is a free value).  An empty area is an image of no entry, which never loads. -/
def patching : State :=
  asked0 [] fun s => { s with staging := memWrites [] (cellsAt 0 (bytesLE 8 (9 + 1 * 2 ^ 32 + 1 * 2 ^ 48) ++ bytesLE 8 0 ++ bytesLE 4 (7 + 2 ^ 16))) }

theorem witness_ObjectsAndTransfers_patch : ∃ (r : MgmtReq), Performed 6 patching r
    ∧ ((patching.patchImage (4096 * bitsNat r 64 20)).signed = true → Config.patchVersionMin ≤ 9 →
      patching.patchStatus (patching.patchImage (4096 * bitsNat r 64 20)) = 0)
    ∧ (patching.patchImage (4096 * bitsNat r 64 20)).entries = [⟨7, 1, 0⟩]
    ∧ Performed 6 (asked0 []) r ∧ (asked0 []).patchStatus ((asked0 []).patchImage (4096 * bitsNat r 64 20)) ≠ 0 := by
  refine ⟨mreq 6 0 0, ?_⟩
  unfold Performed Asks
  refine ⟨by decide +kernel, fun hs hv => ?_, by decide +kernel, by decide +kernel, ?_⟩
  · unfold State.patchStatus
    rw [hs]
    have : (patching.patchImage (4096 * bitsNat (mreq 6 0 0) 64 20)).ver.toNat = 9 := by decide +kernel
    rw [this, if_neg (by simp), if_neg (by omega), if_neg (by decide +kernel), if_neg (by decide +kernel), if_neg (by decide +kernel)]
  · have h0 : ((asked0 []).patchImage (4096 * bitsNat (mreq 6 0 0) 64 20)).count = 0 := by decide +kernel
    unfold State.patchStatus
    rw [h0]
    split
    · decide
    · split
      · decide
      · rw [if_pos (.inl rfl)]
        decide

theorem witness_ObjectsAndTransfers_shootdown : ∃ (s : State) (r : MgmtReq), Performed 15 s r := by
  refine ⟨asked0 [(pcluReg 0 0, 1)], mreq 15 0 (1 + 1 * 2 ^ 32), ?_⟩
  unfold Performed Asks
  decide +kernel

/-! Contexts. -/

/-- Process 1 is LIVE, or not, and has the team of the test state or none. -/
def context (st : Nat) (team : Bool) (f : State → State := id) : State :=
  asked0 [] fun s => f { s with objs := [(1, mkObj [(0, 4, 1), (4, 4, st), (32, 16, 1)])], cores := if team then s.cores else [{ id := core0 }] }

def preempt0 : Preempt := { part := 0, proc := 1, hold := true, rdl := 100, ddl := 50, req := mreq 7 0 1, t0 := 10, teams := [1] }

/-- The context runs, or is DYING, or is already being stopped with a reset to come. -/
theorem witness_ContextsStopAndResume_preempt : ∃ (s u v : State) (r : MgmtReq), Performed 7 s r
    ∧ s.liveProc (mPart r) (bitsNat r 64 24) = true ∧ s.escalating (mPart r) (bitsNat r 64 24) = none
    ∧ Performed 7 u r ∧ u.liveProc (mPart r) (bitsNat r 64 24) = false
    ∧ Performed 7 v r ∧ (v.escalating (mPart r) (bitsNat r 64 24)).isSome = true := by
  refine ⟨context 1 true, context 2 true, context 1 true fun s => { s with preempts := [preempt0] },
    mreq 7 0 (1 + 50 * 2 ^ 32 + 100 * 2 ^ 64), ?_⟩
  unfold Performed Asks
  decide +kernel

/-- None of its teams is resident; one is, at the very end of DDL; the reset deadline, one cycle early; at its end with no team
left; and with one. -/
theorem witness_ContextsStopAndResume_deadlines : ∃ (s u v w z : State) (k : Core) (q : Team),
    s.preempts = [preempt0] ∧ preempt0.done = false ∧ (∀ k ∈ s.cores, ∀ q ∈ k.teams, q.proc ≠ preempt0.proc)
    ∧ (∀ i ∈ s.images, i.team.proc ≠ preempt0.proc)
    ∧ u.preempts = [preempt0] ∧ u.cores = [k] ∧ k.teams = [q] ∧ q.proc = preempt0.proc ∧ q.leave = none ∧ q.grid = 0
    ∧ preempt0.t0 + micros preempt0.ddl ≤ u.wall ∧ preempt0.rdl ≠ 0
    ∧ v.preempts = [preempt0] ∧ v.wall < preempt0.t0 + micros preempt0.rdl
    ∧ w.preempts = [preempt0] ∧ preempt0.t0 + micros preempt0.rdl ≤ w.wall ∧ w.overdue preempt0 = false
    ∧ z.preempts = [preempt0] ∧ preempt0.t0 + micros preempt0.rdl ≤ z.wall ∧ z.overdue preempt0 = true
    ∧ NothingToFeed z ∧ (z.cores.map (·.id)).Nodup ∧ ∀ k ∈ z.cores, ∀ q ∈ k.teams, z.coreOf q.oid = some k := by
  let m := (world [] [] []).mhz
  refine ⟨context 1 false fun s => { s with preempts := [preempt0] },
    context 1 true fun s => { s with preempts := [preempt0], cycle := 1 + 50 * m },
    context 1 true fun s => { s with preempts := [preempt0], cycle := 100 * m },
    context 1 false fun s => { s with preempts := [preempt0], cycle := 1 + 100 * m },
    context 1 true fun s => { s with preempts := [preempt0], cycle := 1 + 100 * m }, coreOf (team0 id), team0 id, ?_⟩
  unfold NothingToFeed
  decide +kernel

/-- Team 2 is FAULTED with code 13. -/
def faulted : State :=
  asked0 [(pcluReg 0 0, 6)] fun s => { s with objs := [(2, mkObj [(0, 4, 2), (4, 4, 4), (72, 8, 13)])], images := [saved false] }

theorem witness_ContextsStopAndResume_resume : ∃ (r : MgmtReq) (i : Image) (c : Nat), Performed 8 faulted r ∧ r.getLsbD 88 = true
    ∧ objKind (faulted.obj (bitsNat r 64 24)) = kTEAM ∧ objState (faulted.obj (bitsNat r 64 24)) = 4
    ∧ objPart (faulted.obj (bitsNat r 64 24)) = mPart r ∧ faulted.image (bitsNat r 64 24) = some i
    ∧ fld (faulted.obj (bitsNat r 64 24)) 448 32 = 0 ∧ faulted.live i.die = true ∧ (faulted.die i.die).reset = none ∧ faulted.queueFor i.team.part i.die = some c ∧ faulted.queueRoom i.team.part i.die = true := by
  refine ⟨mreq 8 0 (2 + 2 ^ 24), saved false, 1, ?_⟩
  unfold Performed Asks
  decide +kernel

/-- A context whose one saved team no pre-emption keeps out. -/
theorem witness_ContextsStopAndResume_none : ∃ (r : MgmtReq) (i : Image), Performed 8 faulted r ∧ r.getLsbD 88 = false
    ∧ i ∈ faulted.images ∧ i.team.proc = bitsNat r 64 24 ∧ ∀ i ∈ faulted.images, i.team.proc = bitsNat r 64 24 → i.held = false := by
  refine ⟨mreq 8 0 1, saved false, ?_⟩
  unfold Performed Asks
  decide +kernel

theorem witness_ContextsStopAndResume_ctxreset : ∃ (s u : State) (r : MgmtReq), Performed 14 s r
    ∧ s.liveProc (mPart r) (bitsNat r 64 24) = true ∧ (∀ k ∈ s.cores, ∀ q ∈ k.teams, q.proc ≠ bitsNat r 64 24)
    ∧ (∀ i ∈ s.images, i.team.proc ≠ bitsNat r 64 24) ∧ Roomy s
    ∧ (∀ x ∈ s.runs, x.proc ≠ bitsNat r 64 24 ∧ x.graph ≠ bitsNat r 64 24 ∧ Cached s x.graph ∧ objOwner (s.obj x.graph) ≠ bitsNat r 64 24)
    ∧ s.runs ≠ []
    ∧ (∀ x ∈ s.slots, x.proc ≠ bitsNat r 64 24) ∧ (∀ g ∈ s.grids, g.proc ≠ bitsNat r 64 24)
    ∧ NothingToFeed s ∧ objRefs (s.obj (bitsNat r 64 24)) ≠ 0
    ∧ Performed 14 u r ∧ u.liveProc (mPart r) (bitsNat r 64 24) = false := by
  refine ⟨context 1 false fun s => { s with runs := [{ run0 with proc := 2 }], objs := (6, mkObj [(0, 4, 6), (4, 4, 1), (8, 24, 2)]) :: s.objs },
    context 2 false, mreq 14 0 1, ?_, ?_, ?_, ?_, roomy (by decide +kernel), ?_⟩ <;> simp only [Performed, Asks, NothingToFeed, Cached]
    <;> decide +kernel

theorem witness_ContextsStopAndResume_preset : ∃ (s : State) (r : MgmtReq), Performed 1 s r
    ∧ (∀ k ∈ s.cores, ∀ q ∈ k.teams, q.part ≠ mPart r) ∧ (∀ i ∈ s.images, i.team.part ≠ mPart r)
    ∧ (∀ x ∈ s.slots, x.part ≠ mPart r) ∧ s.reqs ≠ [] := by
  refine ⟨context 1 false fun s => { s with reqs := [sending .held] }, mreq 1 0 0, ?_⟩
  unfold Performed Asks
  decide +kernel

/-! Registers. -/

/-- A key is in slot 0 of the table, partition 0's. -/
def keyed : State := asked0 [] fun s => { s with keys := [⟨0, 0, some (5, 0)⟩] }

/-- A value, at the end of its range, that the rule of each register allows. -/
theorem witness_RegistersAreWritten : ∀ i ∈ ([.oidRangeWrite 0 0 false 0, .oidRangeWrite 15 7 true 0x1FFFFF, .crshareWrite 0 0xC0001000020,
      .heatctlWrite 0 16, .txctlWrite 15 0x1FFFFFFF000, .nsctlWrite 0 0xFFFF, .rgnctlWrite 0x69, .carctlWrite 0x2000, .flctlCarq 0x100,
      .flctlDpup 0x10000, .pcluWrite 0 0 0xFFFFFF, .pwrctlStep 0x12C00003, .pwrctlCap 0x4B00000, .domctlWrite 0x6000600,
      .ringRegisterWrite (.part 0) 0, .ringRegisterWrite .package 0x1004] : List Instr),
    ∃ (off : Nat) (v rsv : DWord) (ok : State → Prop) (val : State → DWord), RegRow i off v rsv ok val ∧ v &&& rsv = 0 ∧ ok keyed := by
  intro i h
  simp only [List.mem_cons, List.not_mem_nil, or_false] at h
  rcases h with rfl | rfl | rfl | rfl | rfl | rfl | rfl | rfl | rfl | rfl | rfl | rfl | rfl | rfl | rfl | rfl
  · exact ⟨_, _, _, _, _, .oid 0 0 false _, by decide +kernel⟩
  · exact ⟨_, _, _, _, _, .oid 15 7 true _, by decide +kernel⟩
  · exact ⟨_, _, _, _, _, .crshare 0 _, by decide +kernel⟩
  · exact ⟨_, _, _, _, _, .heatctl 0 _, by decide +kernel⟩
  · exact ⟨_, _, _, _, _, .txctl 15 _, by decide +kernel⟩
  · exact ⟨_, _, _, _, _, .nsctl 0 _, by decide +kernel⟩
  · exact ⟨_, _, _, _, _, .rgnctl _, by decide +kernel⟩
  · exact ⟨_, _, _, _, _, .carctl _, by decide +kernel⟩
  · exact ⟨_, _, _, _, _, .carq _, by decide +kernel⟩
  · exact ⟨_, _, _, _, _, .dpup _, by decide +kernel⟩
  · exact ⟨_, _, _, _, _, .pclu 0 0 _, by decide +kernel⟩
  · exact ⟨_, _, _, _, _, .step _, by decide +kernel⟩
  · exact ⟨_, _, _, _, _, .cap _, by decide +kernel⟩
  · exact ⟨_, _, _, _, _, .domctl _, by decide +kernel⟩
  · exact ⟨_, _, _, _, _, .mgring 0 _, by decide +kernel⟩
  · exact ⟨_, _, _, _, _, .pkmring _, by decide +kernel⟩

theorem witness_RegistersAreWritten_ranges : ∃ (off off' : Nat) (v v' rsv rsv' : DWord) (ok ok' : State → Prop) (val val' : State → DWord),
    RegRow (.carsegWrite 0 v) off v rsv ok val ∧ v &&& rsv = 0 ∧ ok keyed
    ∧ RegRow (.confRangeWrite 0 0 v') off' v' rsv' ok' val' ∧ v' &&& rsv' = 0 ∧ ok' keyed :=
  ⟨_, _, 0, 0x8000000000200001, _, _, _, _, _, _, .carseg 0 _, by decide +kernel, by decide +kernel, .conf 0 0 _, by decide +kernel,
    by decide +kernel, by decide +kernel, ⟨5, by decide +kernel⟩, by decide +kernel⟩

/-- A reserved bit, and a K exponent one too large. -/
theorem witness_RegistersAreWritten_refused : ∃ (off off' : Nat) (v v' rsv rsv' : DWord) (ok ok' : State → Prop) (val val' : State → DWord),
    RegRow (.nsctlWrite 0 v) off v rsv ok val ∧ v &&& rsv ≠ 0
    ∧ RegRow (.heatctlWrite 0 v') off' v' rsv' ok' val' ∧ v' &&& rsv' = 0 ∧ ¬ ok' keyed :=
  ⟨_, _, 0x10000, 17, _, _, _, _, _, _, .nsctl 0 _, by decide +kernel, .heatctl 0 _, by decide +kernel, by decide +kernel⟩

/-- A cluster that is not fused off and whose one core has one team, gated. -/
theorem witness_RegistersAreWritten_pgate : ∃ (s : State) (v : DWord) (c : CoreId) (q : Team), v &&& span 24 40 = 0 ∧ c.die = 0
    ∧ v.getLsbD c.cluster = true ∧ (s.mreg (dieBlock 0 + 0x38)).getLsbD c.cluster = false
    ∧ (fusedBit 0).getLsbD c.cluster = false ∧ s.cores = [{ s.core c with teams := [q] }] ∧ q.leave = none ∧ q.grid = 0
    ∧ c.cluster < 24 := by
  let k (n : Nat) : CoreId := ⟨0, n, 0⟩
  let s (n : Nat) : State := stateOf { coreOf (team0 id) with id := k n }
  have h (n : Nat) : (s n).cores = [{ (s n).core (k n) with teams := [team0 id] }] := by
    simp [s, k, stateOf, coreOf, State.core]
  by_cases h0 : (fusedBit 0).getLsbD 0 = false
  · exact ⟨s 0, 3, k 0, team0 id, by decide +kernel, rfl, by decide +kernel, by decide +kernel, h0, h 0, rfl, rfl, by decide⟩
  · refine ⟨s 1, 3, k 1, team0 id, by decide +kernel, rfl, by decide +kernel, by decide +kernel, ?_, h 1, rfl, rfl, by decide⟩
    unfold fusedBit at h0 ⊢
    revert h0
    generalize Config.fusedCluster 0 = f
    revert f
    decide +kernel

theorem witness_RegistersAreWritten_block : ∃ (v : DWord) (off bytes : Nat), v &&& (span 10 22 ||| span 36 28) = 0 ∧ v ≠ 0
    ∧ off < 0x1000000 ∧ (bytes ≠ 8 ∨ off % 8 ≠ 0) := ⟨0xF000003FF, 0xFFFFFC, 4, by decide +kernel⟩

theorem witness_RegistersAreWritten_flask : ∃ (s : State), (s.mreg 0x50).getLsbD 39 = true :=
  ⟨asked0 [(0x50, 0x8000000040)], by decide +kernel⟩

/-! The outside world. -/

/-- The counter stands at 2,000,000 ns: an input 1 ms behind is slewed to, and one further behind is stepped to. -/
theorem witness_OutsideEventsAct_ptp : ∃ (s : State), ((0 * 1000000000 + 999999 : Nat) : Int) - (s.ptpNanos : Int) = -1000001
    ∧ ((0 * 1000000000 + 1000000 : Nat) : Int) - (s.ptpNanos : Int) = -1000000
    ∧ ((0 * 1000000000 + 2000050 : Nat) : Int) - (s.ptpNanos : Int) = 50 :=
  ⟨asked0 [] fun s => { s with ptpBase := 2000000 }, by decide +kernel⟩

/-- A send to a port of package 3 is under way. -/
theorem witness_OutsideEventsAct_far : ∃ (s : State) (q : Req) (h : Word) (m : BitVec 512), (3 : Nat) ≠ s.pkgId ∧ s.req q.id = some q
    ∧ q.ask = .ksend h m none ∧ q.stage = .pending 5 ∧ q.far.map (·.1) = some 3 ∧ ∀ g ∈ s.grants, g.req ≠ q.id :=
  ⟨asking { sending (.pending 5) with far := some (3, 77) } [], { sending (.pending 5) with far := some (3, 77) }, 0x100, 9, by decide +kernel⟩

/-- Of two packages that cannot be reached one comes back. -/
theorem witness_OutsideEventsAct_reachable : ∃ (s : State), 3 ∈ s.unreachable ∧ 4 ∈ s.unreachable ∧ s.cores ≠ [] :=
  ⟨{ world [] [] [] with unreachable := [3, 4] }, by decide +kernel⟩

/-- A die core reset is in progress; and a pre-emption whose partition's Sprue is there. -/
theorem witness_OutsideEventsAct_watchdog : ∃ (s u : State) (r : MgmtReq), (∀ x ∈ s.restarts, x.1 ≠ 0) ∧ (s.die 0).reset = some r
    ∧ (∀ x ∈ s.preempts, x.done = true ∨ s.sprue x.part ≠ some 0)
    ∧ (∀ x ∈ u.restarts, x.1 ≠ 0) ∧ u.preempts = [preempt0] ∧ preempt0.done = false ∧ u.sprue preempt0.part = some 0 :=
  ⟨dieAt 2 fun d => { d with reset := some (mreq 2 0 0) },
    asked0 [(pcluReg 0 0, 1)] fun s => { s with dies := [{ die := 0, st := 2 }], preempts := [preempt0] }, mreq 2 0 0, by decide +kernel⟩

theorem witness_OutsideEventsAct_selftest : ∃ (s u : State) (k : Core), (s.core core0).withdrawn = false ∧ (s.core core0).teams = []
    ∧ k ∈ u.cores ∧ u.core k.id = k ∧ k.retest = true ∧ k.withdrawn = true :=
  ⟨context 1 false, stateOf { id := core0, withdrawn := true, retest := true }, { id := core0, withdrawn := true, retest := true },
    by decide +kernel⟩

/-- The last slot of the key table is the free one, in its last generation; and a live handle. -/
theorem witness_OutsideEventsAct_keys : ∃ (s u : State) (k : BitVec 512) (g : Nat), s.freeKey = some (255, BitVec.ofNat 8 g)
    ∧ g = 255 ∧ u.keyOf 0 = some (k, 0) :=
  ⟨{ world [] [] [] with keys := (List.range 256).map fun n => ⟨n, 255, if n = 255 then none else some (BitVec.ofNat 512 n, 0)⟩ }, keyed, 5, 255,
    by decide +kernel⟩

theorem witness_OutsideEventsAct_attestation : ∃ (s u : State), s.attIndex = 2 ^ 30 - 1 ∧ u.attIndex = 2 ^ 30 :=
  ⟨{ world [] [] [] with attIndex := 2 ^ 30 - 1 }, { world [] [] [] with attIndex := 2 ^ 30 }, rfl, rfl⟩

/-- A store of two bytes by the host to region 0, which is the host's, and to the same region while it is the
accelerator's; and a load where its owner is 3. -/
def access0 (w : Option (List Byte)) : HostAccess := { addr := 64, bytes := 2, write := w }

theorem witness_OutsideEventsAct_host : ∃ (s u v : State) (a b : HostAccess) (q : Bool × Nat), a.own = false ∧ b.own = false ∧ s.Inv ∧ a.addr < 2 ^ 41
    ∧ s.absentPa a.addr = false ∧ s.downKey (s.domKey a.addr) = false ∧ s.xfers = [] ∧ s.owner (s.domKey a.addr) = 2
    ∧ a.write = some [1, 2] ∧ (∀ k < a.bytes, s.confOf (s.domKey a.addr + k) = none) ∧ a.bytes = 2
    ∧ u.Inv ∧ u.absentPa a.addr = false ∧ u.downKey (u.domKey a.addr) = false ∧ u.xfers = []
    ∧ u.regionOf (u.domKey a.addr) = some q ∧ u.confOf (u.regionByte q) = none ∧ u.owner (u.domKey a.addr) = 1
    ∧ v.Inv ∧ v.absentPa b.addr = false ∧ v.downKey (v.domKey b.addr) = false ∧ v.xfers = [] ∧ b.addr < 2 ^ 41
    ∧ v.owner (v.domKey b.addr) ≠ 1 ∧ b.write = none ∧ v.regionOf (v.domKey b.addr) = some q
    ∧ (rgnEn v = true ∧ (regionAt v q).toNat % 4 = 3) :=
  ⟨owned 2, owned 1, owned 3, access0 (some [1, 2]), access0 none, (false, 0), rfl, rfl, ⟨rfl, rfl, rfl⟩, by decide +kernel, by decide +kernel,
    by decide +kernel, rfl, by decide +kernel, rfl, by decide +kernel, rfl, ⟨rfl, rfl, rfl⟩, by decide +kernel, by decide +kernel, rfl,
    by decide +kernel, by decide +kernel, by decide +kernel, ⟨rfl, rfl, rfl⟩, by decide +kernel⟩

/-- The host's own load, and its store of CONSUMED of a ring. -/
theorem witness_OutsideEventsAct_hostOwn : ∃ (a b : HostAccess), (world [] [] []).Inv ∧ a.own = true ∧ a.write = none
    ∧ b.own = true ∧ b.write = some [1, 0, 0, 0] ∧ b.bytes = 4 :=
  ⟨⟨0x1110, 4, none, true⟩, ⟨0x1110, 4, some [1, 0, 0, 0], true⟩, ⟨rfl, rfl, rfl⟩, rfl, rfl, rfl, rfl, rfl⟩

/-! Reset, encodings and steps. -/

/-- A descriptor of four roles of four waves each fails no check. -/
theorem witness_ResetAndStartStates : descFault (BitVec.ofNat 256 (15 + 3 * 2 ^ 4 + 64 * 2 ^ 16 + 0x03030303 * 2 ^ 32)) = none := by
  decide +kernel

/-- The reset state is in canonical form. -/
theorem witness_StepKeepsInvariant : State.reset.Inv := ⟨rfl, rfl, rfl⟩

/-- A word with every field in use. -/
theorem witness_WordsRoundTrip : ∃ (i : Instr) (e : Enc), encode i = some e ∧ i.WellFormed ∧ decodeWord e.cls e.word = .ok i :=
  ⟨.atb ⟨.always, 2, 5, 3, false, false, 8, 5, 2, 2, 0⟩, ⟨2, 0x02F8214C00008B20⟩, by decide +kernel, by decide +kernel, decodes (by decide +kernel)⟩

/-- A due event, with an outside one of the same cycle; and an outside one before it. -/
theorem witness_StepRunsDecoded_due : ∃ (s u : State) (e f : Nat × Due) (i : Instr) (o p : Nat × Instr), earliest s.cycle s.agenda = some e
    ∧ DueRow e.2 i ∧ earliest s.cycle s.inputs = some o ∧ e.1 ≤ o.1 ∧ earliest u.cycle u.inputs = some p
    ∧ earliest u.cycle u.agenda = some f ∧ p.1 < f.1 :=
  ⟨{ State.reset with inputs := [(0, .linkFailure)] }, { agenda := [(2, .resetRelease)], inputs := [(1, .linkFailure)], cycle := 3 },
    (0, .resetRelease), (2, .resetRelease), .resetRelease, (0, .linkFailure), (1, .linkFailure), by decide +kernel,
    .resetRelease, by decide +kernel⟩

/-- The threads of the run stand at word 1, which is this one, in a clause of class 2; or before a header. -/
def fetching (w : DWord) (mark : Bool) : State :=
  { worldW fun v => { v with threads := v.threads.map fun t => if t.pc = 1 then { t with mark := mark, hdr := (Header.plain 2).toWord } else t }
    with mem := memWrites [] (cellsAt 8 (bytesLE 8 w.toNat)) }

theorem nothing (w : DWord) (mark : Bool) (h : ((fetching w mark).focusActs) = true) : NothingDue (fetching w mark) := ⟨rfl, rfl, rfl, h⟩

theorem witness_StepRunsDecoded_entry : ∃ (s : State) (x : Ctx), NothingDue s ∧ s.focus = .wave wave0 ∧ s.ctxAt wave0 = some x
    ∧ (∀ a, a < 32 → (x.thread a).mtraps = []) ∧ ∃ a ∈ x.run, (x.thread a).mark = true :=
  ⟨fetching 0 true, hand (fetching 0 true), nothing 0 true (by decide +kernel), rfl, ctx_hand (s := fetching 0 true) (by decide +kernel),
    by decide +kernel, 0, by decide +kernel⟩

/-- A store's word, and a hole of class 2. -/
theorem witness_StepRunsDecoded_word : ∃ (s u : State) (x z : Ctx) (i : Instr) (r : Reject), NothingDue s ∧ s.focus = .wave wave0
    ∧ s.ctxAt wave0 = some x ∧ (∀ a, a < 32 → (x.thread a).mtraps = [])
    ∧ (∀ a ∈ x.run, (x.thread a).mark = false ∧ (x.thread a).deny = none)
    ∧ (x.fetch x.pc).2 = .word 0x01F8404400000040
    ∧ decodeWord (Header.ofWord (x.thread (x.run.headD 0)).hdr).cls.toNat 0x01F8404400000040 = .ok i
    ∧ NothingDue u ∧ u.focus = .wave wave0 ∧ u.ctxAt wave0 = some z ∧ (∀ a ∈ z.run, (z.thread a).mark = false ∧ (z.thread a).deny = none)
    ∧ WordAt z z.pc 0xFFF8000000000000
    ∧ decodeWord (Header.ofWord (z.thread (z.run.headD 0)).hdr).cls.toNat 0xFFF8000000000000 = .error r
    ∧ z.room (z.rcdKeys z.run) = true := by
  refine ⟨fetching 0x01F8404400000040 false, fetching 0xFFF8000000000000 false, hand (fetching 0x01F8404400000040 false),
    hand (fetching 0xFFF8000000000000 false), .stb ⟨.always, 4, 1, 1, false, false, 0, 0, 0, 4, 0⟩, .hole, nothing _ _ (by decide +kernel), rfl,
    ctx_hand (s := fetching 0x01F8404400000040 false) (by decide +kernel), by decide +kernel, by decide +kernel, by decide +kernel,
    decodes (by decide +kernel), nothing _ _ (by decide +kernel), rfl,
    ctx_hand (s := fetching 0xFFF8000000000000 false) (by decide +kernel), by decide +kernel, ?_, rejected (by decide +kernel),
    room_free (by decide +kernel) _⟩
  unfold WordAt
  decide +kernel

/-- MNOP; and a hole of class 4, with the engine idle and with the stream's earlier word in it. -/
theorem witness_StepRunsDecoded_stream : ∃ (s u v : State) (q r p : Team) (w h : DWord), NothingDue s ∧ s.focus = .seq core0 1
    ∧ (s.core core0).team 1 = some q ∧ q.seq.word = some w ∧ (decodeWord 4 w).isOk = true
    ∧ NothingDue u ∧ u.focus = .seq core0 1 ∧ (u.core core0).team 1 = some r ∧ r.seq.word = some h ∧ (decodeWord 4 h).isOk = false
    ∧ r.seq.busy = false ∧ r.recorder = some (0, 1)
    ∧ NothingDue v ∧ v.focus = .seq core0 1 ∧ (v.core core0).team 1 = some p ∧ p.seq.word = some h ∧ p.seq.busy = true := by
  let q (w : DWord) (e : Option (Instr × List Word)) : Team := team0 fun q => { q with
    seq := { m := [0, 5] ++ List.replicate 14 0, spc := 8, run := true, recorder := some (0, 1), word := some w, engine := e } }
  let s (w : DWord) (e : Option (Instr × List Word)) : State := { stateOf (coreOf (q w e)) with focus := .seq core0 1 }
  let e : Option (Instr × List Word) := some (.mzero (ms0 0 7 0), [])
  exact ⟨s 0x0B00000000000000 none, s 0xFF00000000000000 none, s 0xFF00000000000000 e, q 0x0B00000000000000 none, q 0xFF00000000000000 none,
    q 0xFF00000000000000 e, 0x0B00000000000000, 0xFF00000000000000,
    ⟨rfl, rfl, rfl, by decide +kernel⟩, rfl, by decide +kernel, rfl, by decide +kernel,
    ⟨rfl, rfl, rfl, by decide +kernel⟩, rfl, by decide +kernel, rfl, by decide +kernel, by decide +kernel, by decide +kernel,
    ⟨rfl, rfl, rfl, by decide +kernel⟩, rfl, by decide +kernel, rfl, by decide +kernel⟩

end Sys2Proof.Tests
end

