-- ==== Sys2Proof/Tests/Serve.lean ====
section
/-! SUPPORT. Witnesses: for each row of a request's serving, a concrete state that meets all that `CrucibleServes` and the row ask. -/

namespace Sys2Proof.Tests

set_option Elab.async false

open Sys2Proof.Machine Sys2Proof.Claims

/-- Process 1 asks this of die 0, with these objects and, from address 8192 on, these handles: index, object, KIND; every right.
Handle `k` has generation 0.  The process's page 0 is mapped. -/
def served (a : Ask) (os : List (Nat × BitVec 512)) (hs : List (Nat × Nat × Nat)) (f : State → State := id) : State :=
  f (mapped fun s => { s with
    reqs := [ask a (.queued 0 none)], objs := (1, mkObj [(0, 4, 1), (4, 4, 1), (64, 57, 8192), (128, 24, 4)]) :: os
    mem := hs.foldl (fun m h => memWrites m (cellsAt (8192 + 8 * h.1) (bytesLE 8 (h.2.1 + 0xFF * 2 ^ 32 + h.2.2 * 2 ^ 40)))) s.mem })

/-- What `CrucibleServes` asks of every row. -/
def reached (s : State) (q : Req) (i : Nat) : Bool :=
  (s.heldParts 0).isEmpty && s.nextReq 0 [] == some q && s.live 0 && s.reqs.all (fun r => r.id != q.id || r == q)
    && (s.resolve q).getRight? == some i && (q.ask.handles.isEmpty || objHome i == 0)

/-- The row's conditions and those are met. -/
def Meets (s : State) (a : Ask) (i : Nat) : Prop :=
  reached s (ask a (.queued 0 none)) i = true ∧ ∃ post, ServeRow s (ask a (.queued 0 none)) i post

theorem meets {s : State} {a : Ask} {i : Nat} {post : State → Prop} (r : ServeRow s (ask a (.queued 0 none)) i post)
    (h : reached s (ask a (.queued 0 none)) i = true) : Meets s a i := ⟨h, post, r⟩

/-! KSEND and KRECV. -/

/-- Port 5 of two, with grant slots for `n` 4 KiB pages at virtual address 65,536, those of `used` taken, and these messages. -/
def portOf (n used : Nat) (ms : List PortMsg) (a : Ask) (f : State → State := id) : State :=
  served a [(5, mkObj [(0, 4, 3), (4, 4, 1), (64, 9, 2), (80, 9, ms.length), (192, 57, 65536), (251, 6, n), (320, 64, used)])] [(1, 5, 3)]
    fun s => f { s with ports := [{ port := 5, msgs := ms }] }

def old0 : PortMsg := ⟨1, 1, 0, none, none⟩

/-- A grant of the page at this virtual address, to read. -/
def pair (va : Nat) : DWord := BitVec.ofNat 64 (va + 4)

theorem witness_CrucibleServes_sendFull : Meets (portOf 0 0 [old0, old0] (.ksend 0x100 9 none)) (.ksend 0x100 9 none) 5 :=
  meets (.sendFull _ _ _ rfl (by decide +kernel) (by decide +kernel)) (by decide +kernel)

theorem witness_CrucibleServes_sendOne : Meets (portOf 0 0 [old0] (.ksend 0x100 9 none)) (.ksend 0x100 9 none) 5
    ∧ Alone (portOf 0 0 [old0] (.ksend 0x100 9 none)) 5 :=
  ⟨meets (.send _ _ rfl (by decide +kernel) (by decide +kernel)) (by decide +kernel),
    roomy (by decide +kernel), by unfold Cached; decide +kernel, by decide +kernel⟩

theorem witness_CrucibleServes_sendNoGrants : Meets (portOf 0 0 [old0] (.ksend 0x100 9 (some (pair 0)))) (.ksend 0x100 9 (some (pair 0))) 5 :=
  meets (.sendNoGrants _ _ _ rfl (by decide +kernel) (by decide +kernel)) (by decide +kernel)

theorem witness_CrucibleServes_sendUnmapped :
    Meets (portOf 2 0 [old0] (.ksend 0x100 9 (some (pair 4096)))) (.ksend 0x100 9 (some (pair 4096))) 5 :=
  meets (.sendUnmapped _ _ _ rfl (by decide +kernel) (by decide +kernel) (by decide +kernel) (by decide +kernel)) (by decide +kernel)

theorem witness_CrucibleServes_sendGrant : Meets (portOf 2 0 [old0] (.ksend 0x100 9 (some (pair 0)))) (.ksend 0x100 9 (some (pair 0))) 5 :=
  meets (.sendGrant _ _ _ ⟨4096, 0, 1⟩ rfl (by decide +kernel) (by decide +kernel) (by decide +kernel) (by decide +kernel)
    (by decide +kernel)) (by decide +kernel)

/-- A far port of package 3, with the domain ports up or down. -/
def farPort (up : Bool) (a : Ask) : State :=
  served a [(5, mkObj [(0, 4, 3), (4, 4, 1), (96, 11, 3), (192, 256, 77)])] [(1, 5, 3)] fun s => { s with
    mgmt := (0x50, if up then 0x7F00000000 else 0) :: (0x08, BitVec.ofNat 64 (1 + 3 * 2 ^ 16)) :: s.mgmt }

theorem witness_CrucibleServes_forwarded : Meets (farPort true (.ksend 0x100 9 none)) (.ksend 0x100 9 none) 5 :=
  meets (.forwarded _ _ _ rfl (by decide +kernel) (by decide +kernel)) (by decide +kernel)

theorem witness_CrucibleServes_unreached : Meets (farPort false (.ksend 0x100 9 none)) (.ksend 0x100 9 none) 5 :=
  meets (.unreached _ _ _ rfl (by decide +kernel) (by decide +kernel)) (by decide +kernel)

theorem witness_CrucibleServes_recvEmpty : Meets (portOf 0 0 [] (.krecv 0x100 64)) (.krecv 0x100 64) 5 :=
  meets (.recvEmpty _ _ rfl (by decide +kernel)) (by decide +kernel)

theorem witness_CrucibleServes_recv : Meets (portOf 0 0 [old0] (.krecv 0x100 64)) (.krecv 0x100 64) 5 :=
  meets (.recv _ _ old0 [] rfl (by decide +kernel) (by decide +kernel) rfl) (by decide +kernel)

def granted0 : PortMsg := { old0 with page := some ⟨4096, 0, 1⟩ }

theorem witness_CrucibleServes_recvNoSlot : Meets (portOf 2 3 [granted0] (.krecv 0x100 64)) (.krecv 0x100 64) 5 :=
  meets (.recvNoSlot _ _ granted0 [] ⟨4096, 0, 1⟩ rfl (by decide +kernel) rfl (by decide +kernel)) (by decide +kernel)

/-- The second of two grant slots is free. -/
theorem witness_CrucibleServes_recvGrant : Meets (portOf 2 1 [granted0] (.krecv 0x100 64)) (.krecv 0x100 64) 5 :=
  meets (.recvGrant _ _ 1 granted0 [] ⟨4096, 0, 1⟩ rfl (by decide +kernel)
    ⟨roomy (by decide +kernel), by unfold Cached; decide +kernel, by decide +kernel⟩ (by decide +kernel) rfl (by decide +kernel)
    (by decide +kernel) (by decide +kernel)) (by decide +kernel)

/-! KWAIT. -/

/-- Wait set 5 with these members, those of `rdy` ready, and this waiter. -/
def wsetOf (mem rdy w next : Nat) (a : Ask) (os : List (Nat × BitVec 512) := []) (hs : List (Nat × Nat × Nat) := []) (refs : Nat := 2) : State :=
  served a ((5, mkObj [(0, 4, 4), (4, 4, 1), (32, 16, refs), (64, 64, rdy), (128, 64, mem), (192, 24, w), (216, 6, next)]) :: os) ((1, 5, 4) :: hs)

theorem witness_CrucibleServes_waitClash : Meets (wsetOf 3 0 8 0 (.kwait 0x100 7)) (.kwait 0x100 7) 5 :=
  meets (.waitClash _ _ rfl (by decide +kernel)) (by decide +kernel)

theorem witness_CrucibleServes_waitEmpty : Meets (wsetOf 0 0 0 0 (.kwait 0x100 7)) (.kwait 0x100 7) 5 :=
  meets (.waitEmpty _ _ rfl (by decide +kernel) (by decide +kernel)) (by decide +kernel)

/-- NEXT stands behind the one ready member. -/
theorem witness_CrucibleServes_waitReady : Meets (wsetOf 3 2 0 2 (.kwait 0x100 7)) (.kwait 0x100 7) 5 :=
  meets (.waitReady _ _ 1 rfl (by decide +kernel) (roomy (by decide +kernel)) (by unfold Cached; decide +kernel) (by decide +kernel)
    (by decide +kernel)) (by decide +kernel)

theorem witness_CrucibleServes_waitNot : Meets (wsetOf 3 4 0 0 (.kwait 0x100 0)) (.kwait 0x100 0) 5 :=
  meets (.waitNot _ rfl (by decide +kernel) (by decide +kernel) (by decide +kernel)) (by decide +kernel)

theorem witness_CrucibleServes_waits : Meets (wsetOf 3 0 0 0 (.kwait 0x100 7)) (.kwait 0x100 7) 5
    ∧ Meets (wsetOf 3 0 0 0 (.kwait 0x100 0xFFFFFFFF)) (.kwait 0x100 0xFFFFFFFF) 5 :=
  ⟨meets (.waits _ _ rfl (by decide +kernel) (by decide +kernel) (by decide +kernel) (by decide +kernel) (by decide +kernel))
      (by decide +kernel),
    meets (.waits _ _ rfl (by decide +kernel) (by decide +kernel) (by decide +kernel) (by decide +kernel) (by decide +kernel))
      (by decide +kernel)⟩

/-! KARM, KCANCEL, KBIND and KUNBIND. -/

/-- Timer 6 in this state, bound at index 3 of wait set 5, or unbound. -/
def timerRec (st : Nat) (bound : Bool) : BitVec 512 := mkObj [(0, 4, 5), (4, 4, st), (64, 64, 40), (448, 24, if bound then 5 else 0), (472, 6, if bound then 3 else 0)]

def timerOf (st : Nat) (bound : Bool) (a : Ask) : State :=
  served a [(5, mkObj [(0, 4, 4), (4, 4, 1), (32, 16, 2), (64, 64, 8), (128, 64, 8)]), (6, timerRec st bound)] [(1, 6, 5)]

theorem witness_CrucibleServes_arm : Meets (timerOf 1 false (.karm 0x100 50 false 7)) (.karm 0x100 50 false 7) 6
    ∧ Meets (timerOf 1 false (.karm 0x100 50 true 0)) (.karm 0x100 50 true 0) 6 :=
  ⟨meets (.arm _ _ _ _ rfl (by decide +kernel) (by decide +kernel)) (by decide +kernel),
    meets (.arm _ _ _ _ rfl (by decide +kernel) (by decide +kernel)) (by decide +kernel)⟩

theorem witness_CrucibleServes_armBound : Meets (timerOf 3 true (.karm 0x100 50 false 0)) (.karm 0x100 50 false 0) 6 :=
  meets (.armBound _ _ _ _ 5 rfl (by decide +kernel) (by decide +kernel) (by decide +kernel) (by decide +kernel) (by decide +kernel)
    (roomy (by decide +kernel)) (by unfold Cached; decide +kernel) (by decide +kernel)) (by decide +kernel)

theorem witness_CrucibleServes_cancelIdle : Meets (timerOf 1 false (.kcancel 0x100)) (.kcancel 0x100) 6 :=
  meets (.cancelIdle _ rfl (by decide +kernel)) (by decide +kernel)

theorem witness_CrucibleServes_cancel : Meets (timerOf 2 false (.kcancel 0x100)) (.kcancel 0x100) 6 :=
  meets (.cancel _ rfl (by decide +kernel) (by decide +kernel) (by decide +kernel)) (by decide +kernel)

/-- Wait set 5 with member bits `mem`, and timer 6, fired, bound or not; their handles are 1 and 2. -/
def binding (mem : Nat) (bound : Bool) (a : Ask) : State := wsetOf mem mem 0 0 a [(6, timerRec 3 bound)] [(2, 6, 5)]

theorem witness_CrucibleServes_bindClash : Meets (binding 8 false (.kbind 0x100 0x200 67)) (.kbind 0x100 0x200 67) 5 :=
  meets (.bindClash _ _ _ 6 0xFF 5 rfl (by decide +kernel) (by decide +kernel)) (by decide +kernel)

theorem witness_CrucibleServes_bind : Meets (binding 0 false (.kbind 0x100 0x200 67)) (.kbind 0x100 0x200 67) 5 :=
  meets (.bind _ _ _ 6 0xFF 5 rfl (by decide +kernel) (by decide +kernel) (by decide +kernel) (by decide +kernel) (by decide +kernel)
    (by decide +kernel) (by decide +kernel) (roomy (by decide +kernel)) (by unfold Cached; decide +kernel)
    (by unfold Cached; decide +kernel) (by decide +kernel)) (by decide +kernel)

theorem witness_CrucibleServes_unbindEmpty : Meets (binding 0 false (.kunbind 0x100 3)) (.kunbind 0x100 3) 5 :=
  meets (.unbindEmpty _ _ rfl (by decide +kernel)) (by decide +kernel)

theorem witness_CrucibleServes_unbind : Meets (binding 8 true (.kunbind 0x100 67)) (.kunbind 0x100 67) 5 :=
  meets (.unbind _ _ 6 rfl (by decide +kernel) (by decide +kernel) (by decide +kernel) (by decide +kernel) (by decide +kernel)
    (roomy (by decide +kernel)) (by unfold Cached; decide +kernel) (by unfold Cached; decide +kernel) (by decide +kernel)
    (by unfold NothingToFeed; decide +kernel)) (by decide +kernel)

/-! KDUP, KDROP and KINFO. -/

/-- Every handle of the process is taken. -/
theorem witness_CrucibleServes_dupFull : Meets (wsetOf 0 0 0 0 (.kdup 0x100 0x7F) [] [(2, 5, 4), (3, 5, 4)]) (.kdup 0x100 0x7F) 5 :=
  meets (.dupFull _ _ rfl (by decide +kernel)) (by decide +kernel)

theorem witness_CrucibleServes_dup : Meets (wsetOf 0 0 0 0 (.kdup 0x100 0x7F)) (.kdup 0x100 0x7F) 5
    ∧ (wsetOf 0 0 0 0 (.kdup 0x100 0x7F)).Inv ∧ Roomy (wsetOf 0 0 0 0 (.kdup 0x100 0x7F)) ∧ Cached (wsetOf 0 0 0 0 (.kdup 0x100 0x7F)) 1 :=
  ⟨meets (.dup _ _ 0xFF 4 2 rfl (by decide +kernel) (by decide +kernel) (by decide +kernel) (by decide +kernel)) (by decide +kernel),
    ⟨by decide +kernel, by decide +kernel, by decide +kernel⟩, roomy (by decide +kernel), by unfold Cached; decide +kernel⟩

theorem witness_CrucibleServes_drop : Meets (wsetOf 0 0 0 0 (.kdrop 0x100)) (.kdrop 0x100) 5 :=
  meets (.drop _ 0xFF 4 rfl (by decide +kernel) (by decide +kernel) (by unfold Cached; decide +kernel) (by decide +kernel)
    (by unfold NothingToFeed; decide +kernel)) (by decide +kernel)

theorem witness_CrucibleServes_dropLast : Meets (wsetOf 0 0 0 0 (.kdrop 0x100) [] [] 1) (.kdrop 0x100) 5 :=
  meets (.dropLast _ 0xFF 4 rfl (by decide +kernel) (by unfold Cached; decide +kernel) (by decide +kernel) (by decide +kernel)
    (by unfold NothingToFeed; decide +kernel) (by decide +kernel) (by decide +kernel)) (by decide +kernel)

theorem witness_CrucibleServes_info : Meets (portOf 0 0 [old0] (.kinfo 0x100 3)) (.kinfo 0x100 3) 5 :=
  meets (.info _ _ (fun r => fld r 80 9) rfl (by
    rw [show objKind (State.obj (portOf 0 0 [old0] (.kinfo 0x100 3)) 5) = 3 by decide +kernel]
    exact .qlen)) (by decide +kernel)

theorem witness_CrucibleServes_noInfo : Meets (portOf 0 0 [old0] (.kinfo 0x100 5)) (.kinfo 0x100 5) 5 :=
  meets (.noInfo _ _ rfl fun f h => by
    rw [show objKind (State.obj (portOf 0 0 [old0] (.kinfo 0x100 5)) 5) = 3 by decide +kernel] at h
    cases h) (by decide +kernel)

/-! KWAVE, names and work. -/

/-- The launch block of a team whose descriptor is at this virtual address, on the dies of AFF. -/
def block (va aff low : Nat) : BitVec 768 := BitVec.ofNat 768 (low + va * 2 ^ 64 + aff * 2 ^ 128 + 3 * 2 ^ 144 + 7 * 2 ^ 256)

/-- Descriptors at physical address 4,160 and, one without a wave's registers, at 4,192; ids 6 to 9 of die 0 are the partition's. -/
def waving (a : Ask) (hs : List (Nat × Nat × Nat) := []) (f : State → State := id) : State :=
  served a [] hs fun s => f { s with
    mem := memWrites (memWrites s.mem (cellsAt 4160 (bytesLE 32 (desc0 false).toNat))) (cellsAt 4192 (bytesLE 32 0))
    mgmt := (oidLo 0 0, 6) :: (oidHi 0 0, 9) :: s.mgmt }

def waveAsk (va aff low : Nat) : Ask := .kwave (block va aff low) []

def dying (s : State) : State := { s with objs := [(1, mkObj [(0, 4, 1), (4, 4, 2), (64, 57, 8192), (128, 24, 4)])] }

theorem reads (va aff : Nat) (d : Rec256) (hs : List (Nat × Nat × Nat)) (f : State → State)
    (h : decide ((waving (waveAsk va aff 0) hs f).dying 1 = false ∧ (block va aff 0).extractLsb' 48 16 = 0
      ∧ (block va aff 0).extractLsb' 121 7 = 0 ∧ (block va aff 0).extractLsb' 147 109 = 0
      ∧ (waving (waveAsk va aff 0) hs f).vreadNat 0 1 (blockDesc (block va aff 0)) 32 = some d.toNat) = true) :
    WaveReads (waving (waveAsk va aff 0) hs f) (ask (waveAsk va aff 0) (.queued 0 none)) (block va aff 0) d :=
  have h := of_decide_eq_true h
  ⟨h.1, ⟨h.2.1, h.2.2.1, h.2.2.2.1⟩, h.2.2.2.2⟩

theorem witness_CrucibleServes_waveDying : Meets (waving (waveAsk 64 1 0) [] dying) (waveAsk 64 1 0) 0 :=
  meets (.waveDying _ _ rfl (by decide +kernel)) (by decide +kernel)

theorem witness_CrucibleServes_waveReserved : Meets (waving (waveAsk 64 1 (2 ^ 48))) (waveAsk 64 1 (2 ^ 48)) 0 :=
  meets (.waveReserved _ _ rfl (by decide +kernel) (fun h => absurd h.1 (by decide +kernel))) (by decide +kernel)

theorem witness_CrucibleServes_waveUnread : Meets (waving (waveAsk 4096 1 0)) (waveAsk 4096 1 0) 0 :=
  meets (.waveUnread _ _ rfl (by decide +kernel) ⟨by decide +kernel, by decide +kernel, by decide +kernel⟩ (by decide +kernel))
    (by decide +kernel)

theorem witness_CrucibleServes_waveDesc : Meets (waving (waveAsk 96 1 0)) (waveAsk 96 1 0) 0 :=
  meets (.waveDesc _ _ 0 ((descFault 0).getD 0) rfl (reads _ _ _ _ _ (by decide +kernel)) (by decide +kernel)) (by decide +kernel)

theorem witness_CrucibleServes_waveNoDie : Meets (waving (waveAsk 64 2 0)) (waveAsk 64 2 0) 0 :=
  meets (.waveNoDie _ _ (desc0 false) rfl (reads _ _ _ _ _ (by decide +kernel)) (by decide +kernel) (by decide +kernel)) (by decide +kernel)

/-- No handle is free; or no id of the die is the partition's. -/
theorem witness_CrucibleServes_waveFull :
    Meets (waving (waveAsk 64 1 0) [(1, 5, 4), (2, 5, 4), (3, 5, 4)]) (waveAsk 64 1 0) 0
    ∧ Meets (waving (waveAsk 64 1 0) [] fun s => { s with mgmt := [(pcluReg 0 0, 1)] }) (waveAsk 64 1 0) 0 :=
  ⟨meets (.waveFull _ _ (desc0 false) 0 1 rfl (reads _ _ _ _ _ (by decide +kernel)) (by decide +kernel) (by decide +kernel)
      (Or.inl (by decide +kernel))) (by decide +kernel),
    meets (.waveFull _ _ (desc0 false) 0 5 rfl (reads _ _ _ _ _ (by decide +kernel)) (by decide +kernel) (by decide +kernel)
      (Or.inr (Or.inl (by decide +kernel)))) (by decide +kernel)⟩

theorem witness_CrucibleServes_wave : Meets (waving (waveAsk 64 1 0)) (waveAsk 64 1 0) 0 :=
  meets (.wave _ _ (desc0 false) 0 1 6 rfl (reads _ _ _ _ _ (by decide +kernel)) (by decide +kernel) (by decide +kernel)
    (by decide +kernel) (by decide +kernel) (by decide +kernel) (by decide +kernel) (roomy (by decide +kernel))
    (by unfold Cached; decide +kernel)) (by decide +kernel)

theorem witness_CrucibleServes_look : Meets (served (.klook true 77) [] []) (.klook true 77) 0 :=
  meets (.look _ _ rfl) (by decide +kernel)

/-- The process has a free handle, but the partition no id. -/
theorem witness_CrucibleServes_nameFull : Meets (portOf 0 0 [] (.kname 0x100 77)) (.kname 0x100 77) 5 :=
  meets (.nameFull _ _ 5 rfl (Or.inr (by decide +kernel))) (by decide +kernel)

theorem witness_CrucibleServes_name :
    Meets (portOf 0 0 [] (.kname 0x100 77) fun s => { s with mgmt := (oidLo 0 0, 6) :: (oidHi 0 0, 9) :: s.mgmt }) (.kname 0x100 77) 5 :=
  meets (.name _ _ 2 6 rfl (by decide +kernel) (by decide +kernel)) (by decide +kernel)

theorem witness_CrucibleServes_next :
    Meets (served (.knext 0x100 64) [(5, mkObj [(0, 4, 7), (4, 4, 1), (64, 32, 8), (96, 16, 3)])] [(1, 5, 7)]) (.knext 0x100 64) 5 :=
  meets (.next _ _ rfl) (by decide +kernel)

/-! Another package's send. -/

def farAsk (g : Option Page) : Ask := .far 3 1 2 9 77 5 9 g

/-- Port 5 with room for `n` messages and `k` grants of 4 KiB, named by NAME 9. -/
def farServed (n k : Nat) (a : Ask) : State :=
  served a [(5, mkObj [(0, 4, 3), (4, 4, 1), (64, 9, n), (251, 6, k)]), (9, mkObj [(0, 4, 8), (4, 4, 1), (64, 24, 5), (256, 256, 77)])] []

theorem witness_CrucibleServes_arrives : Meets (farServed 2 0 (farAsk none)) (farAsk none) 0
    ∧ Meets (farServed 2 1 (farAsk (some ⟨4096, 0, 1⟩))) (farAsk (some ⟨4096, 0, 1⟩)) 0 :=
  ⟨meets (.arrives _ _ _ _ _ _ _ _ rfl (by decide +kernel) (by decide +kernel) (by decide +kernel) (by decide +kernel)
      (fun _ h => by cases h)) (by decide +kernel),
    meets (.arrives _ _ _ _ _ _ _ _ rfl (by decide +kernel) (by decide +kernel) (by decide +kernel) (by decide +kernel)
      (fun _ h => by cases h; decide +kernel)) (by decide +kernel)⟩

/-- The port has no room. -/
theorem witness_CrucibleServes_turnedAway : Meets (farServed 0 0 (farAsk none)) (farAsk none) 0 :=
  meets (.turnedAway _ _ _ _ _ _ _ _ rfl (Or.inr (Or.inr (Or.inr (Or.inl (by decide +kernel)))))) (by decide +kernel)

/-! Homes that are not the die's, or not live. -/

/-- Port `2 ^ 21 + 5`, homed on die 1, which is in state `st`. -/
def away (st : Nat) : State :=
  served (.ksend 0x100 9 none) [(2 ^ 21 + 5, port5)] [(1, 2 ^ 21 + 5, 3)] fun s => { s with dies := s.dies ++ [{ die := 1, st := st }] }

theorem witness_CrucibleServes_forward : ∃ (s : State) (q : Req) (i : Nat), s.heldParts 0 = [] ∧ s.nextReq 0 [] = some q ∧ s.live 0 = true
    ∧ (∀ r ∈ s.reqs, r.id = q.id → r = q) ∧ (s.resolve q).getRight? = some i ∧ q.ask.handles ≠ [] ∧ objHome i = 1 :=
  ⟨away 2, ask (.ksend 0x100 9 none) (.queued 0 none), 2 ^ 21 + 5, by decide +kernel⟩

theorem witness_CrucibleServes_deadHome : ∃ (s : State) (q : Req), s.heldParts 0 = [] ∧ s.nextReq 0 [] = some q ∧ s.live 0 = true
    ∧ q.ask.handles.findIdx? (s.badHandle q.proc) = none ∧ q.ask.handles.findIdx? (s.noRight q.proc) = none
    ∧ ∃ h ∈ q.ask.handles, (s.handle q.proc h.1).map (fun o => s.live (objHome o.1)) = some false :=
  ⟨away 1, ask (.ksend 0x100 9 none) (.queued 0 none), by decide +kernel⟩

theorem witness_CrucibleServes_deadDie : ∃ (s : State) (q : Req), s.heldParts 0 = [] ∧ s.nextReq 0 [] = some q ∧ s.live 0 = false :=
  ⟨{ away 2 with dies := [{ die := 0, st := 1 }] }, ask (.ksend 0x100 9 none) (.queued 0 none), by decide +kernel⟩

end Sys2Proof.Tests
end

