-- ==== Sys2Proof/Tests/Words.lean ====
section
/-! SUPPORT. A word of every instruction, laid out by hand from R39 to R52 and the operand tables of its chapter, with the
instruction it stands for. -/

namespace Sys2Proof.Tests

set_option Elab.async false

open Sys2Proof.Machine

/-- Each word decodes, in its class, to its instruction. -/
def decodeAll (c : Nat) (l : List (DWord × Instr)) : Bool := l.all fun p => decodesTo c p.1 == some p.2

def words0a : List (DWord × Instr) := [
  (0x002C210600348000, .iadd ⟨⟨5, true⟩, 2, 4, 6, 0, false, false, false, false, 13, 0, true, 0, 0, 0⟩),
  (0x802C3140FFFFFF80, .iaddImm ⟨⟨5, true⟩, 3, 5, false, false, 0, 4294967168⟩),
  (0x012C210600348000, .isub ⟨⟨5, true⟩, 2, 4, 6, 0, false, false, false, false, 13, 0, true, 0, 0, 0⟩),
  (0x812C3140FFFFFF80, .isubImm ⟨⟨5, true⟩, 3, 5, false, false, 0, 4294967168⟩),
  (0x022C210620148000, .iadd3 ⟨⟨5, true⟩, 2, 4, 6, 8, false, false, false, false, 5, 0, true, 0, 0, 0⟩),
  (0x032C314724142C00, .iaddc ⟨⟨5, true⟩, 3, 5, 7, 9, false, false, false, false, 5, 0, false, 11, 0, 0⟩),
  (0x042C210600348000, .imul ⟨⟨5, true⟩, 2, 4, 6, 0, false, false, false, false, 13, 0, true, 0, 0, 0⟩),
  (0x842C3140FFFFFF80, .imulImm ⟨⟨5, true⟩, 3, 5, false, false, 0, 4294967168⟩),
  (0x052C210600380000, .imulh ⟨⟨5, true⟩, 2, 4, 6, 0, false, false, false, false, 14, 0, false, 0, 0, 0⟩),
  (0x852C210E87654321, .imulhImm ⟨⟨5, true⟩, 2, 4, false, false, 14, 2271560481⟩),
  (0x062C210620148000, .imad ⟨⟨5, true⟩, 2, 4, 6, 8, false, false, false, false, 5, 0, true, 0, 0, 0⟩),
  (0x072C214720108000, .imadw ⟨⟨5, true⟩, 2, 5, 7, 8, false, false, false, false, 4, 0, true, 0, 0, 0⟩),
  (0x082C210600380000, .imin ⟨⟨5, true⟩, 2, 4, 6, 0, false, false, false, false, 14, 0, false, 0, 0, 0⟩),
  (0x882C3140FFFFFF80, .iminImm ⟨⟨5, true⟩, 3, 5, false, false, 0, 4294967168⟩),
  (0x092C210600380000, .imax ⟨⟨5, true⟩, 2, 4, 6, 0, false, false, false, false, 14, 0, false, 0, 0, 0⟩),
  (0x892C3140FFFFFF80, .imaxImm ⟨⟨5, true⟩, 3, 5, false, false, 0, 4294967168⟩),
  (0x0A2C314000088000, .iabs ⟨⟨5, true⟩, 3, 5, 0, 0, false, false, false, false, 2, 0, true, 0, 0, 0⟩),
  (0x0B2C314000088000, .ineg ⟨⟨5, true⟩, 3, 5, 0, 0, false, false, false, false, 2, 0, true, 0, 0, 0⟩),
  (0x0C2C310600B40140, .icmp ⟨⟨5, true⟩, 3, 4, 6, 0, false, false, true, false, 13, 0, false, 0, 5, 0⟩),
  (0xE22C310D00000007, .icmpImm 2 ⟨⟨5, true⟩, 3, 4, false, false, 13, 7⟩),
  (0x0D2C314700142C00, .isel ⟨⟨5, true⟩, 3, 5, 7, 0, false, false, false, false, 5, 0, false, 11, 0, 0⟩),
  (0x0E2C21070010000F, .lea ⟨⟨5, true⟩, 2, 4, 7, 0, false, false, false, false, 4, 0, false, 0, 0, 15⟩),
  (0x8E2C2104FFFFFFFE, .leaImm ⟨⟨5, true⟩, 2, 4, false, false, 4, 4294967294⟩),
  (0x0F2C210620040000, .clamp ⟨⟨5, true⟩, 2, 4, 6, 8, false, false, false, false, 1, 0, false, 0, 0, 0⟩)]

theorem test_decode_words0a : decodeAll 0 words0a = true := by decide +kernel

def words0b : List (DWord × Instr) := [
  (0x102C210600380000, .and ⟨⟨5, true⟩, 2, 4, 6, 0, false, false, false, false, 14, 0, false, 0, 0, 0⟩),
  (0x902C315512345678, .andImm ⟨⟨5, true⟩, 3, 5, false, true, 5, 305419896⟩),
  (0x112C210600380000, .or ⟨⟨5, true⟩, 2, 4, 6, 0, false, false, false, false, 14, 0, false, 0, 0, 0⟩),
  (0x912C315512345678, .orImm ⟨⟨5, true⟩, 3, 5, false, true, 5, 305419896⟩),
  (0x122C210600380000, .xor ⟨⟨5, true⟩, 2, 4, 6, 0, false, false, false, false, 14, 0, false, 0, 0, 0⟩),
  (0x922C315512345678, .xorImm ⟨⟨5, true⟩, 3, 5, false, true, 5, 305419896⟩),
  (0x132C210600380000, .andn ⟨⟨5, true⟩, 2, 4, 6, 0, false, false, false, false, 14, 0, false, 0, 0, 0⟩),
  (0x932C315512345678, .andnImm ⟨⟨5, true⟩, 3, 5, false, true, 5, 305419896⟩),
  (0x142C210600380000, .orn ⟨⟨5, true⟩, 2, 4, 6, 0, false, false, false, false, 14, 0, false, 0, 0, 0⟩),
  (0x942C315512345678, .ornImm ⟨⟨5, true⟩, 3, 5, false, true, 5, 305419896⟩),
  (0x152C210700340000, .shl ⟨⟨5, true⟩, 2, 4, 7, 0, false, false, false, false, 13, 0, false, 0, 0, 0⟩),
  (0x952C3143000000FF, .shlImm ⟨⟨5, true⟩, 3, 5, false, false, 3, 255⟩),
  (0x162C210700340000, .shr ⟨⟨5, true⟩, 2, 4, 7, 0, false, false, false, false, 13, 0, false, 0, 0, 0⟩),
  (0x962C3143000000FF, .shrImm ⟨⟨5, true⟩, 3, 5, false, false, 3, 255⟩),
  (0x172C210700340000, .sar ⟨⟨5, true⟩, 2, 4, 7, 0, false, false, false, false, 13, 0, false, 0, 0, 0⟩),
  (0x972C3143000000FF, .sarImm ⟨⟨5, true⟩, 3, 5, false, false, 3, 255⟩),
  (0x182C210700340000, .rol ⟨⟨5, true⟩, 2, 4, 7, 0, false, false, false, false, 13, 0, false, 0, 0, 0⟩),
  (0x982C3143000000FF, .rolImm ⟨⟨5, true⟩, 3, 5, false, false, 3, 255⟩),
  (0x192C314724140001, .fsh ⟨⟨5, true⟩, 3, 5, 7, 9, false, false, false, false, 5, 0, false, 0, 0, 1⟩),
  (0x1A2C210700380000, .bfx ⟨⟨5, true⟩, 2, 4, 7, 0, false, false, false, false, 14, 0, false, 0, 0, 0⟩),
  (0x9A2C210D00003F00, .bfxImm ⟨⟨5, true⟩, 2, 4, false, false, 13, 16128⟩),
  (0x1B2C210624380000, .bfi ⟨⟨5, true⟩, 2, 4, 6, 9, false, false, false, false, 14, 0, false, 0, 0, 0⟩),
  (0x1C2C310000380000, .popc ⟨⟨5, true⟩, 3, 4, 0, 0, false, false, false, false, 14, 0, false, 0, 0, 0⟩),
  (0x1D2C310000380000, .clz ⟨⟨5, true⟩, 3, 4, 0, 0, false, false, false, false, 14, 0, false, 0, 0, 0⟩)]

theorem test_decode_words0b : decodeAll 0 words0b = true := by decide +kernel

def words0c : List (DWord × Instr) := [
  (0x1E2C310000380000, .ctz ⟨⟨5, true⟩, 3, 4, 0, 0, false, false, false, false, 14, 0, false, 0, 0, 0⟩),
  (0x1F2C210000380000, .brev ⟨⟨5, true⟩, 2, 4, 0, 0, false, false, false, false, 14, 0, false, 0, 0, 0⟩),
  (0x542C314724000000, .perm ⟨⟨5, true⟩, 3, 5, 7, 9, false, false, false, false, 0, 0, false, 0, 0, 0⟩),
  (0x552C210001340000, .mov ⟨⟨5, true⟩, 2, 4, 0, 0, false, true, false, false, 13, 0, false, 0, 0, 0⟩),
  (0xD52C200D80000000, .movi ⟨⟨5, true⟩, 2, 0, false, false, 13, 2147483648⟩),
  (0x582C108300000002, .pand ⟨⟨5, true⟩, 1, 2, 3, 0, false, false, false, false, 0, 0, false, 0, 0, 2⟩),
  (0x592C108300000002, .por ⟨⟨5, true⟩, 1, 2, 3, 0, false, false, false, false, 0, 0, false, 0, 0, 2⟩),
  (0x5A2C108300000002, .pxor ⟨⟨5, true⟩, 1, 2, 3, 0, false, false, false, false, 0, 0, false, 0, 0, 2⟩),
  (0x5B2C108000000000, .pnot ⟨⟨5, true⟩, 1, 2, 0, 0, false, false, false, false, 0, 0, false, 0, 0, 0⟩),
  (0x5C2C110000380000, .pset ⟨⟨5, true⟩, 1, 4, 0, 0, false, false, false, false, 14, 0, false, 0, 0, 0⟩),
  (0x302C314700198000, .fadd ⟨⟨5, true⟩, 3, 5, 7, 0, false, false, false, false, 6, 1, true, 0, 0, 0⟩),
  (0xB02C31483F800000, .faddImm ⟨⟨5, true⟩, 3, 5, false, false, 8, 1065353216⟩),
  (0x312C314700198000, .fsub ⟨⟨5, true⟩, 3, 5, 7, 0, false, false, false, false, 6, 1, true, 0, 0, 0⟩),
  (0xB12C31483F800000, .fsubImm ⟨⟨5, true⟩, 3, 5, false, false, 8, 1065353216⟩),
  (0x322C314700198000, .fmul ⟨⟨5, true⟩, 3, 5, 7, 0, false, false, false, false, 6, 1, true, 0, 0, 0⟩),
  (0xB22C31483F800000, .fmulImm ⟨⟨5, true⟩, 3, 5, false, false, 8, 1065353216⟩),
  (0x332C3147241E8000, .ffma ⟨⟨5, true⟩, 3, 5, 7, 9, false, false, false, false, 7, 2, true, 0, 0, 0⟩),
  (0x342C314700200000, .fmin ⟨⟨5, true⟩, 3, 5, 7, 0, false, false, false, false, 8, 0, false, 0, 0, 0⟩),
  (0xB42C31483F800000, .fminImm ⟨⟨5, true⟩, 3, 5, false, false, 8, 1065353216⟩),
  (0x352C314700200000, .fmax ⟨⟨5, true⟩, 3, 5, 7, 0, false, false, false, false, 8, 0, false, 0, 0, 0⟩),
  (0xB52C31483F800000, .fmaxImm ⟨⟨5, true⟩, 3, 5, false, false, 8, 1065353216⟩),
  (0x362C314700200000, .fminn ⟨⟨5, true⟩, 3, 5, 7, 0, false, false, false, false, 8, 0, false, 0, 0, 0⟩),
  (0xB62C31483F800000, .fminnImm ⟨⟨5, true⟩, 3, 5, false, false, 8, 1065353216⟩),
  (0x372C314700200000, .fmaxn ⟨⟨5, true⟩, 3, 5, 7, 0, false, false, false, false, 8, 0, false, 0, 0, 0⟩)]

theorem test_decode_words0c : decodeAll 0 words0c = true := by decide +kernel

def words0d : List (DWord × Instr) := [
  (0xB72C31483F800000, .fmaxnImm ⟨⟨5, true⟩, 3, 5, false, false, 8, 1065353216⟩),
  (0x382C314700200340, .fcmp ⟨⟨5, true⟩, 3, 5, 7, 0, false, false, false, false, 8, 0, false, 0, 13, 0⟩),
  (0xEA2C314880000000, .fcmpImm 2 ⟨⟨5, true⟩, 3, 5, false, false, 8, 2147483648⟩),
  (0x392C3140001C0000, .fclass ⟨⟨5, true⟩, 3, 5, 0, 0, false, false, false, false, 7, 0, false, 0, 0, 0⟩),
  (0x3A2C3140001B8000, .frcp ⟨⟨5, true⟩, 3, 5, 0, 0, false, false, false, false, 6, 3, true, 0, 0, 0⟩),
  (0x3B2C314000180000, .frsq ⟨⟨5, true⟩, 3, 5, 0, 0, false, false, false, false, 6, 0, false, 0, 0, 0⟩),
  (0x3C2C314000220000, .fsqrt ⟨⟨5, true⟩, 3, 5, 0, 0, false, false, false, false, 8, 2, false, 0, 0, 0⟩),
  (0x3D2C314000180000, .fexp2 ⟨⟨5, true⟩, 3, 5, 0, 0, false, false, false, false, 6, 0, false, 0, 0, 0⟩),
  (0x3E2C314000180000, .flog2 ⟨⟨5, true⟩, 3, 5, 0, 0, false, false, false, false, 6, 0, false, 0, 0, 0⟩),
  (0x3F2C314000180000, .fsin ⟨⟨5, true⟩, 3, 5, 0, 0, false, false, false, false, 6, 0, false, 0, 0, 0⟩),
  (0x402C314000180000, .fcos ⟨⟨5, true⟩, 3, 5, 0, 0, false, false, false, false, 6, 0, false, 0, 0, 0⟩),
  (0x412C314000180000, .ftanh ⟨⟨5, true⟩, 3, 5, 0, 0, false, false, false, false, 6, 0, false, 0, 0, 0⟩),
  (0x422C314000210000, .frnd ⟨⟨5, true⟩, 3, 5, 0, 0, false, false, false, false, 8, 1, false, 0, 0, 0⟩),
  (0x432C3140001C0000, .ffrc ⟨⟨5, true⟩, 3, 5, 0, 0, false, false, false, false, 7, 0, false, 0, 0, 0⟩),
  (0x442C314700198000, .fldexp ⟨⟨5, true⟩, 3, 5, 7, 0, false, false, false, false, 6, 1, true, 0, 0, 0⟩),
  (0xC42C31483F800000, .fldexpImm ⟨⟨5, true⟩, 3, 5, false, false, 8, 1065353216⟩),
  (0x452C3140001C0000, .fgetexp ⟨⟨5, true⟩, 3, 5, 0, 0, false, false, false, false, 7, 0, false, 0, 0, 0⟩),
  (0x462C3147001D8000, .hadd2 ⟨⟨5, true⟩, 3, 5, 7, 0, false, false, false, false, 7, 1, true, 0, 0, 0⟩),
  (0x472C3147001D8000, .hmul2 ⟨⟨5, true⟩, 3, 5, 7, 0, false, false, false, false, 7, 1, true, 0, 0, 0⟩),
  (0x482C3147241B8000, .hfma2 ⟨⟨5, true⟩, 3, 5, 7, 9, false, false, false, false, 6, 3, true, 0, 0, 0⟩),
  (0x492C314700180000, .hmin2 ⟨⟨5, true⟩, 3, 5, 7, 0, false, false, false, false, 6, 0, false, 0, 0, 0⟩),
  (0x4A2C314700180000, .hmax2 ⟨⟨5, true⟩, 3, 5, 7, 0, false, false, false, false, 6, 0, false, 0, 0, 0⟩),
  (0x4B2C3147241B8000, .fdot2 ⟨⟨5, true⟩, 3, 5, 7, 9, false, false, false, false, 6, 3, true, 0, 0, 0⟩),
  (0x4C2C314724298001, .fdot4 ⟨⟨5, true⟩, 3, 5, 7, 9, false, false, false, false, 10, 1, true, 0, 0, 1⟩)]

theorem test_decode_words0d : decodeAll 0 words0d = true := by decide +kernel

def words0e : List (DWord × Instr) := [
  (0x4D2C314724148002, .idot4 ⟨⟨5, true⟩, 3, 5, 7, 9, false, false, false, false, 5, 0, true, 0, 0, 2⟩),
  (0x502C3140001D8039, .cvt ⟨⟨5, true⟩, 3, 5, 0, 0, false, false, false, false, 7, 1, true, 0, 0, 57⟩),
  (0x512C314724258008, .cvtpk ⟨⟨5, true⟩, 3, 5, 7, 9, false, false, false, false, 9, 1, true, 0, 0, 8⟩),
  (0x522C314000300017, .bxpack ⟨⟨5, true⟩, 3, 5, 0, 0, false, false, false, false, 12, 0, false, 0, 0, 23⟩),
  (0x532C31470099000B, .bxunpk ⟨⟨5, true⟩, 3, 5, 7, 0, false, false, true, false, 6, 1, false, 0, 0, 11⟩),
  (0x602C210700380003, .shfl ⟨⟨5, true⟩, 2, 4, 7, 0, false, false, false, false, 14, 0, false, 0, 0, 3⟩),
  (0x612C314002000003, .vote ⟨⟨5, true⟩, 3, 5, 0, 0, true, false, false, false, 0, 0, false, 0, 0, 3⟩),
  (0x622C314002210000, .redw ⟨⟨5, true⟩, 3, 5, 0, 0, true, false, false, false, 8, 1, false, 0, 0, 0⟩),
  (0x632C314000108008, .scanw ⟨⟨5, true⟩, 3, 5, 0, 0, false, false, false, false, 4, 0, true, 0, 0, 8⟩),
  (0x642C310000380000, .matchw ⟨⟨5, true⟩, 3, 4, 0, 0, false, false, false, false, 14, 0, false, 0, 0, 0⟩)]

theorem test_decode_words0e : decodeAll 0 words0e = true := by decide +kernel

def words1a : List (DWord × Instr) := [
  (0x002C210603B48000, .sadd ⟨⟨5, true⟩, 2, 4, 6, 0, true, true, true, false, 13, 0, true, 0, 0, 0⟩),
  (0x802C213D000000C0, .saddImm ⟨⟨5, true⟩, 2, 4, true, true, 13, 192⟩),
  (0x012C210603B48000, .ssub ⟨⟨5, true⟩, 2, 4, 6, 0, true, true, true, false, 13, 0, true, 0, 0, 0⟩),
  (0x812C213D000000C0, .ssubImm ⟨⟨5, true⟩, 2, 4, true, true, 13, 192⟩),
  (0x022C210603B48000, .smul ⟨⟨5, true⟩, 2, 4, 6, 0, true, true, true, false, 13, 0, true, 0, 0, 0⟩),
  (0x822C213D000000C0, .smulImm ⟨⟨5, true⟩, 2, 4, true, true, 13, 192⟩),
  (0x032C210623F88000, .smad ⟨⟨5, true⟩, 2, 4, 6, 8, true, true, true, true, 14, 0, true, 0, 0, 0⟩),
  (0x042C210603B80000, .sand ⟨⟨5, true⟩, 2, 4, 6, 0, true, true, true, false, 14, 0, false, 0, 0, 0⟩),
  (0x842C317512345678, .sandImm ⟨⟨5, true⟩, 3, 5, true, true, 5, 305419896⟩),
  (0x052C210603B80000, .sor ⟨⟨5, true⟩, 2, 4, 6, 0, true, true, true, false, 14, 0, false, 0, 0, 0⟩),
  (0x852C317512345678, .sorImm ⟨⟨5, true⟩, 3, 5, true, true, 5, 305419896⟩),
  (0x062C210603B80000, .sxor ⟨⟨5, true⟩, 2, 4, 6, 0, true, true, true, false, 14, 0, false, 0, 0, 0⟩),
  (0x862C317512345678, .sxorImm ⟨⟨5, true⟩, 3, 5, true, true, 5, 305419896⟩),
  (0x072C210701B40000, .sshl ⟨⟨5, true⟩, 2, 4, 7, 0, false, true, true, false, 13, 0, false, 0, 0, 0⟩),
  (0x872C31550000001F, .sshlImm ⟨⟨5, true⟩, 3, 5, false, true, 5, 31⟩),
  (0x082C210701B40000, .sshr ⟨⟨5, true⟩, 2, 4, 7, 0, false, true, true, false, 13, 0, false, 0, 0, 0⟩),
  (0x882C31550000001F, .sshrImm ⟨⟨5, true⟩, 3, 5, false, true, 5, 31⟩),
  (0x092C210701B40000, .ssar ⟨⟨5, true⟩, 2, 4, 7, 0, false, true, true, false, 13, 0, false, 0, 0, 0⟩),
  (0x892C31550000001F, .ssarImm ⟨⟨5, true⟩, 3, 5, false, true, 5, 31⟩),
  (0x0A2C210603B80000, .smin ⟨⟨5, true⟩, 2, 4, 6, 0, true, true, true, false, 14, 0, false, 0, 0, 0⟩),
  (0x8A2C317512345678, .sminImm ⟨⟨5, true⟩, 3, 5, true, true, 5, 305419896⟩),
  (0x0B2C210603B80000, .smax ⟨⟨5, true⟩, 2, 4, 6, 0, true, true, true, false, 14, 0, false, 0, 0, 0⟩),
  (0x8B2C317512345678, .smaxImm ⟨⟨5, true⟩, 3, 5, true, true, 5, 305419896⟩),
  (0x0C2C310601B80100, .scmp ⟨⟨5, true⟩, 3, 4, 6, 0, false, true, true, false, 14, 0, false, 0, 4, 0⟩)]

theorem test_decode_words1a : decodeAll 1 words1a = true := by decide +kernel

def words1b : List (DWord × Instr) := [
  (0xE22C3154FFFFFFFF, .scmpImm 2 ⟨⟨5, true⟩, 3, 5, false, true, 4, 4294967295⟩),
  (0x0D2C210603B82C00, .ssel ⟨⟨5, true⟩, 2, 4, 6, 0, true, true, true, false, 14, 0, false, 11, 0, 0⟩),
  (0x0E2C210001340000, .smov ⟨⟨5, true⟩, 2, 4, 0, 0, false, true, false, false, 13, 0, false, 0, 0, 0⟩),
  (0x8E2C9024FFFFFFFF, .smovi ⟨⟨5, true⟩, 9, 0, true, false, 4, 4294967295⟩),
  (0x0F2C210703B80000, .sbfx ⟨⟨5, true⟩, 2, 4, 7, 0, true, true, true, false, 14, 0, false, 0, 0, 0⟩),
  (0x8F2C317500000804, .sbfxImm ⟨⟨5, true⟩, 3, 5, true, true, 5, 2052⟩),
  (0x102C310003380000, .spopc ⟨⟨5, true⟩, 3, 4, 0, 0, true, true, false, false, 14, 0, false, 0, 0, 0⟩),
  (0x112C210002380000, .sfirst ⟨⟨5, true⟩, 2, 4, 0, 0, true, false, false, false, 14, 0, false, 0, 0, 0⟩),
  (0x122C804002000000, .srd ⟨⟨5, true⟩, 8, 1, 0, 0, true, false, false, false, 0, 0, false, 0, 0, 0⟩),
  (0x132D010001000000, .swr ⟨⟨5, true⟩, 16, 4, 0, 0, false, true, false, false, 0, 0, false, 0, 0, 0⟩)]

theorem test_decode_words1b : decodeAll 1 words1b = true := by decide +kernel

def words2a : List (DWord × Instr) := [
  (0x002C414CFFFF8EB2, .ldb ⟨⟨5, true⟩, 4, 5, 3, false, false, 1048568, 7, 1, 3, 2⟩),
  (0x012C414F00008B43, .stb ⟨⟨5, true⟩, 4, 5, 3, true, true, 8, 5, 2, 4, 3⟩),
  (0x022C214C00008BAA, .atb ⟨⟨5, true⟩, 2, 5, 3, false, false, 8, 5, 3, 2, 10⟩),
  (0x032C214F00008D34, .redb ⟨⟨5, true⟩, 2, 5, 3, true, true, 8, 6, 2, 3, 4⟩),
  (0x042C314000010294, .lds ⟨⟨5, true⟩, 3, 5, 0, false, false, 16, 1, 1, 1, 4⟩),
  (0x052C314000010300, .sts ⟨⟨5, true⟩, 3, 5, 0, false, false, 16, 1, 2, 0, 0⟩),
  (0x062C3140FFFFC3A9, .ats ⟨⟨5, true⟩, 3, 5, 0, false, false, 1048572, 1, 3, 2, 9⟩),
  (0x072CF14E000206C1, .ldc ⟨⟨5, true⟩, 15, 5, 3, true, false, 32, 3, 1, 4, 1⟩),
  (0x082C014C00020001, .pref ⟨⟨5, true⟩, 0, 5, 3, false, false, 32, 0, 0, 0, 1⟩),
  (0x092C014C00020400, .cinv ⟨⟨5, true⟩, 0, 5, 3, false, false, 32, 2, 0, 0, 0⟩),
  (0x0A2C014E00020E00, .cwb ⟨⟨5, true⟩, 0, 5, 3, true, false, 32, 7, 0, 0, 0⟩)]

theorem test_decode_words2a : decodeAll 2 words2a = true := by decide +kernel

def words3a : List (DWord × Instr) := [
  (0x002C010727FFC019, .tcopy ⟨⟨5, true⟩, 0, 4, 7, 9, 63, 15, true, true, 25⟩),
  (0x012C010727FFC019, .tstore ⟨⟨5, true⟩, 0, 4, 7, 9, 63, 15, true, true, 25⟩),
  (0x022C010727FFC057, .tred ⟨⟨5, true⟩, 0, 4, 7, 9, 63, 15, true, true, 87⟩),
  (0x032C014727FFC01F, .bcopy ⟨⟨5, true⟩, 0, 5, 7, 9, 63, 15, true, true, 31⟩),
  (0x042C010727FFC000, .gathr ⟨⟨5, true⟩, 0, 4, 7, 9, 63, 15, true, true, 0⟩),
  (0x052C010727FFC000, .dcopy ⟨⟨5, true⟩, 0, 4, 7, 9, 63, 15, true, true, 0⟩),
  (0x062C01400000076F, .acopy ⟨⟨5, true⟩, 0, 5, 0, 0, 0, 0, false, false, 1903⟩),
  (0x072C010000000001, .rfence ⟨⟨5, true⟩, 0, 4, 0, 0, 0, 0, false, false, 1⟩),
  (0x082C000001083105, .wait ⟨⟨5, true⟩, 0, 0, false, false, 0, 17314053⟩),
  (0x092C010000000001, .twait ⟨⟨5, true⟩, 0, 4, 0, 0, 0, 0, false, false, 1⟩),
  (0x0A2C310000000000, .tfind ⟨⟨5, true⟩, 3, 4, 0, 0, 0, 0, false, false, 0⟩),
  (0x0B2C00000000001F, .fence ⟨⟨5, true⟩, 0, 0, 0, 0, 0, 0, false, false, 31⟩),
  (0x0C2C0000000F401F, .barinit ⟨⟨5, true⟩, 0, 0, 0, 0, 0, 15, false, true, 31⟩),
  (0x0D2C0000000F4000, .bara ⟨⟨5, true⟩, 0, 0, 0, 0, 0, 15, false, true, 0⟩),
  (0x0E2C0140000F4000, .barx ⟨⟨5, true⟩, 0, 5, 0, 0, 0, 15, false, true, 0⟩),
  (0x0F2C0000000F4001, .barw ⟨⟨5, true⟩, 0, 0, 0, 0, 0, 15, false, true, 1⟩),
  (0x102C3000000F4001, .bart ⟨⟨5, true⟩, 3, 0, 0, 0, 0, 15, false, true, 1⟩)]

theorem test_decode_words3a : decodeAll 3 words3a = true := by decide +kernel

def words4a : List (DWord × Instr) := [
  (0x0112079B00000607, .mma ⟨1, 2, 0, false, 7, 9, 11, 1543⟩),
  (0x0200050000000000, .mzero ⟨0, 0, 0, false, 5, 0, 0, 0⟩),
  (0x0330056000000000, .mload ⟨3, 0, 0, false, 5, 6, 0, 0⟩),
  (0x043456CB00000852, .mdrain ⟨3, 4, 5, false, 6, 12, 11, 2130⟩),
  (0x050000000000001F, .mbarw ⟨0, 0, 0, false, 0, 0, 0, 31⟩),
  (0x060000000000000F, .mbara ⟨0, 0, 0, false, 0, 0, 0, 15⟩),
  (0x07300000FFFFFFFB, .mloop ⟨3, 0, 0, false, 0, 0, 0, 4294967291⟩),
  (0x08000000FFFFFFF9, .mjmp ⟨0, 0, 0, false, 0, 0, 0, 4294967289⟩),
  (0x0934000080000001, .maddi ⟨3, 4, 0, false, 0, 0, 0, 2147483649⟩),
  (0x0A00000000000000, .mend ⟨0, 0, 0, false, 0, 0, 0, 0⟩),
  (0x0B00000000000000, .mnop ⟨0, 0, 0, false, 0, 0, 0, 0⟩)]

theorem test_decode_words4a : decodeAll 4 words4a = true := by decide +kernel

def words5a : List (DWord × Instr) := [
  (0x002C000000000000, .nop ⟨⟨5, true⟩, 0, 0, 0, 0, false, false, false, false, 0, 0, false, 0, 0, 0⟩),
  (0x012C0FFFFFFFD000, .bra ⟨⟨5, true⟩, 0, 4294967293, 0⟩),
  (0x022C010701800001, .brx ⟨⟨5, true⟩, 0, 4, 7, 0, false, true, true, false, 0, 0, false, 0, 0, 1⟩),
  (0x032C47FFFFFFF000, .call ⟨⟨5, true⟩, 4, 2147483647, 0⟩),
  (0x042C010000000000, .ret ⟨⟨5, true⟩, 0, 4, 0, 0, false, false, false, false, 0, 0, false, 0, 0, 0⟩),
  (0x05F8000000000000, .rcv ⟨⟨31, false⟩, 0, 0, 0, 0, false, false, false, false, 0, 0, false, 0, 0, 0⟩),
  (0x062C000000000000, .exit ⟨⟨5, true⟩, 0, 0, 0, 0, false, false, false, false, 0, 0, false, 0, 0, 0⟩),
  (0x072C000000000000, .yield ⟨⟨5, true⟩, 0, 0, 0, 0, false, false, false, false, 0, 0, false, 0, 0, 0⟩),
  (0x082C0000FFFFFFFF, .trap ⟨⟨5, true⟩, 0, 0, false, false, 0, 4294967295⟩),
  (0x092C000000000005, .bkpt ⟨⟨5, true⟩, 0, 0, false, false, 0, 5⟩),
  (0x0A2C0FFFFFFFD000, .mstart ⟨⟨5, true⟩, 0, 4294967293, 0⟩),
  (0x0B2C010001000000, .migr ⟨⟨5, true⟩, 0, 4, 0, 0, false, true, false, false, 0, 0, false, 0, 0, 0⟩)]

theorem test_decode_words5a : decodeAll 5 words5a = true := by decide +kernel

def words6a : List (DWord × Instr) := [
  (0x002CA14000000000, .kwave ⟨⟨5, true⟩, 10, 5, 0, 0, 0, 0⟩),
  (0x012CB14720000001, .ksend ⟨⟨5, true⟩, 11, 5, 7, 8, 0, 1⟩),
  (0x022CB14700000000, .krecv ⟨⟨5, true⟩, 11, 5, 7, 0, 0, 0⟩),
  (0x032CB14700000000, .kwait ⟨⟨5, true⟩, 11, 5, 7, 0, 0, 0⟩),
  (0x042CB14624000001, .karm ⟨⟨5, true⟩, 11, 5, 6, 9, 0, 1⟩),
  (0x052CB14000000000, .kcancel ⟨⟨5, true⟩, 11, 5, 0, 0, 0, 0⟩),
  (0x062CB14724000000, .kbind ⟨⟨5, true⟩, 11, 5, 7, 9, 0, 0⟩),
  (0x072CB14700000000, .kunbind ⟨⟨5, true⟩, 11, 5, 7, 0, 0, 0⟩),
  (0x082CC10000000001, .klook ⟨⟨5, true⟩, 12, 4, 0, 0, 0, 1⟩),
  (0x092CC14700000000, .kname ⟨⟨5, true⟩, 12, 5, 7, 0, 0, 0⟩),
  (0x0A2CC14700000000, .kdup ⟨⟨5, true⟩, 12, 5, 7, 0, 0, 0⟩),
  (0x0B2CB14000000000, .kdrop ⟨⟨5, true⟩, 11, 5, 0, 0, 0, 0⟩),
  (0x0C2CE140000000FF, .kinfo ⟨⟨5, true⟩, 14, 5, 0, 0, 0, 255⟩),
  (0x0D2CB14700000000, .knext ⟨⟨5, true⟩, 11, 5, 7, 0, 0, 0⟩),
  (0x0E2CB14700000000, .board ⟨⟨5, true⟩, 11, 5, 7, 0, 0, 0⟩),
  (0x0F2CB14000000000, .alight ⟨⟨5, true⟩, 11, 5, 0, 0, 0, 0⟩),
  (0x102CB147240000D4, .catchTile ⟨⟨5, true⟩, 11, 5, 7, 9, 0, 212⟩),
  (0x112CB14700000000, .cwrite ⟨⟨5, true⟩, 11, 5, 7, 0, 0, 0⟩)]

theorem test_decode_words6a : decodeAll 6 words6a = true := by decide +kernel

def words7a : List (DWord × Instr) := [
  (0x002C000000000000, .tret ⟨⟨5, true⟩, 0, 0, 0, 0, false, false, false, false, 0, 0, false, 0, 0, 0⟩),
  (0x012C000000000001, .heatc ⟨⟨5, true⟩, 0, 0, 0, 0, false, false, false, false, 0, 0, false, 0, 0, 1⟩),
  (0x022C40000200000B, .perfr ⟨⟨5, true⟩, 4, 0, 0, 0, true, false, false, false, 0, 0, false, 0, 0, 11⟩)]

theorem test_decode_words7a : decodeAll 7 words7a = true := by decide +kernel

end Sys2Proof.Tests
end

