-- ==== Sys2Proof/Tests/Slice0.lean ====
section
/-! SUPPORT. The package's own tests: ill-formed terms that WellFormed refuses, words that the manual works out, and the values that
the manual's tables give, each by one step on a small state. -/

namespace Sys2Proof.Tests

set_option Elab.async false

open Sys2Proof.Machine Sys2Proof.Claims

/-! Ill-formed terms: one or more for each check. -/

/-- R49: an unused field, an odd pair, a kind bit on a predicate and on a v-only or s-only field, a predicate above 31, a type
that the table lacks, each MOD subfield that is not assigned, an s destination with a v source, a v source in class 1. -/
theorem test_smoke_fields : ([.iadd { rr 2 4 6 4 with c := 1 }, .iadd { rr 2 4 6 4 with ck := true }, .iadd (rr 3 4 6 13),
    .iadd (rr 2 5 6 14), .icmp { rr 3 4 6 4 with dk := true }, .icmp (rr 32 4 6 4), .shfl { rr 2 4 6 5 with dk := true },
    .sfirst { rs 2 4 0 5 with bk := false }, .swr { rs 15 4 0 0 with dk := false, ak := false, bk := false }, .iadd (rr 2 4 6 8),
    .iadd { rr 2 4 6 4 with rm := 1 }, .imin { rr 2 4 6 4 with sat := true }, .iadd { rr 2 4 6 4 with ps := 1 },
    .iadd { rr 2 4 6 4 with cc := 1 }, .icmp { rr 2 4 6 4 with cc := 6 }, .fcmp { rr 2 4 6 8 with cc := 14 }, .iadd { rr 2 4 6 4 with sub := 1 },
    .iadd { rr 2 4 6 4 with dk := true }, .sadd { rs 2 4 6 4 with bk := false }, .iaddc { rr 2 4 6 5 with sub := 1, ps := 1 },
    .nop { r0 with d := 1 }] : List Instr).all (fun i => !i.ok) = true := by decide +kernel

/-- R104, R116 to R118, R132, R135, R96 to R100, R121, R264, R286, R288. -/
theorem test_smoke_selectors : ([.cvt { rr 2 4 0 8 with sub := 0x19 ||| 0x30 ||| 6 }, .cvt { rr 2 4 0 15 with sub := 8 },
    .cvtpk { rr 2 4 6 9 with sub := 9 }, .cvtpk { rr 2 4 6 6 with sub := 8, c := 1 }, .cvtpk { rr 2 4 6 6 with sub := 8, dk := true },
    .bxpack { rr 2 4 0 11 with sub := 9 }, .bxunpk { rr 2 4 6 8 with sub := 11 }, .shfl { rr 2 4 6 5 with sub := 4 },
    .vote { rr 40 1 0 0 with sub := 0 }, .redw { rr 2 4 0 4 with sub := 6 }, .redw { rr 2 4 0 8 with sub := 3 },
    .redw { rr 2 4 0 4 with sub := 1, sat := true }, .scanw { rr 2 4 0 4 with rm := 1 }, .srd { rs 2 18 0 0 with ak := false, bk := false },
    .srd { rs 3 10 0 0 with ak := false, bk := false }, .srd { rs 62 11 0 0 with ak := false, bk := false },
    .swr { rs 14 4 0 0 with dk := false, bk := false }, .brx { r0 with ak := true, b := 1 }, .rcv { r0 with g := ⟨3, false⟩ },
    .migr { r0 with a := 4 }, .heatc { r0 with sub := 2 }, .perfr { r0 with dk := true, sub := 12 }, .ret { r0 with a := 5 },
    .tret { r0 with a := 2 }] : List Instr).all (fun i => !i.ok) = true := by decide +kernel

/-- R43, R85, R88, R92, R179: immediates that do not agree with the type, lie outside the range, or stand in MOD4. -/
theorem test_smoke_immediates : ([.iaddImm ⟨.always, 2, 4, false, false, 0, 0x80⟩, .iaddImm ⟨.always, 2, 4, false, false, 1, 0x100⟩,
    .iaddImm ⟨.always, 2, 4, false, false, 2, 0x8000⟩, .shlImm ⟨.always, 2, 4, false, false, 5, 256⟩,
    .bfxImm ⟨.always, 2, 4, false, false, 5, 0x10000⟩, .faddImm ⟨.always, 2, 4, false, false, 6, 0⟩, .iaddImm ⟨.always, 2, 4, true, false, 4, 0⟩,
    .saddImm ⟨.always, 2, 4, true, false, 4, 0⟩, .movi ⟨.always, 3, 0, false, false, 14, 0⟩, .trap ⟨.always, 0, 0, false, false, 1, 0⟩,
    .wait ⟨.always, 0, 0, false, false, 0, 0x40000000⟩] : List Instr).all (fun i => !i.ok) = true := by decide +kernel

/-- R160, R161, R164. -/
theorem test_smoke_memory : ([.ldb { m0 with width := 5 }, .ldb { m0 with order := 2 }, .ldb { m0 with scope := 1 }, .ldb { m0 with sub := 4 },
    .ldb { m0 with sub := 8, order := 1, scope := 2 }, .ldb { m0 with dk := true }, .ldb { m0 with d := 3, width := 3 },
    .ldb { m0 with d := 2, width := 4 }, .stb { m0 with sub := 4 }, .atb { m0 with width := 1 }, .atb { m0 with sub := 15 },
    .atb { m0 with sub := 13, width := 3 }, .atb { m0 with sub := 10, width := 2, d := 3 }, .atb { m0 with dk := true },
    .redb { m0 with sub := 10 }, .redb { m0 with order := 1 }, .lds m0, .lds { m0 with buf := 0, order := 1, scope := 2 },
    .sts { m0 with buf := 0, sub := 1 }, .ats { m0 with buf := 0, scope := 2 }, .ldc { m0 with width := 4, ak := false },
    .ldc { m0 with width := 4, ak := true, d := 16 }, .pref { m0 with d := 0 }, .cwb { m0 with d := 0, width := 0, scope := 4 }]
    : List Instr).all (fun i => !i.ok) = true := by decide +kernel

/-- R45, R179, R216, R217, R223, R269. -/
theorem test_smoke_copies : ([.tcopy { x0 with tag := 1 }, .tcopy { x0 with bv := false, bar := 1 }, .tcopy { x0 with a := 3 },
    .tcopy { x0 with b := 1 }, .tcopy { x0 with c := 1 }, .tcopy { x0 with mod := 11 }, .tcopy { x0 with mod := 2 }, .tcopy { x0 with mod := 32 },
    .tred { x0 with mod := 96 }, .bcopy { x0 with d := 1 }, .bcopy { x0 with mod := 32 }, .gathr { x0 with mod := 1 },
    .dcopy { x0 with mod := 0x110 }, .acopy { x0 with bv := false, mod := 0x58 }, .acopy { x0 with bv := false, mod := 0x140 }, .acopy x0,
    .rfence { x0 with bv := false, a := 2 }, .rfence { x0 with bv := false, a := 3, mod := 1 }, .twait { x0 with bv := false, a := 3 },
    .tfind { x0 with bv := false, mod := 1 }, .fence { x0 with bv := false }, .barinit x0, .barinit { x0 with mod := 32 },
    .bara { x0 with bv := false }, .barx { x0 with tv := true }, .barw { x0 with mod := 2 }, .bart { x0 with a := 1 }] : List Instr).all
    (fun i => !i.ok) = true := by decide +kernel

/-- R46 to R48, R237 to R245, R252, R304, R323, R388. -/
theorem test_smoke_rest : ([.bra { b0 1 with d := 2 }, .bra { b0 1 with mod := 1 }, .call { b0 1 with d := 3 }, .kwave { k0 with b := 0, d := 3 },
    .kwave { k0 with b := 1 }, .ksend { k0 with c := 2 }, .ksend { k0 with mod := 2 }, .ksend { k0 with c := 3, mod := 1 }, .karm { k0 with b := 7 },
    .kdrop { k0 with b := 0, rsv := 1 }, .kinfo { k0 with b := 0, mod := 256 }, .kname { k0 with d := 9 }, .catchTile { k0 with mod := 1, c := 2 },
    .catchTile { k0 with mod := 2 }, .catchTile { k0 with mod := 0x86 ||| 0x20 }, .catchTile { k0 with mod := 256 }, .mma (ms0 1 0 0),
    .mma { ms0 1 0 0 with fmtb := 8, m3 := 1 }, .mma { ms0 1 0 8 with fmtb := 8 }, .mma { ms0 1 0 0x10 with fmtb := 8 },
    .mma { ms0 1 0 0 with fmta := 11, fmtb := 11 }, .mzero (ms0 0 0 0), .mload { ms0 1 0 0 with fmta := 9 }, .mdrain { ms0 1 0 0 with fmtb := 8 },
    .mdrain (ms0 1 0 0x80), .mbarw { ms0 0 0 32 with fmta := 0 }, .mloop (ms0 1 0 0), .mjmp (ms0 1 0 0), .maddi (ms0 1 0 0),
    .mend { ms0 0 0 1 with fmta := 0 }, .mnop { ms0 0 0 0 with fmta := 0, rsv := true }] : List Instr).all (fun i => !i.ok) = true := by
  decide +kernel

/-- Events that name no unit of the machine, and a request under another row's name. -/
theorem test_smoke_events : ((!(Instr.clauseEntry ⟨⟨8, 0, 0⟩, 1, 0⟩).ok && !(Instr.clauseEntry ⟨core0, 1, 16⟩).ok) && !(Instr.heatSet ⟨0, 24, 0⟩).ok
    && !(Instr.teamAdmit core0 (2 ^ 24)).ok && !(Instr.crucibleServe 8).ok && !(Instr.launch 0 128).ok && !(Instr.preset (mreq 2 0 0)).ok
    && !(Instr.scratchpadBankServe core0 64).ok && !(Instr.completionPost (.part 16)).ok) = true := by decide +kernel

/-! Words that the manual works out. -/

def manual : List (Nat × DWord × Instr) := [
  (0, 0x33F8_8042_0C21_0000, .ffma { rr 8 1 2 8 with c := 3, rm := 1 }), (0, 0x50F8_5100_0024_8008, .cvt { rr 5 4 0 9 with sat := true, sub := 8 }),
  (0, 0x38F8_2042_0020_0280, .fcmp { rr 2 1 2 8 with cc := 10 }), (0, 0x60F8_2049_0094_0003, .shfl { rr 2 1 9 5 with bk := true, sub := 3 }),
  (0, 0x62F8_5100_0220_0000, .redw { rr 5 4 0 8 with dk := true }), (1, 0x80F8_203E_0000_00C0, .saddImm ⟨.always, 2, 0, true, true, 14, 0xC0⟩),
  (1, 0x12F8_8040_0200_0000, .srd { rr 8 1 0 0 with dk := true }), (1, 0x85F8_0035_0000_0100, .sorImm ⟨.always, 0, 0, true, true, 5, 0x100⟩),
  (1, 0x87F8_C335_0000_000C, .sshlImm ⟨.always, 12, 12, true, true, 5, 12⟩),
  (3, 0x00F8_0600_0000_0000, .tcopy { x0 with bv := false, a := 24 }), (3, 0x00F8_0080_0000_4000, .tcopy { x0 with a := 2 }),
  (3, 0x00F8_0108_2472_C013, .tcopy ⟨.always, 0, 4, 8, 9, 7, 2, true, true, 0x13⟩),
  (3, 0x03F8_069A_6C00_0012, .bcopy ⟨.always, 0, 26, 26, 27, 0, 0, false, false, 0x12⟩),
  (3, 0x07F8_0080_0000_0001, .rfence { x0 with bv := false, a := 2, mod := 1 }), (4, 0x0910_0000_0000_1000, .maddi { ms0 1 0 0x1000 with fmta := 0 }),
  (4, 0x0102_0077_0000_0002, .mma ⟨0, 2, 0, false, 0, 7, 7, 2⟩), (4, 0x0445_608B_0000_0800, .mdrain ⟨4, 5, 6, false, 0, 8, 11, 0x800⟩),
  (4, 0x0770_0000_FFFF_FFFD, .mloop { ms0 7 0 0xFFFFFFFD with fmta := 0 }), (5, 0x03F8_A000_0001_4000, .call { b0 20 with d := 10 }),
  (5, 0x04F8_0280_0000_0000, .ret { r0 with a := 10 }), (5, 0x08F8_0000_0000_0007, .trap (i0 7)),
  (6, 0x08F8_C100_0000_0000, .klook ⟨.always, 12, 4, 0, 0, 0, 0⟩), (6, 0x0EF8_E200_0000_0000, .board ⟨.always, 14, 8, 0, 0, 0, 0⟩),
  (6, 0x10F8_F20C_0000_0081, .catchTile ⟨.always, 15, 8, 12, 0, 0, 0x81⟩), (7, 0x0118_0000_0000_0000, .heatc { r0 with g := ⟨3, false⟩ }),
  (7, 0x01F8_0000_0000_0001, .heatc { r0 with sub := 1 })]

/-- R14, R98, R119, R137, R217, R248, R287, R304, R388: the words of their tables, and back. -/
theorem test_manual_words : (manual.all fun p => decodesTo p.1 p.2.1 == some p.2.2 && encode p.2.2 == some ⟨p.1, p.2.1⟩) = true := by decide +kernel

/-- R35: the two headers of the listing. -/
theorem test_headers : (Header.ofWord 0xA21F_FFFF_FFC0_0000, Header.ofWord 0xA50F_C0FF_FFC0_0000)
    = ({ Header.plain 2 with n1 := 1 }, { Header.plain 5 with wst := 0 }) := by decide +kernel

/-- R140: the two-tile product's descriptor. -/
theorem test_descriptor : let d : Rec256 := BitVec.ofNat 256 (0x0000130004000C54 + 0x12000000 * 2 ^ 64 + 0xA00000000000 * 2 ^ 128)
    descFault d = none ∧ descNW d = 5 ∧ descNR d = 2 ∧ bitsNat (descRole d 1) 4 2 = 1 ∧ descEntry d 1 = 18 ∧ descScr d = 40960
      ∧ ({ oid := 1, desc := d } : Team).acc = 1 ∧ ({ oid := 1, desc := d } : Team).mseq = true ∧ ({ oid := 1, desc := d } : Team).fair = 1024 := by
  decide +kernel

/-! Values: every row of R95's table, by the instruction it names. -/

/-- Register v2 of thread 0 after the instruction, with these values in its low v registers. -/
def gives (i : Instr) (v : List Word) : Word := (after i (world v [] [])).vreg wave0 0 2
/-- The pair v2:v3. -/
def givesPair (i : Instr) (v : List Word) : Word × Word := (gives i v, (after i (world v [] [])).vreg wave0 0 3)
/-- The flags that the team has gathered. -/
def flags (i : Instr) (v : List Word) : BitVec 5 := match (after i (world v [] [])).teamOf wave0 with | some q => q.fps | none => 31
/-- p2 of thread 0. -/
def holds (i : Instr) (v : List Word) : Bool := (after i (world v [] [])).preg wave0 0 2

/-- R95, `iadd`. -/
theorem test_iadd : gives (.iadd (rr 2 0 1 0)) [100, 50] = 0xFFFFFF96 ∧ gives (.iadd { rr 2 0 1 0 with sat := true }) [100, 50] = 0x7F := by
  decide +kernel
/-- R95, `isub`. -/
theorem test_isub : gives (.isub { rr 2 0 1 3 with sat := true }) [3, 5] = 0 := by decide +kernel
/-- R95, `imulh`. -/
theorem test_imulh : gives (.imulh (rr 2 0 1 4)) [0x80000000, 2] = 0xFFFFFFFF ∧ gives (.imulh (rr 2 0 1 5)) [0x80000000, 2] = 1 := by decide +kernel
/-- R95, `iabs`. -/
theorem test_iabs : gives (.iabs (rr 2 0 0 4)) [0x80000000] = 0x80000000
    ∧ gives (.iabs { rr 2 0 0 4 with sat := true }) [0x80000000] = 0x7FFFFFFF := by decide +kernel
/-- R95, `iaddc`. -/
theorem test_iaddc : gives (.iaddc { rr 2 0 1 5 with c := 2, sub := 1 }) [0xFFFFFFFF, 1] = 0
    ∧ holds (.iaddc { rr 2 0 1 5 with c := 2, sub := 1 }) [0xFFFFFFFF, 1] = true := by decide +kernel
/-- R95, `lea`. -/
theorem test_lea : givesPair (.lea { rr 2 0 4 5 with sub := 2 }) [0, 1, 0, 0, 0xFFFFFFFF] = (0xFFFFFFFC, 4)
    ∧ givesPair (.lea { rr 2 0 4 4 with sub := 2 }) [0, 1, 0, 0, 0xFFFFFFFF] = (0xFFFFFFFC, 0) := by decide +kernel
/-- R95, `clamp`. -/
theorem test_clamp : gives (.clamp { rr 2 0 1 4 with c := 3 }) [-5, 0, 9, 10] = 0 := by decide +kernel
/-- R95, `sar`, `shl` and `rol`. -/
theorem test_shifts : gives (.sar (rr 2 0 1 4)) [0x80000000, 40] = 0xFFFFFFFF ∧ gives (.shl (rr 2 0 1 5)) [0x80000000, 40] = 0
    ∧ gives (.rol (rr 2 0 1 5)) [0x80000001, 36] = 0x18 := by decide +kernel
/-- R95, `fsh`. -/
theorem test_fsh : gives (.fsh { rr 2 0 1 5 with c := 3 }) [0x12345678, 0x9ABCDEF0, 0, 8] = 0x3456789A := by decide +kernel
/-- R95, `bfx`. -/
theorem test_bfx : gives (.bfx (rr 2 0 1 4)) [0xF00, 0x408] = 0xFFFFFFFF ∧ gives (.bfx (rr 2 0 1 5)) [0xF00, 0x408] = 0xF := by decide +kernel
/-- R95, `clz`. -/
theorem test_clz : gives (.clz (rr 2 0 0 14)) [1, 0] = 63 := by decide +kernel
/-- R95, `perm`. -/
theorem test_perm : gives (.perm { rr 2 0 1 0 with c := 3 }) [0x44332211, 0x88776655, 0, 0xF540] = 0xFF665511 := by decide +kernel

/-! Values (R119), with the flags: invalid, division by zero, overflow, underflow and inexact are bits 0 to 4 (R102). -/

theorem test_fadd : gives (.fadd (rr 2 0 1 8)) [0x3F800000, 0x33800000] = 0x3F800000
    ∧ gives (.fadd { rr 2 0 1 8 with rm := 2 }) [0x3F800000, 0x33800000] = 0x3F800001 ∧ flags (.fadd (rr 2 0 1 8)) [0x3F800000, 0x33800000] = 16 := by
  decide +kernel
theorem test_fmul : gives (.fmul { rr 2 0 1 8 with sat := true }) [0x7F000000, 0x40800000] = 0x7F7FFFFF
    ∧ flags (.fmul { rr 2 0 1 8 with sat := true }) [0x7F000000, 0x40800000] = 20 := by decide +kernel
theorem test_fmin : gives (.fmin (rr 2 0 1 8)) [0x7FC00000, 0x40400000] = 0x40400000
    ∧ gives (.fminn (rr 2 0 1 8)) [0x7FC00000, 0x40400000] = 0x7FC00000 ∧ gives (.fmax (rr 2 0 1 8)) [0x80000000, 0] = 0 := by decide +kernel
theorem test_fcmp : holds (.fcmp { rr 2 0 1 8 with cc := 2 }) [0x7FC00000, 0x3F800000] = false
    ∧ flags (.fcmp { rr 2 0 1 8 with cc := 2 }) [0x7FC00000, 0x3F800000] = 1 ∧ holds (.fcmp { rr 2 0 1 8 with cc := 10 }) [0x7FC00000, 0x3F800000] = true
    ∧ flags (.fcmp { rr 2 0 1 8 with cc := 10 }) [0x7FC00000, 0x3F800000] = 0 := by decide +kernel
theorem test_frnd : gives (.frnd (rr 2 0 0 8)) [0x40200000] = 0x40000000 ∧ gives (.frnd (rr 2 0 0 8)) [0xBF000000] = 0x80000000 := by decide +kernel
theorem test_ffrc : gives (.ffrc (rr 2 0 0 8)) [0xBE800000] = 0x3F400000 := by decide +kernel
theorem test_fldexp : gives (.fldexp (rr 2 0 1 8)) [0x3FC00000, -149] = 2 ∧ flags (.fldexp (rr 2 0 1 8)) [0x3FC00000, -149] = 24 := by decide +kernel
theorem test_fgetexp : gives (.fgetexp (rr 2 0 0 8)) [1] = 0xFFFFFF6B := by decide +kernel
theorem test_hadd2 : gives (.hadd2 (rr 2 0 1 6)) [0x3C003C00, 0x4000BC00] = 0x42000000 := by decide +kernel
theorem test_fdot2 : gives (.fdot2 { rr 2 0 1 7 with c := 3 }) [0x40003F80, 0x40404000, 0, 0x3F000000] = 0x41080000 := by decide +kernel
theorem test_idot4 : gives (.idot4 { rr 2 0 1 4 with c := 3 }) [0x80FF0102, 0x01010101, 0, 10] = 0xFFFFFF8C
    ∧ gives (.idot4 { rr 2 0 1 5 with c := 3, sub := 3 }) [0x80FF0102, 0x01010101, 0, 10] = 0x18C := by decide +kernel
theorem test_cvt : gives (.cvt { rr 2 0 0 7 with sub := 9 }) [0x7E] = 0x43E0
    ∧ gives (.cvt { rr 2 0 0 8 with sub := 0x17 }) [0xC0401234] = 0xC0400000 := by decide +kernel
theorem test_cvtpk : gives (.cvtpk { rr 2 0 1 9 with c := 3, sub := 8 }) [0x3F800000, 0xC0000000, 0, 0xABCD] = 0xC0380000 := by decide +kernel

/-- Threads 0 to 7 in the run, with these values in v1, v8 and p0. -/
def eight : State :=
  worldW (fun w => { w with
    run := 0xFF, prev := 0xFF
    threads := (List.range 8).map (fun t => { thread0 0 [0, BitVec.ofNat 32 (10 * t), 0, 0, 0, 0, 0, 0, BitVec.ofNat 32 (t % 2)] with
      p := if 3 ≤ t then 0x80000001 else 0x80000000 }) ++ List.replicate 24 { pc := 20 } }) [0, 0, 0, 0, 0, 0, 0, 0, 0, 4]

/-- v2 of threads 0 to 7. -/
def row (i : Instr) (s : State) : List Nat := (List.range 8).map fun t => ((after i s).vreg wave0 t 2).toNat

/-- R137, and the last row of R119. -/
theorem test_crossThread : row (.shfl { rr 2 1 9 5 with bk := true, sub := 3 }) eight = [40, 50, 60, 70, 0, 10, 20, 30]
    ∧ row (.shfl { rr 2 1 9 5 with bk := true, sub := 2 }) eight = [40, 50, 60, 70, 40, 50, 60, 70] := by decide +kernel
theorem test_scanw : row (.scanw (rr 2 1 0 4)) eight = [0, 10, 30, 60, 100, 150, 210, 280]
    ∧ row (.scanw { rr 2 1 0 4 with sub := 8 }) eight = [0, 0, 10, 30, 60, 100, 150, 210] := by decide +kernel
theorem test_matchw : row (.matchw (rr 2 8 0 5)) eight = [0x55, 0xAA, 0x55, 0xAA, 0x55, 0xAA, 0x55, 0xAA] := by decide +kernel
theorem test_redw : (after (.redw { rr 5 1 0 4 with dk := true }) eight).sreg wave0 5 = 280 := by decide +kernel
theorem test_vote : (after (.vote { rr 4 0 0 0 with dk := true, sub := 3 }) eight).sreg wave0 4 = 0xF8
    ∧ (after (.vote { rr 1 0 0 0 with sub := 1 }) eight).preg wave0 7 1 = false := by decide +kernel
theorem test_bxunpk : row (.bxunpk { rr 2 0 0 8 with bk := true, sub := 11 })
    { eight with cores := [coreOf (teamOf false { waveOf 0 [0x20202020] [0x20202020] [0x8185] with run := 3 })] } = [0x42800000, 0x42800000, 0, 0, 0, 0, 0, 0] := by
  decide +kernel

/-- R77: the tree's order. -/
theorem test_redw_f32 : (after (.redw { rr 5 1 0 8 with dk := true }) (worldW fun w => { w with
    run := 0xF, prev := 0xF
    threads := (List.range 4).map (fun t => thread0 0 [0, if t = 0 then 0x4B800000 else 0x3F800000]) ++ List.replicate 28 { pc := 20 } })).sreg
      wave0 5 = 0x4B800001 := by decide +kernel

/-- R72: the worked BX4 block. -/
theorem test_bx4 : let b := bxEncode true ([f32.decode 0x40400000, f32.decode 0x3ECCCCCD, f32.decode 0xBDCCCCCD] ++ List.replicate 29 (f32.decode 0))
    b.e0 = 0x80 ∧ b.e1 = 0x7D ∧ b.elems.take 4 = [3, 7, 13, 0] := by decide +kernel

/-- R111: sin 1 = 0.84147098480… and 2^1.5 = 2.82842712474…; what the bounds admit and refuse near them. -/
theorem test_bounds : (f32.bounded 400 (sinAt false 400 false 1 0) 2 (some 24) 0, f32.bounded 400 (sinAt false 400 false 1 0) 2 (some 24) 0x3F576AA6,
      f32.bounded 400 (exp2At 400 false 3 (-1)) 2 none 0x403504F5, f32.bounded 400 (exp2At 400 false 3 (-1)) 2 none 0x403504F6)
    = (0x3F576AA4, 0x3F576AA6, 0x403504F5, 0x403504F3) := by decide +kernel

/-- R439: the example of FIPS 197 for AES-256. -/
theorem test_aes : BitVec.ofNat 128 (natLE (aes (bytesLE 32 0x1F1E1D1C1B1A191817161514131211100F0E0D0C0B0A09080706050403020100)
      (bytesLE 16 0xFFEEDDCCBBAA99887766554433221100))) = 0x8960494B9049FCEABF456751CAB7A28E := by decide +kernel

/-- R426, R440: the example of FIPS 180-4 for SHA-256, the message "abc". -/
theorem test_sha256 : sha256 [0x61, 0x62, 0x63] = 0xBA7816BF8F01CFEA414140DE5DAE2223B00361A396177A9CB410FF61F20015AD := by decide +kernel

/-! Addresses, streams, launches. -/

/-- R155: swizzle 1 and a stride of 2 map offset 0x310 to BASE + 0x320. -/
theorem test_swizzle : bufVa (BitVec.ofNat 128 (0x1000 + 0x1000 * 2 ^ 64 + 1 * 2 ^ 107 + 2 * 2 ^ 110)) 0x310 = 0x1320 := by decide +kernel

/-- R246: `mzero a1` in a team of one tile raises MSTREAM with AUX 0x0200_0100. -/
theorem test_mstream : ((after (.mzero { ms0 0 1 0 with fmta := 0 }) { worldQ fun q => { q with
      desc := BitVec.ofNat 256 (2 ^ 6 + 2 ^ 10 + 64 * 2 ^ 16 + 0x20 * 2 ^ 32 + 4096 * 2 ^ 160)
      seq := { spc := 8, run := true, recorder := some (0, 1), word := some 0 } } with focus := .seq core0 1 }).threadAt wave0 1).mtraps
    = [(64, 0x02000100)] := by decide +kernel

/-- R367: 70 teams over dies 4, 5 and 7. -/
theorem test_splitGrid : (splitGrid 70 [4, 5, 7]).map (fun r => (r.die, r.next, r.hi - 1)) = [(4, 0, 23), (5, 24, 46), (7, 47, 69)] := by decide +kernel

/-! The host's hooks. -/

/-- A word behind a header of class 6, and one that stands alone, which the first class that has it reads. -/
theorem test_tableWord : decodeTableWord 128 (0x01F8_A108_1800_0001 * 2 ^ 64 + (Header.plain 6).toWord.toNat)
    = some (.ksend ⟨.always, 10, 4, 8, 6, 0, 1⟩) ∧ decodeTableWord 64 0x12F8_8040_0200_0000 = some (.srd { rr 8 1 0 0 with dk := true }) := by
  decide +kernel

end Sys2Proof.Tests
end

section
/-! PROOFS. The value that a format-R row leaves in a 32-bit destination register (R80, R81, R97), and FSH (R89). -/

namespace Sys2Proof.Claims

open Sys2Proof.Machine

/-! A destination of one register, written with a value alone. -/

/-- An operation that answers a value alone: it raises no flag and writes no further predicate. -/
def ValueOnly (op : Src → Res) : Prop := ∀ o, (op o).flags = 0 ∧ (op o).preds = []

theorem lastV_map_absent (g : Nat → Word) (n : Nat) {ts : List Nat} {a : Nat} (ha : a ∉ ts) :
    lastV (ts.map fun t => .v t n (g t)) a n = none := by
  induction ts with
  | nil => rfl
  | cons t r ih =>
    obtain ⟨hat, hr⟩ := not_or.mp (mt List.mem_cons.mpr ha)
    rw [List.map_cons, lastV, ih hr, Option.none_or, if_neg fun e => hat e.1.symm]

/-- One value for each thread of a list, into the same v register. -/
theorem lastV_map_perThread (g : Nat → Word) (n : Nat) {ts : List Nat} {a : Nat} (ha : a ∈ ts) :
    lastV (ts.map fun t => .v t n (g t)) a n = some (g a) := by
  induction ts with
  | nil => exact absurd ha List.not_mem_nil
  | cons t r ih =>
    rw [List.map_cons, lastV]
    by_cases hr : a ∈ r
    · rw [ih hr, Option.some_or]
    · have hat : a = t := (List.mem_cons.mp ha).resolve_right hr
      have hnone : lastV (r.map fun u => .v u n (g u)) a n = none := lastV_map_absent g n hr
      rw [hnone, Option.none_or, if_pos ⟨hat.symm, rfl⟩, hat]

theorem goodOf_perThread_of_flagless (x : Ctx) (act : List Nat) {fl : Nat → BitVec 5} (h : ∀ t, fl t = 0) :
    goodOf x .perThread act fl = act := by
  simp [goodOf, h]

theorem goodOf_once_of_flagless (x : Ctx) (act : List Nat) {fl : Nat → BitVec 5} (h : ∀ t, fl t = 0) :
    goodOf x .once act fl = [act.headD 0] := by
  simp [goodOf, h]

/-- The writes of such an operation: its value, into the register that D names. -/
theorem destWrites_regOne {op : Src → Res} (hop : ValueOnly op) (n : BitVec 6) (k : Bool) (ty sty : BitVec 4) (u : Nat)
    (who : List Nat) (o : Src) : destWrites (.reg .one) n k ty sty u who (op o)
      = [if k then .s n.toNat (lo32 (op o).d) else .v u n.toNat (lo32 (op o).d)] := by
  simp [destWrites, regWrites, slotPair, Wd.isPair, (hop o).2]

section
variable {sp : RSpec} {f : RForm} {per : Nat} {op : Src → Res} {s t : State} {x : Ctx} {act : List Nat}

/-- A v destination receives, for each active thread, the operation's value on that thread's sources (R25). -/
theorem vreg_of_rowR_done (hd : sp.d = .reg .one) (hk : f.dk = false) (hm : modeOfR sp f per = .perThread)
    (hop : ValueOnly op) (h : (rowR sp f per op).Done s t x act) {a : Nat} (ha : a ∈ act) (ha32 : a < 32) :
    t.vreg x.w a f.d.toNat = lo32 (op (srcOf sp f x a)).d := by
  have hw : (rowR sp f per op).writes x act = act.map fun u => .v u f.d.toNat (lo32 (op (srcOf sp f x u)).d) := by
    simp [Row.writes, Row.good, rowR, resOfR, hm, goodOf_perThread_of_flagless, (hop _).1, hd, destWrites_regOne hop, hk,
      List.map_eq_flatMap]
  rw [h.wrote.v a _ ha32 f.d.isLt, hw, lastV_map_perThread _ _ ha, Option.getD_some]

/-- An s destination receives, once, the operation's value on the first active thread's sources (R25, R81). -/
theorem sreg_of_rowR_done (hd : sp.d = .reg .one) (hk : f.dk = true) (hm : modeOfR sp f per = .once)
    (hop : ValueOnly op) (h : (rowR sp f per op).Done s t x act) :
    t.sreg x.w f.d.toNat = lo32 (op (srcOf sp f x (act.headD 0))).d := by
  have hw : (rowR sp f per op).writes x act = [.s f.d.toNat (lo32 (op (srcOf sp f x (act.headD 0))).d)] := by
    simp [Row.writes, Row.good, rowR, resOfR, hm, goodOf_once_of_flagless, (hop _).1, hd, destWrites_regOne hop, hk]
  rw [h.wrote.sr _ f.d.isLt, hw]
  simp [lastS]

end

/-- The active threads are threads of the wave. -/
theorem active_lt {s : State} {i : Issue} {x : Ctx} {act : List Nat} (h : s.Issues i x act) {a : Nat} (ha : a ∈ act) :
    a < 32 := by
  rw [← h.active] at ha
  have hrun := x.active_sub i.g a ha
  rw [(State.ctx_holds h.ctx).2.run] at hrun
  exact (Wave.mem_members.mp hrun).1

/-- A single register is read into the low 32 bits (R6). -/
theorem toNat_lo32_rd (x : Ctx) (t : Nat) (n : BitVec 6) (k : Bool) :
    (lo32 (x.rd t n k false)).toNat = (x.rd t n k false).toNat := by
  have h : ∀ y : Word, (lo32 (y.setWidth 64)).toNat = (y.setWidth 64 : DWord).toNat := fun y => by
    simp only [lo32, BitVec.toNat_setWidth]; omega
  simp only [Ctx.rd, Bool.false_eq_true, if_false]
  exact h _

/-! FSH (R89). -/

theorem fshRes_valueOnly (right : Bool) : ValueOnly (fshRes right) := fun _ => ⟨rfl, rfl⟩

/-- The number that the concatenation of two words denotes. -/
theorem toNat_append_words (a b : Word) : (a ++ b : DWord).toNat = a.toNat * 2 ^ 32 + b.toNat := by
  rw [BitVec.toNat_append, ← Nat.shiftLeft_add_eq_or_of_lt b.isLt, Nat.shiftLeft_eq]

/-- The high word of a doubleword is its number divided by 2^32. -/
theorem hi32_eq_ofNat (x : DWord) : hi32 x = BitVec.ofNat 32 (x.toNat / 2 ^ 32) := by
  simp [hi32, BitVec.extractLsb', Nat.shiftRight_eq_div_pow]

theorem lo32_shiftRight (x : DWord) (n : Nat) : lo32 (x >>> n) = BitVec.ofNat 32 (x.toNat / 2 ^ n) := by
  apply BitVec.eq_of_toNat_eq
  simp [lo32, Nat.shiftRight_eq_div_pow]

theorem hi32_shiftLeft (x : DWord) (n : Nat) : hi32 (x <<< n) = BitVec.ofNat 32 (x.toNat * 2 ^ n / 2 ^ 32) := by
  rw [hi32_eq_ofNat, BitVec.toNat_shiftLeft, Nat.shiftLeft_eq]
  apply BitVec.eq_of_toNat_eq
  simp only [BitVec.toNat_ofNat]
  omega

theorem lo32_fshRes (right : Bool) (o : Src) :
    lo32 (fshRes right o).d =
      let ab := (lo32 o.a).toNat * 2 ^ 32 + (lo32 o.b).toNat
      let n := (lo32 o.c).toNat % 32
      BitVec.ofNat 32 (if right then ab / 2 ^ n else ab * 2 ^ n / 2 ^ 32) := by
  have hlo : ∀ y : Word, lo32 (y.setWidth 64) = y := fun y => by simp [lo32]
  cases right
  · simp [fshRes, hlo, hi32_shiftLeft, toNat_append_words]
  · simp [fshRes, hlo, lo32_shiftRight, toNat_append_words]

/-- Two of the conditions on a format-R word: its SUB is one that the opcode accepts, and its register kinds agree (R49). -/
theorem sub_and_kinds_of_ok {sp : RSpec} {f : RForm} (h : f.ok sp = true) : sp.sub f.sub = true ∧ kindsOk sp f = true := by
  simp only [RForm.ok, Bool.and_eq_true] at h
  obtain ⟨⟨⟨-, hsub⟩, hkinds⟩, -⟩ := h
  exact ⟨hsub, hkinds⟩

/-- An s destination has s sources only (R49 item 4). -/
theorem fsh_sources_of_sreg {f : RForm} (hwf : (Instr.fsh f).WellFormed) (hk : f.dk = true) :
    f.ak = true ∧ f.bk = true ∧ f.ck = true := by
  obtain ⟨-, hkinds⟩ := sub_and_kinds_of_ok (sp := Spec.fsh) hwf
  simpa [kindsOk, Spec.fsh, Slot.isReg, hk, and_assoc] using hkinds

/-- SUB is 0 or 1, and bit 0 tells FSH.R from FSH. -/
theorem fsh_right_iff {f : RForm} (hwf : (Instr.fsh f).WellFormed) : hasBit f.sub 0 = true ↔ f.sub ≠ 0 := by
  obtain ⟨hsub, -⟩ := sub_and_kinds_of_ok (sp := Spec.fsh) hwf
  have hlt : f.sub.toNat < 2 := of_decide_eq_true hsub
  have hcases : f.sub = 0 ∨ f.sub = 1 := by bv_omega
  rcases hcases with e | e <;> simp [e, hasBit]

theorem modeOfR_fsh_vreg {f : RForm} (hk : f.dk = false) : modeOfR Spec.fsh f 1 = .perThread := by
  simp [modeOfR, modeOf, issueOfR, Spec.fsh, hk]

/-- With an s destination FSH executes once (R25). -/
theorem modeOfR_fsh_sreg {f : RForm} (hwf : (Instr.fsh f).WellFormed) (hk : f.dk = true) :
    modeOfR Spec.fsh f 1 = .once := by
  obtain ⟨ha, hb, hc⟩ := fsh_sources_of_sreg hwf hk
  simp [modeOfR, modeOf, issueOfR, Spec.fsh, Slot.isReg, hk, ha, hb, hc]

/-- FSH's value on a thread's sources, as R89 words it. -/
theorem lo32_fshRes_srcOf {f : RForm} (hwf : (Instr.fsh f).WellFormed) (x : Ctx) (a : Nat) :
    lo32 (fshRes (hasBit f.sub 0) (srcOf Spec.fsh f x a)).d =
      let ab := (x.rd a f.a f.ak false).toNat * 2 ^ 32 + (x.rd a f.b f.bk false).toNat
      let n := (x.rd a f.c f.ck false).toNat % 32
      BitVec.ofNat 32 (if f.sub = 0 then ab * 2 ^ n / 2 ^ 32 else ab / 2 ^ n) := by
  have hsrc : srcOf Spec.fsh f x a
      = ⟨x.rd a f.a f.ak false, x.rd a f.b f.bk false, x.rd a f.c f.ck false, (x.thread a).pred f.ps.toNat, x.team.ftz⟩ := rfl
  rw [lo32_fshRes, hsrc]
  simp only [toNat_lo32_rd, fsh_right_iff hwf, ne_eq, ite_not]

/-- Settles O57: with a v destination each active thread receives its own value; with an s destination all sources are
s registers, which every thread reads alike, so the value written once is every active thread's. -/
theorem funnelsShift : Obligations.FunnelsShift := by
  unfold Obligations.FunnelsShift
  intro f s x act hwf hiss hfits
  obtain ⟨t, hexec, hdone⟩ := rowR_done (i := .fsh f) (fun _ => rfl) hiss hfits
  refine ⟨t, hexec, fun a ha => ?_⟩
  have hop := fshRes_valueOnly (hasBit f.sub 0)
  have hval := lo32_fshRes_srcOf hwf x a
  cases hk : f.dk with
  | false => exact (vreg_of_rowR_done rfl hk (modeOfR_fsh_vreg hk) hop hdone ha (active_lt hiss ha)).trans hval
  | true =>
    obtain ⟨hka, hkb, hkc⟩ := fsh_sources_of_sreg hwf hk
    have hfirst := lo32_fshRes_srcOf hwf x (act.headD 0)
    rw [hka, hkb, hkc] at hfirst ⊢
    exact (sreg_of_rowR_done rfl hk (modeOfR_fsh_sreg hwf hk) hop hdone).trans hfirst

end Sys2Proof.Claims
end

section
/-! PROOFS. An instruction that ends at a clause boundary, and the traps of R128 and R130. -/

namespace Sys2Proof.Machine

/-- `close` leaves what `Closed` says, at a clause boundary as within a clause: a boundary changes scheduling state alone. -/
theorem Ctx.Ok.close_closed_edge {y : Ctx} (h : y.Ok) (cost ops : Nat) (edge : Bool) :
    y.Closed (y.close cost ops edge) cost := by
  obtain ⟨z, l, hrest, hlike, hs, -, heq, hw, hcore, hteam⟩ := Ctx.close_eq y cost ops edge
  rw [heq]
  exact Ctx.closed_of (h.of_rest hrest) hw hlike hs hcore hteam

/-! What two states show alike when both are what one context leaves. -/

section
variable {s t t' : State} {x y : Ctx} {cost : Nat}

theorem Ctx.Closed.threadAt_strip (c : y.Closed t cost) (c' : y.Closed t' cost) (b : Nat) :
    (t'.threadAt y.w b).strip = (t.threadAt y.w b).strip :=
  (c'.thread b).trans (c.thread b).symm

/-- Whatever does not look at the team's waves and its reason to leave is the same of both. -/
theorem Ctx.Closed.teamOf_map {α : Type} (c : y.Closed t cost) (c' : y.Closed t' cost) {f : Team → α}
    (hf : ∀ q : Team, f { q with waves := [], leave := none } = f q) :
    (t'.teamOf y.w).map f = (t.teamOf y.w).map f := by
  have e := congrArg (Option.map f) (c'.team.trans c.team.symm)
  have drop : (fun q : Team => f { q with waves := [], leave := none }) = f := funext hf
  simpa only [Option.map_map, Function.comp_def, drop] using e

theorem Ctx.Closed.waveOnly (c : y.Closed t cost) (c' : y.Closed t' cost) (ha : s.agenda <+: y.s.agenda)
    (h : s.WaveOnly t y.w) : s.WaveOnly t' y.w where
  rest := by
    have e := congrArg (fun q : State =>
      ({ q with cycle := s.cycle, agenda := s.agenda, cores := s.cores, ctr := s.ctr } : State)) (c'.rest.trans c.rest.symm)
    exact Eq.trans e h.rest
  agenda := ha.trans c'.agenda
  cores k hk := ((c'.cores k hk).trans (c.cores k hk).symm).trans (h.cores k hk)
  core := by
    have e := congrArg Core.quiet (c'.core.trans c.core.symm)
    exact Eq.trans e h.core
  teams o ho := ((c'.teams o ho).trans (c.teams o ho).symm).trans (h.teams o ho)
  team := (c.teamOf_map c' fun _ => rfl).trans h.team
  waves n hn := ((c'.waves n hn).trans (c.waves n hn).symm).trans (h.waves n hn)
  ops := by
    obtain ⟨v, hv, like⟩ := c.wave
    obtain ⟨v', hv', like'⟩ := c'.wave
    have e : Claims.waveFixed t' y.w = Claims.waveFixed t y.w := by
      rw [Claims.waveFixed_of hv, Claims.waveFixed_of hv', Claims.like_fixed like, Claims.like_fixed like']
    exact Eq.trans e h.ops

theorem Ctx.Closed.wrote {ws : List RegWrite} (c : y.Closed t cost) (c' : y.Closed t' cost) (h : s.Wrote t y.w ws) :
    s.Wrote t' y.w ws where
  v a n ha hn := by
    rw [← h.v a n ha hn]
    unfold State.vreg Thread.reg
    rw [Thread.strip_v (c.threadAt_strip c' a)]
  p a n ha hn := by
    rw [← h.p a n ha hn]
    unfold State.preg Thread.pred
    rw [Thread.strip_p (c.threadAt_strip c' a)]
  sr n hn := ((c'.sr n).trans (c.sr n).symm).trans (h.sr n hn)
  br n hn := ((c'.br n).trans (c.br n).symm).trans (h.br n hn)

theorem Ctx.Closed.delivered {ws : List RegWrite} {fl : BitVec 5} {bad : List Nat} {tr : Nat → Trap} (hw : y.w = x.w)
    (c : y.Closed t cost) (c' : y.Closed t' cost) (ha : s.agenda <+: y.s.agenda)
    (h : s.Delivered t x ws fl bad tr cost) : s.Delivered t' x ws fl bad tr cost := by
  obtain ⟨wrote, only, flags, moved, trapped, others, time⟩ := h
  rw [← hw] at wrote only flags moved trapped others
  have hpc : ∀ a, t'.pcAt y.w a = t.pcAt y.w a := fun a => Thread.strip_pc (c.threadAt_strip c' a)
  have hrec : ∀ a, t'.recAt y.w a = t.recAt y.w a := fun a => Thread.strip_rcd (c.threadAt_strip c' a)
  have hlife : ∀ a, (t'.threadAt y.w a).life = (t.threadAt y.w a).life := fun a => Thread.strip_life (c.threadAt_strip c' a)
  refine ⟨hw ▸ c.wrote c' wrote, hw ▸ c.waveOnly c' ha only, hw ▸ (c.teamOf_map c' fun _ => rfl).trans flags,
    ?_, ?_, ?_, (c'.time.trans c.time.symm).trans time⟩ <;> rw [← hw]
  · simpa only [hpc, hrec, hlife] using moved
  · simpa only [hpc, hrec, hlife] using trapped
  · simpa only [hpc, hrec, hlife] using others

end

/-! Traps at a control instruction. -/

/-- `Ctx.trapPass_spec`, where the instruction may be a clause boundary itself. -/
theorem Ctx.trapPass_edge_spec {s : State} {x : Ctx} (h : s.Holds x) (bad : List Nat) (tr : Nat → Trap) (cost ops : Nat)
    (edge : Bool) (hb : ∀ t ∈ bad, t ∈ x.run) (hbn : bad.Nodup) :
    s.Delivered ((x.trapAll bad tr).next.close cost ops edge) x [] 0 bad tr cost := by
  have hrest : (x.trapAll bad tr).next.rest = x.rest := by rw [Ctx.rest_next, Ctx.rest_trapAll]
  have hok : (x.trapAll bad tr).next.Ok := h.ok.of_rest hrest
  have hlt : ∀ t ∈ bad, t < 32 := fun t ht => (Wave.mem_members.mp (h.run ▸ hb t ht)).1
  have hagenda : s.agenda <+: (x.trapAll bad tr).next.s.agenda := by
    obtain ⟨-, -, -, -, -, htrap⟩ := x.trapAll_spec bad tr hbn hlt
    obtain ⟨-, -, -, -, -, hnext⟩ := Ctx.fall_spec (x.trapAll bad tr) (x.trapAll bad tr).wave.members
      (Wave.members_nodup _) fun t ht => (Wave.mem_members.mp ht).1
    have hs : (x.trapAll bad tr).next.s = (x.trapAll bad tr).s := hnext
    rw [hs, ← h.st]
    exact htrap
  exact Ctx.Closed.delivered (Ctx.rest_w hrest) (hok.close_closed cost ops) (hok.close_closed_edge cost ops edge) hagenda
    (x.trapPass_spec h bad tr cost ops hb hbn)

/-- Every active thread takes the trap, and the others of the run pass, where the undo log has room for the records. -/
theorem State.Issues.trapControl_delivered {s : State} {i : Issue} {x : Ctx} {act : List Nat} (h : s.Issues i x act)
    (tr : Trap) (hfit : Claims.recordsFit i.g x) : s.Delivered (x.trapControl act tr) x [] 0 act (fun _ => tr) 1 := by
  have holds := (State.ctx_holds h.ctx).2
  have hroom : x.room (x.rcdKeys act) = true := h.active ▸ hfit
  have hsub : ∀ t ∈ act, t ∈ x.run := h.active ▸ x.active_sub i.g
  have hnodup : act.Nodup := h.active ▸ holds.active_nodup i.g
  unfold Ctx.trapControl
  rw [if_pos hroom]
  exact x.trapPass_edge_spec holds act (fun _ => tr) 1 0 _ hsub hnodup

end Sys2Proof.Machine

namespace Sys2Proof.Claims

open Sys2Proof.Machine

/-- MSTART in a team without a sequencer raises ILLEGAL_OP, which is code 1 of R31 (R130). -/
theorem exec_mstart_of_no_sequencer {f : BForm} {s : State} {x : Ctx} {act : List Nat}
    (h : s.Issues { g := f.g, uniform := true } x act) (hseq : x.team.mseq = false) :
    exec (.mstart f) s = .next (x.trapControl act ⟨1, 0, (f.toWord 0x0A).extractLsb' 32 32⟩) := by
  refine (h.begin_eq _).trans ?_
  simp only [hseq, Bool.not_false, if_true, hi32]

/-- A row's word executes as the trap that the row names, taken by the active threads. -/
theorem TrapRow.exec_eq {i : Instr} {iss : Issue} {c : Ctx → Prop} {tr : Trap} (row : TrapRow i iss c tr) {s : State}
    {x : Ctx} {act : List Nat} (h : s.Issues iss x act) (hc : c x) : exec i s = .next (x.trapControl act tr) := by
  cases row with
  | trap f => exact h.begin_eq _
  | bkpt f => exact h.begin_eq _
  | mstart f => exact exec_mstart_of_no_sequencer h hc.1

theorem TrapRow.fits {i : Instr} {iss : Issue} {c : Ctx → Prop} {tr : Trap} (row : TrapRow i iss c tr) {x : Ctx}
    (hc : c x) : recordsFit iss.g x := by
  cases row with
  | trap f => exact hc
  | bkpt f => exact hc
  | mstart f => exact hc.2

/-- Settles O8: each row's word runs the one shared operation `Ctx.trapControl` on its active threads, and what that leaves
is `Ctx.trapPass_spec` seen at a clause boundary. -/
theorem softwareTrapsAreTaken : Obligations.SoftwareTrapsAreTaken := by
  unfold Obligations.SoftwareTrapsAreTaken
  intro i iss c tr row s x act hiss hc
  exact ⟨x.trapControl act tr, row.exec_eq hiss hc, hiss.trapControl_delivered tr (row.fits hc)⟩

end Sys2Proof.Claims
end
